-- ==== Sys2Proof/Word.lean ====
section
/-! DEFINITION. The word types of the model: bytes of messages and lane frames, 48-bit identities, and the
numbers of ports, stations and identity positions. Times, slots and currents are plain numbers: the manual adds
and compares them modulo 4,000,000,000 or 400,000,000, which is no power of two. -/

namespace Sys2Proof

/-- A byte of a message body (Chapter 11), of a lane frame, or an adapter attribute's value (Section 2.8). -/
abbrev Byte := BitVec 8

/-- The 48-bit identity of attributes 1–6 (R40). -/
abbrev Ident := BitVec 48

/-- A tether port, 0–23 (Section 0.5). -/
abbrev PortId := Fin 24

/-- A station, 0–3 (Section 4.1). -/
abbrev StationId := Fin 4

/-- A position of the identity table, 0–31 (Section 3.1). -/
abbrev Position := Fin 32

/-- The byte that carries a number (its low eight bits). -/
abbrev toByte (n : Nat) : Byte := BitVec.ofNat 8 n

/-- The 24 ports in ascending order. -/
def allPorts : List PortId :=
  [0, 1, 2, 3, 4, 5, 6, 7, 8, 9, 10, 11, 12, 13, 14, 15, 16, 17, 18, 19, 20, 21, 22, 23]

/-- The four stations in ascending order. -/
def allStations : List StationId := [0, 1, 2, 3]

/-- The 32 identity positions in ascending order. -/
def allPositions : List Position :=
  [0, 1, 2, 3, 4, 5, 6, 7, 8, 9, 10, 11, 12, 13, 14, 15, 16, 17, 18, 19, 20, 21, 22, 23, 24, 25, 26, 27, 28, 29,
    30, 31]

end Sys2Proof
end

