-- ==== Sys2Proof/Syntax.lean ====
section
/-! DEFINITION. The commands of the PZ-424: one constructor of `Instr` per row of the opcode table. A host request
carries its header's tag and length field and its body bytes (Section 10.1); an event names the port, cue, station
or position it concerns. -/

namespace Sys2Proof

/-- What a request's OUT transfer carries after its kind byte: the tag, the body length field of the header, and the
bytes that follow the header (Table 65). -/
structure Request where
  tag  : Byte
  len  : BitVec 16
  body : List Byte
  deriving DecidableEq, Repr

/-- The request kinds of Table 66. -/
inductive ReqKind where
  | describe | clock | restart | stationSet | stationGet | budgetSet | portSet | cameraGet | clearFault | wake | pause
  | attrGet | attrSet | cuePost | cueCancel | cueList | settle | aheadWake | aheadDrop | fireUnlock | idList | idPin
  | idUnpin | idClear | idAging | trapSet | trapGet | eventsFetch
  deriving DecidableEq, Repr

/-- An OUT transfer: a request of a known kind, or the bytes of a transfer that names no request or is too short to
carry a header (R178, R179). -/
inductive OutXfer where
  | request (k : ReqKind) (r : Request)
  | unknown (bytes : List Byte)
  deriving DecidableEq, Repr

/-- The commands: host requests, transfers, pin events, lane events and timed events, in the table's order. -/
inductive Instr where
  | describe (r : Request)
  | clock (r : Request)
  | restart (r : Request)
  | stationSet (r : Request)
  | stationGet (r : Request)
  | budgetSet (r : Request)
  | portSet (r : Request)
  | cameraGet (r : Request)
  | clearFault (r : Request)
  | wake (r : Request)
  | pause (r : Request)
  | attrGet (r : Request)
  | attrSet (r : Request)
  | cuePost (r : Request)
  | cueCancel (r : Request)
  | cueList (r : Request)
  | settle (r : Request)
  | aheadWake (r : Request)
  | aheadDrop (r : Request)
  | fireUnlock (r : Request)
  | idList (r : Request)
  | idPin (r : Request)
  | idUnpin (r : Request)
  | idClear (r : Request)
  | idAging (r : Request)
  | trapSet (r : Request)
  | trapGet (r : Request)
  | eventsFetch (r : Request)
  /-- The bytes of the whole transfer. -/
  | unknownKind (bytes : List Byte)
  | inTransfer
  | inTransferComplete
  | inTransferAbandoned
  | restartExpiry
  | masterReset
  | usbReattach
  /-- The port, and the level of its attention input at that moment (log 5). -/
  | presenceRise (p : PortId) (attention : Bool)
  | presenceFall (p : PortId)
  | attentionRise (p : PortId)
  | railOvercurrent (p : PortId)
  /-- The port, the response's status, data and check bytes (Table 74), and the level of the attention input at the
  end of the response (log 5). -/
  | laneResponse (p : PortId) (status data check : Byte) (attention : Bool)
  | responseLimitExpiry (p : PortId) (attention : Bool)
  | reservationStart (p : PortId)
  | reservationWindowEnd (p : PortId)
  | rampEnd (p : PortId)
  | resetHoldEnd (p : PortId)
  | initWaitRead (p : PortId)
  | initMaxExpiry (p : PortId)
  | calibrateWaitEnd (p : PortId)
  | resumeRead (p : PortId)
  | keepwarmTimerExpiry (p : PortId)
  | dozeLimitExpiry (p : PortId)
  | pauseWaitExpiry (p : PortId)
  | restTimerExpiry (p : PortId)
  | horizonEntry (cue : Nat)
  | preparationStart (cue : Nat)
  | fireRequestTime (cue : Nat)
  | slackExpiry (cue : Nat)
  | fullPress
  | syncPulse
  | syncPulseEnd
  | release
  | freeing
  | confirmTimeout (cue : Nat)
  | lockExpiry
  | settleTimeout (st : StationId)
  | idAgingExpiry (k : Position)
  | clearWalkVisit
  | clearWalkEnd
  | advanceEntryExpiry (p : PortId) (attr : Nat)
  | orderExpiry (p : PortId)
  /-- The port and the sensed rail current in mA. -/
  | railSense (p : PortId) (current : Nat)
  deriving DecidableEq, Repr

end Sys2Proof
end

