-- ==== Sys2Proof/WellFormed.lean ====
section
/-! DEFINITION. Which command terms spell an event of the table: an UNKNOWN_KIND transfer names no request
(R178, R179), an advance entry's number is one of 16–23
(Table 45), a cue id is 1–255 (Table 27). Ports, stations and positions are in range by their types. -/

namespace Sys2Proof

/-- The request a kind byte names (Table 66). -/
def ReqKind.ofByte (b : Byte) : Option ReqKind :=
  match b.toNat with
  | 0x01 => some .describe
  | 0x02 => some .clock
  | 0x03 => some .restart
  | 0x04 => some .stationSet
  | 0x05 => some .stationGet
  | 0x06 => some .budgetSet
  | 0x07 => some .portSet
  | 0x08 => some .cameraGet
  | 0x09 => some .wake
  | 0x0A => some .pause
  | 0x0B => some .attrGet
  | 0x0C => some .attrSet
  | 0x0D => some .cuePost
  | 0x0E => some .cueCancel
  | 0x0F => some .cueList
  | 0x10 => some .settle
  | 0x11 => some .aheadWake
  | 0x12 => some .aheadDrop
  | 0x13 => some .fireUnlock
  | 0x15 => some .idList
  | 0x16 => some .idPin
  | 0x17 => some .idUnpin
  | 0x18 => some .idClear
  | 0x19 => some .idAging
  | 0x1A => some .trapSet
  | 0x1B => some .trapGet
  | 0x1C => some .eventsFetch
  | _ => none

/-- The transfer names no request or is too short to carry a header: the transfers of the UNKNOWN_KIND row. -/
def namesNoRequest (bytes : List Byte) : Bool :=
  match bytes with
  | kind :: _ :: _ :: _ :: _ => (ReqKind.ofByte kind).isNone
  | _ => true

/-- Which terms spell a command. A host request's framing and fields are data: its rule refuses what is wrong in
them, with a reply (R178, R179, R184). -/
def Instr.wf : Instr → Bool
  | .unknownKind bytes => namesNoRequest bytes
  | .railSense _ _ => true
  | .advanceEntryExpiry _ attr => decide (16 ≤ attr ∧ attr ≤ 23)
  | .horizonEntry cue => decide (1 ≤ cue ∧ cue ≤ 255)
  | .preparationStart cue => decide (1 ≤ cue ∧ cue ≤ 255)
  | .fireRequestTime cue => decide (1 ≤ cue ∧ cue ≤ 255)
  | .slackExpiry cue => decide (1 ≤ cue ∧ cue ≤ 255)
  | .confirmTimeout cue => decide (1 ≤ cue ∧ cue ≤ 255)
  | .describe _ => true
  | .clock _ => true
  | .restart _ => true
  | .stationSet _ => true
  | .stationGet _ => true
  | .budgetSet _ => true
  | .portSet _ => true
  | .cameraGet _ => true
  | .clearFault _ => true
  | .wake _ => true
  | .pause _ => true
  | .attrGet _ => true
  | .attrSet _ => true
  | .cuePost _ => true
  | .cueCancel _ => true
  | .cueList _ => true
  | .settle _ => true
  | .aheadWake _ => true
  | .aheadDrop _ => true
  | .fireUnlock _ => true
  | .idList _ => true
  | .idPin _ => true
  | .idUnpin _ => true
  | .idClear _ => true
  | .idAging _ => true
  | .trapSet _ => true
  | .trapGet _ => true
  | .eventsFetch _ => true
  | .inTransfer => true
  | .inTransferComplete => true
  | .inTransferAbandoned => true
  | .restartExpiry => true
  | .masterReset => true
  | .usbReattach => true
  | .presenceRise _ _ => true
  | .presenceFall _ => true
  | .attentionRise _ => true
  | .railOvercurrent _ => true
  | .laneResponse _ _ _ _ _ => true
  | .responseLimitExpiry _ _ => true
  | .reservationStart _ => true
  | .reservationWindowEnd _ => true
  | .rampEnd _ => true
  | .resetHoldEnd _ => true
  | .initWaitRead _ => true
  | .initMaxExpiry _ => true
  | .calibrateWaitEnd _ => true
  | .resumeRead _ => true
  | .keepwarmTimerExpiry _ => true
  | .dozeLimitExpiry _ => true
  | .pauseWaitExpiry _ => true
  | .restTimerExpiry _ => true
  | .fullPress => true
  | .syncPulse => true
  | .syncPulseEnd => true
  | .release => true
  | .freeing => true
  | .lockExpiry => true
  | .settleTimeout _ => true
  | .idAgingExpiry _ => true
  | .clearWalkVisit => true
  | .clearWalkEnd => true
  | .orderExpiry _ => true

end Sys2Proof
end

