-- ==== Sys2Proof/Decode.lean ====
section
/-! DEFINITION. The command a table word spells. The opcode table of this block gives no row any bits (a host request
is a USB message, laid out in Chapter 11 and decoded in Machine/Operands.lean; an event is no word at all), so no
word spells a command. -/

namespace Sys2Proof

/-- The command spelled by `w`, read as `nbits` bits of the opcode table: none, since no row of the table has bits. -/
def decodeTableWord (_nbits _w : Nat) : Option Instr := none

end Sys2Proof
end

