-- ==== Sys2Proof/Config.lean ====
section
/-! DEFINITION. What the part fixes: the moduli of the clock, the capacities of Table 3, the part code; and the
free values, which the manual leaves open. -/

namespace Sys2Proof.Config

/-- The clock counts 0 to 3,999,999,999 ms (R177). -/
abbrev clockMod : Nat := 4000000000

/-- Slot numbers run from 0 to 399,999,999 (Section 0.7.2). -/
abbrev slotMod : Nat := 400000000

/-- The planning horizon in slots (Section 0.7.2). -/
abbrev horizon : Nat := 6000

/-- The part code (R185). -/
abbrev partCode : Nat := 424

/-- The 16 capacities of Table 3, in its order; held-event slots as 1 (R185, Table 77). -/
def capacities : List Nat := [24, 4, 8, 32, 8, 16, 8, 24, 32, 16, 64, 1, 16, 4, 512, 64]

abbrev queueSize : Nat := 8
abbrev cueCapacity : Nat := 16
abbrev advCapacity : Nat := 32
abbrev eventCapacity : Nat := 64
abbrev reportCapacity : Nat := 16
abbrev replyCapacity : Nat := 32
abbrev maxMessage : Nat := 512

/-- FREE VALUE (log 8): the revision of the module is fixed in the part and the manual does not give it (R185); this
is the revision less one. -/
opaque revisionLessOne : Fin 255

/-- The revision of the module, 1–255 (R185). -/
def revision : Nat := revisionLessOne.val + 1

/-- FREE VALUE (log 31): R9 gives the request CLEAR_FAULT, and Table 66 lists no kind code for it; this is the low seven
bits of the code its transfer carries. -/
opaque clearFaultCode : BitVec 7

/-- FREE VALUE (log 1): which of several events due at one instant is taken first (R180 and the rules that say
"either may be taken first"). Applied to the counter `freeCount` of the state. -/
opaque pick : Nat → Nat

/-- FREE VALUE (log 36): the next position that ID_LIST carries when the clear walk has made its last visit and is not yet
over (R63, R66, Table 81). -/
opaque walkPast : BitVec 8

/-- FREE VALUE (log 37): the reading that a sensed current above 8000 mA leaves in the camera record, whose range is 0–8000
(Table 8). Applied to the counter `freeCount` of the state. -/
opaque overRange : Nat → Fin 8001

end Sys2Proof.Config
end

