-- ==== Sys2Proof/Machine/State.lean ====
section
/-! DEFINITION. The state of the PZ-424 as plain data: the 24 ports with their camera records and lanes, the identity
table, the stations and budgets, the cue list, the fire unit, the advance table, the event filter, the link and the
time base; and the state after a master reset. Times are clock values in ms, slots are slot numbers. -/

namespace Sys2Proof.Machine

/-! ## Camera records and lanes (Chapters 1 and 2) -/

/-- Pause targets and rest states (Table 67). -/
inductive Target where
  | doze | keepwarm | deep
  deriving DecidableEq, Repr

/-- Pause origins (Section 1.6). -/
inductive Origin where
  | host | auto
  deriving DecidableEq, Repr

/-- A pause: its target and its origin. -/
structure Pause where
  target : Target
  origin : Origin
  deriving DecidableEq, Repr

/-- Fault causes (Table 8). -/
inductive FaultCause where
  | railOvercurrent | laneLost | wakeFailed
  deriving DecidableEq, Repr

/-- An attribute number and a value (Table 64). -/
structure Pair where
  attr  : Nat
  value : Byte
  deriving DecidableEq, Repr

/-- The six figures of a camera profile, in slots and mA (Table 16). -/
structure Profile where
  resumeLatency : Nat
  initMax       : Nat
  deepInrush    : Nat
  inrushSlots   : Nat
  awake         : Nat
  resumeInrush  : Nat
  deriving DecidableEq, Repr

/-- A wake forecast: the predicted ready slot and the cue the wake is for (R114). -/
structure Forecast where
  ready  : Nat
  needed : Option Nat
  deriving DecidableEq, Repr

/-- The wake-phase exchanges (Section 2.2). -/
inductive WakeEx where
  | resetWrite
  | initRead
  | calWrite
  | restoreWrite (pr : Pair)
  | resumeRead
  deriving DecidableEq, Repr

/-- The wake phases with the slots and clock values they hold (R10–R16). -/
inductive Phase where
  /-- Until the start of slot `endSlot`. -/
  | ramp (endSlot : Nat)
  /-- Reset-out is held until the start of `endSlot`; it may be released while the reset write is still out, or the
  write may be done while it is held (R11). -/
  | resetHold (endSlot : Nat) (released written : Bool)
  /-- The next read mark and the expiry of the init maximum (R12). -/
  | initWait (readSlot maxSlot : Nat)
  /-- The end of the 2-slot wait, once the calibration write has succeeded (R13). -/
  | calibrate (endSlot : Option Nat)
  /-- The pairs still to be restored, the one being written first (R14). -/
  | restore (rest : List Pair)
  /-- The clock value of the next read, when none is owed or out, and how many further reads were made (R16). -/
  | resume (readAt : Option Nat) (further : Nat)
  deriving DecidableEq, Repr

/-- What a camera in WAKING holds. -/
structure Wake where
  phase    : Phase
  owed     : Option WakeEx
  forecast : Forecast
  pending  : Option Pause
  deriving DecidableEq, Repr

/-- The nine camera states, each with the optional fields Table 8 gives it (R1): a field is present exactly in its
state. -/
inductive Power where
  | vacant
  | deep
  | waking (w : Wake)
  /-- The rest timer's expiry and the cue of the rest hold (R74, R76). -/
  | ready (rest : Option Nat) (hold : Option Nat)
  /-- The pending pause, and whether the full-press line is asserted (R18, R23). -/
  | armed (pending : Option Pause) (pressed : Bool)
  /-- The doze-limit timer (R26). -/
  | doze (limit : Option Nat)
  /-- The keep-warm timer (R44). -/
  | keepwarm (timer : Option Nat)
  /-- The pause target with its origin, and the pause-wait timer (R21). -/
  | pausing (pause : Pause) (wait : Nat)
  | fault (cause : FaultCause)
  deriving DecidableEq, Repr

/-- Lane operations (Table 13). -/
inductive LaneOp where
  | read | write | poll | ping
  deriving DecidableEq, Repr

/-- What made the exchange on the lane: a wake phase, the job in flight, or a port whose camera has become VACANT
since (R5: its result is discarded). -/
inductive ExSrc where
  | wake (e : WakeEx)
  | job
  | discarded
  deriving DecidableEq, Repr

/-- The exchange a lane carries, in its first attempt or its retry (R30–R32). -/
structure Exchange where
  op      : LaneOp
  attr    : Nat
  data    : Byte
  retry   : Bool
  src     : ExSrc
  started : Nat
  deriving DecidableEq, Repr

/-- Job kinds with what each still has to do (Table 14). `ticket` names the reply-line entry of a host request. -/
inductive JobKind where
  | hostRead (ticket attr : Nat)
  | hostWrite (ticket attr : Nat) (value : Byte)
  /-- The cue, whether its check form is CHECK_KEEP (R141), and the pairs still to be written. -/
  | prepWrite (cue : Nat) (keep : Bool) (pairs : List Pair)
  /-- The pairs still to be written, and the lifetime, the expiry and the number of the order it came from (R135). -/
  | aheadWrite (pairs : List Pair) (lifetime expiry seq : Nat)
  /-- The bytes read so far, first read first (R40). -/
  | identify (vals : List Byte)
  | poll
  | thermalRead
  | ping
  /-- The state it was enqueued for, DOZE or KEEPWARM (R50). -/
  | powerMode (target : Target)
  deriving DecidableEq, Repr

/-- A job of a queue or waiting line: in flight or not; `cut` when it makes no further exchange (R8, R94, R95, R102,
R137, R52); `noEntry` when its current exchange creates no advance entry (R136, R145). -/
structure Job where
  kind    : JobKind
  started : Bool
  cut     : Bool
  noEntry : Bool
  deriving DecidableEq, Repr

/-- Event kinds (Table 72, in the order of their codes). -/
inductive EventKind where
  | hello | shot | offloadBegin | offloadEnd | cardFull | mediaOk | shutterFault | button | thermalChange
  deriving DecidableEq, Repr

/-- An event record (R163). -/
structure EventRec where
  port  : PortId
  ident : Option Ident
  kind  : EventKind
  data  : Byte
  time  : Nat
  deriving DecidableEq, Repr

/-- An advance order (Table 46); the lifetime is in seconds. `seq` is the model's own: the number of its AHEAD_WAKE, by which
a newer order is known (R135). -/
structure Order where
  pairs    : List Pair
  lifetime : Nat
  expiry   : Nat
  seq      : Nat
  deriving DecidableEq, Repr

/-- Reservation kinds (Table 36). -/
inductive ResvKind where
  | deep | resume
  deriving DecidableEq, Repr

/-- A reservation (Table 36); `from_` is the state the latency was computed for. -/
structure Reservation where
  kind    : ResvKind
  from_   : Target
  start   : Nat
  length  : Nat
  current : Nat
  latency : Nat
  ready   : Nat
  needed  : Option Nat
  started : Bool
  deriving DecidableEq, Repr

/-- A current sensed at a slot boundary, in mA, and that boundary (R1, R6). -/
structure Sense where
  time    : Nat
  current : Nat
  deriving DecidableEq, Repr

/-- One port: its camera record (Table 8), its settings, its inputs, its lane and job queue, and the marks other
blocks keep for it. The bound identity of Table 8 is read from the identity table. -/
structure Port where
  power        : Power
  hostPause    : Bool
  offload      : Bool
  mediaFull    : Bool
  grade        : Option Nat
  gradeChanged : Bool
  /-- 0–8000 mA; `none` is VOID. -/
  reading      : Option Nat
  run          : Nat
  profile      : Option Profile
  station      : Option StationId
  noteAbandoned : Bool
  noteConflict  : Bool
  resv         : Option Reservation
  /-- A started RESUME reservation waits for a POWER_MODE job in flight (R16). -/
  resumeWait   : Option Forecast
  /-- The commitment figure (R83). -/
  commitment   : Option Nat
  railLimit    : Nat
  /-- The limit that governs the comparison since the last sensed boundary (R79). -/
  limitInForce : Nat
  /-- The last current sensed since the rail went on (R6, log 16). -/
  sensed       : Option Sense
  /-- The slot boundary from which the current has stayed above the limit, or the rail has been on (R6, log 16). -/
  overFrom     : Option Nat
  enabled      : Bool
  presence     : Bool
  attention    : Bool
  queue        : List Job
  waitLine     : List Job
  markPoll     : Bool
  markThermal  : Bool
  markPing     : Bool
  lane         : Option Exchange
  pollBit      : Bool
  resync       : Bool
  held         : Option EventRec
  conflict     : Bool
  rescan       : Bool
  order        : Option Order
  camMark      : Bool
  /-- How many wake-line pulses were given (R3, R16). -/
  wakePulses   : Nat
  deriving DecidableEq, Repr

/-! ## Identities, stations, cues (Chapters 3 to 5) -/

/-- A profile of an identity entry, its source (OVERRIDE or LEARNED) and its clamped flag (Table 20). -/
structure StoredProfile where
  figures    : Profile
  overridden : Bool
  clamped    : Bool
  deriving DecidableEq, Repr

/-- An identity entry (Table 20); its position is its index in the table. -/
structure IdEntry where
  ident   : Ident
  bound   : Option PortId
  pinned  : Bool
  profile : Option StoredProfile
  shadow  : List Pair
  unbind  : Option Nat
  deriving DecidableEq, Repr

/-- The clear walk: its start and the next position it visits (R63). -/
structure Walk where
  t0   : Nat
  next : Nat
  deriving DecidableEq, Repr

/-- The fields of a station but its port set, which is the set of ports whose record names the station (Table 25). -/
structure Station where
  restState   : Target
  linger      : Nat
  dozeLimit   : Nat
  pauseWait   : Nat
  guardSlots  : Nat
  prepTime    : Nat
  focusLead   : Nat
  strobe      : Nat
  press       : Nat
  slack       : Nat
  confirm     : Nat
  keepBase    : Nat
  lockOn      : Bool
  lockTimeout : Nat
  deriving DecidableEq, Repr

/-- Cue states (Table 29). -/
inductive CueState where
  | waiting | planned | preparing | fireWait | firing | confirming | done
  deriving DecidableEq, Repr

/-- Check forms (R138–R141). -/
inductive CheckForm where
  | none_ | clear | keep
  deriving DecidableEq, Repr

/-- Dispositions (Table 37). -/
inductive Disp where
  | covered | placed | latePredicted | shed | parked | thermal | fault | vacant
  deriving DecidableEq, Repr

/-- Preparation statuses (Table 28). -/
inductive Prep where
  | notStarted | writing | complete | late | failed
  deriving DecidableEq, Repr

/-- Per-camera outcomes (Table 28). -/
inductive CamOutcome where
  | taken | noConfirm | notReady | prepLate | prepFailed | mediaFull | shed | parked | thermal | fault | vacant
  deriving DecidableEq, Repr

/-- A member entry of a cue (Table 28). -/
structure Member where
  port    : PortId
  disp    : Option Disp
  ready   : Option Nat
  prep    : Prep
  outcome : Option CamOutcome
  deriving DecidableEq, Repr

/-- What the grant records: the grant time, the delay and the actual fire time (R96). -/
structure Grant where
  t0    : Nat
  delay : Nat
  fire  : Nat
  deriving DecidableEq, Repr

/-- A cue record (Table 27). The cue outcome follows from the state and the grant (R96, R98); `mark` is the pending
CUE_DONE mark. -/
structure Cue where
  id      : Nat
  station : StationId
  time    : Nat
  posting : Nat
  profile : List Pair
  form    : CheckForm
  state   : CueState
  members : List Member
  grant   : Option Grant
  confirm : List PortId
  timer   : Option Nat
  mark    : Bool
  deriving DecidableEq, Repr

/-! ## Fire unit, advance table, event filter (Chapters 7 to 9) -/

/-- A fire request (Table 53). -/
structure FireReq where
  cue     : Nat
  station : StationId
  time    : Nat
  reqTime : Nat
  slackAt : Nat
  deriving DecidableEq, Repr

/-- The owner of the fire unit: its cue and station, t0, the station values taken at the grant (R149, R156, R158), and which
instants of Table 54 have passed. -/
structure Owner where
  cue      : Nat
  station  : StationId
  t0       : Nat
  focus    : Nat
  strobe   : Nat
  press    : Nat
  lockOn   : Bool
  lockTimeout : Nat
  pressed  : Bool
  synced   : Bool
  released : Bool
  deriving DecidableEq, Repr

/-- The fire lock (R146). -/
structure Lock where
  station : StationId
  expiry  : Nat
  deriving DecidableEq, Repr

/-- An advance entry (Table 45). -/
structure AdvEntry where
  port    : PortId
  attr    : Nat
  value   : Byte
  valid   : Bool
  created : Nat
  expiry  : Nat
  deriving DecidableEq, Repr

/-- A trap rule (Section 9.3): bit k − 1 of `kinds` for event code k, bit n of `ports` for port n. -/
structure TrapRule where
  enabled : Bool
  kinds   : BitVec 9
  ports   : BitVec 24
  ident   : Ident
  mask    : Ident
  forward : Bool
  deriving DecidableEq, Repr

/-! ## The link (Chapter 10) -/

/-- An entry of the reply line: the reply's kind and tag, and its body once it is ready (R181). -/
structure ReplyEntry where
  ticket : Nat
  kind   : Byte
  tag    : Byte
  body   : Option (List Byte)
  deriving DecidableEq, Repr

/-- A pending SETTLE (R182). -/
structure SettleReq where
  tag     : Byte
  timeout : Nat
  clamped : Bool
  expiry  : Nat
  deriving DecidableEq, Repr

/-- A settle reply that is ready (R182). -/
structure SettleReply where
  tag  : Byte
  body : List Byte
  deriving DecidableEq, Repr

/-- Reports of the report queue (Table 62); a CUE_DONE carries its body. -/
inductive Report where
  | camera (p : PortId)
  | cueDone (body : List Byte)
  | events
  deriving DecidableEq, Repr

/-- Where an IN transfer's message comes from (R183). -/
inductive InSource where
  | settle | replyLine | report | noData
  deriving DecidableEq, Repr

/-- An IN transfer in progress: its source, its message, and which of the grade changed flag and the two change notes
its completion clears (R2, R186). -/
structure InXfer where
  source    : InSource
  message   : List Byte
  grade     : Bool
  abandoned : Bool
  conflict  : Bool
  deriving DecidableEq, Repr

/-- A RESTART taken and awaiting its reset (R188): FULL or WARM, the time it was taken, the ticket of its reply. -/
structure Restart where
  full   : Bool
  at_    : Nat
  ticket : Nat
  deriving DecidableEq, Repr

/-! ## The machine -/

/-- The whole module. -/
structure State where
  clock     : Nat
  ports     : Vector Port 24
  stations  : Vector Station 4
  steady    : Nat
  inrush    : Nat
  table     : Vector (Option IdEntry) 32
  aging     : Nat
  walk      : Option Walk
  cues      : List Cue
  lastCue   : Nat
  postings  : Nat
  owner     : Option Owner
  lock      : Option Lock
  waiting   : List FireReq
  syncEnd   : Option Nat
  adv       : List AdvEntry
  traps     : Vector TrapRule 16
  events    : List EventRec
  line      : List ReplyEntry
  settles   : Vector (Option SettleReq) 4
  settleReady : List SettleReply
  reports   : List Report
  eventsMark : Bool
  /-- The source served at the previous transfer was the report queue (R183). -/
  lastReport : Bool
  inXfer    : Option InXfer
  resend    : Option InSource
  restart   : Option Restart
  heldOut   : List OutXfer
  attached  : Bool
  reattachAt : Option Nat
  /-- The model's own: the next number for a request that waits for its owner (log 22). -/
  tickets   : Nat
  /-- The model's own: the counter `Config.pick` and `Config.overRange` are applied to (logs 1 and 37). -/
  freeCount : Nat
  /-- The commands that wait, first in first out. -/
  pending   : List Instr
  deriving DecidableEq, Repr

/-- Why the model stops: there is no such cause, since every command runs in every state (log 3). -/
inductive Fault where
  deriving DecidableEq, Repr

/-- Why the model has no meaning for a command. -/
inductive Refusal where
  /-- Raised by `exec` alone, for a command that has no meaning yet; no arm of this model answers with it. Safe. -/
  | notModelled (mnemonic : String)
  deriving DecidableEq, Repr

/-- The outcome of a command. -/
abbrev Result := Host.Outcome State Fault Refusal

/-! ## Reset -/

/-- A port after a master reset (R28, R51, R86, R127, R144, R175): VACANT, its rail limit 2500 mA, enabled. The inputs
are low and the resync need is clear (DESIGN CHOICE, logs 6 and 29). -/
def Port.reset : Port where
  power := .vacant
  hostPause := false
  offload := false
  mediaFull := false
  grade := none
  gradeChanged := false
  reading := some 0
  run := 0
  profile := none
  station := none
  noteAbandoned := false
  noteConflict := false
  resv := none
  resumeWait := none
  commitment := none
  railLimit := 2500
  limitInForce := 2500
  sensed := none
  overFrom := none
  enabled := true
  presence := false
  attention := false
  queue := []
  waitLine := []
  markPoll := false
  markThermal := false
  markPing := false
  lane := none
  pollBit := false
  resync := false
  held := none
  conflict := false
  rescan := false
  order := none
  camMark := false
  wakePulses := 0

/-- A station at the defaults of Table 25 (R86). -/
def Station.reset : Station where
  restState := .doze
  linger := 120
  dozeLimit := 30
  pauseWait := 60
  guardSlots := 2
  prepTime := 3
  focusLead := 200
  strobe := 5
  press := 100
  slack := 500
  confirm := 500
  keepBase := 30
  lockOn := false
  lockTimeout := 10

/-- A trap rule after a master reset (R175). -/
def TrapRule.reset : TrapRule where
  enabled := false
  kinds := 0
  ports := 0
  ident := 0
  mask := 0
  forward := true

/-- The machine right after a master reset (R28, R51, R67, R86, R106, R127, R144, R161, R175, R177, R189): the clock at
0, every table empty, the USB device detached until 100 ms. -/
def State.reset : State where
  clock := 0
  ports := Vector.replicate 24 Port.reset
  stations := Vector.replicate 4 Station.reset
  steady := 12000
  inrush := 3000
  table := Vector.replicate 32 none
  aging := 300
  walk := none
  cues := []
  lastCue := 0
  postings := 0
  owner := none
  lock := none
  waiting := []
  syncEnd := none
  adv := []
  traps := Vector.replicate 16 TrapRule.reset
  events := []
  line := []
  settles := Vector.replicate 4 none
  settleReady := []
  reports := []
  eventsMark := false
  lastReport := true
  inXfer := none
  resend := none
  restart := none
  heldOut := []
  attached := false
  reattachAt := some 100
  tickets := 0
  freeCount := 0
  pending := []

end Sys2Proof.Machine
end

