-- ==== Sys2Proof/Machine/Flags.lean ====
section
/-! DEFINITION. Lane frames: the check byte (R193), the request frame (Table 73), the adapter's status byte and the
verdict on an attempt (R30, R194, R195). -/

namespace Sys2Proof.Machine

/-- The low `n` bits of a number, most significant first: the order of transmission (Section 11.3). -/
def bitsMsb (n v : Nat) : List Bool :=
  ((List.range n).reverse).map (fun i => v.testBit i)

/-- One shift of the check register (R193). -/
def crcStep (reg : Byte) (bit : Bool) : Byte :=
  if reg.msb != bit then (reg <<< 1) ^^^ 0x07#8 else reg <<< 1

/-- The check byte over a run of bits: polynomial x⁸ + x² + x + 1, initial value 0 (R193). -/
def crc8 (bits : List Bool) : Byte :=
  bits.foldl crcStep 0#8

/-- Operation codes (Table 73). -/
def LaneOp.code : LaneOp → Nat
  | .read => 1
  | .write => 2
  | .poll => 3
  | .ping => 4

/-- The 17 covered bits of a request frame: operation, attribute, data (R193). -/
def requestBits (op : LaneOp) (attr : Nat) (data : Byte) : List Bool :=
  bitsMsb 3 op.code ++ bitsMsb 6 attr ++ bitsMsb 8 data.toNat

/-- The check byte of a request frame. -/
def requestCheck (op : LaneOp) (attr : Nat) (data : Byte) : Byte :=
  crc8 (requestBits op attr data)

/-- The 43 bits of the request frame an exchange sends, in its first attempt and its retry alike (Table 73, R31). -/
def Exchange.frame (e : Exchange) : List Bool :=
  bitsMsb 16 0xFFFF ++ [true, false] ++ requestBits e.op e.attr e.data ++
    bitsMsb 8 (requestCheck e.op e.attr e.data).toNat

/-- The check byte of a response frame, over its status and data bytes (R193). -/
def responseCheck (status data : Byte) : Byte :=
  crc8 (bitsMsb 8 status.toNat ++ bitsMsb 8 data.toNat)

/-- The result field of a status byte is 01, ACK (Table 75, R194). -/
def isAck (status : Byte) : Bool :=
  status.toNat / 64 == 1

/-- Bits 3–0 of a status byte: for a POLL the event code, or 0 for NONE (Table 75). -/
def eventCode (status : Byte) : Nat := status.toNat % 16

/-- Bit 4 of a status byte: the sequence bit of the event a POLL is answered with (Table 75). -/
def sequenceBit (status : Byte) : Bool := status.toNat.testBit 4

/-- The event of a code (Table 72). -/
def EventKind.ofCode : Nat → Option EventKind
  | 1 => some .hello
  | 2 => some .shot
  | 3 => some .offloadBegin
  | 4 => some .offloadEnd
  | 5 => some .cardFull
  | 6 => some .mediaOk
  | 7 => some .shutterFault
  | 8 => some .button
  | 9 => some .thermalChange
  | _ => none

/-- The code of an event (Table 72). -/
def EventKind.code : EventKind → Nat
  | .hello => 1
  | .shot => 2
  | .offloadBegin => 3
  | .offloadEnd => 4
  | .cardFull => 5
  | .mediaOk => 6
  | .shutterFault => 7
  | .button => 8
  | .thermalChange => 9

/-- The verdict on a complete response that came within the limit (R30, R194): the check byte is right, the result is
ACK, a WRITE is echoed, a POLL carries NONE or an event of Table 72. -/
def attemptSucceeds (e : Exchange) (status data check : Byte) : Bool :=
  check == responseCheck status data && isAck status &&
    (match e.op with
     | .write => data == e.data
     | .poll => decide (eventCode status ≤ 9)
     | .read => true
     | .ping => true)

/-- The thermal grade of a value of attribute 12: bits 0–2 (R195, Table 76). -/
def thermalGrade (v : Byte) : Nat := v.toNat % 8

/-- The adapter's changed flag in a value of attribute 12: bit 7 (R195, Table 76). -/
def thermalChanged (v : Byte) : Bool := v.toNat.testBit 7

/-- The ready bit of a value of attribute 0: bit 0 (Table 76). -/
def readyBit (v : Byte) : Bool := v.toNat.testBit 0

end Sys2Proof.Machine
end

