-- ==== Sys2Proof/Machine/Operands.lean ====
section
/-! DEFINITION. Message fields: the encodings of Table 64 and Table 67 in both directions, the kind codes of Table 66,
the body length each request kind requires (R179), and the fields a body carries (R191, R192). -/

namespace Sys2Proof.Machine

/-! ## Numbers in bodies -/

/-- The byte at an offset of a body, as a number. -/
def u8 (b : List Byte) (i : Nat) : Nat := (b.getD i 0#8).toNat

/-- The two bytes at an offset, least significant first (R191). -/
def u16 (b : List Byte) (i : Nat) : Nat := u8 b i + 256 * u8 b (i + 1)

/-- The four bytes at an offset, least significant first (R191). -/
def u32 (b : List Byte) (i : Nat) : Nat := u16 b i + 65536 * u16 b (i + 2)

/-- The identity at an offset: six bytes, most significant first (Table 64). -/
def identAt (b : List Byte) (i : Nat) : Ident :=
  BitVec.ofNat 48 ((List.range 6).foldl (fun acc k => acc * 256 + u8 b (i + k)) 0)

/-- Two bytes, least significant first (R191). -/
def le16 (n : Nat) : List Byte := [toByte n, toByte (n / 256)]

/-- Four bytes, least significant first (R191). -/
def le32 (n : Nat) : List Byte := [toByte n, toByte (n / 256), toByte (n / 65536), toByte (n / 16777216)]

/-- An identity, most significant byte first (Table 64). -/
def identBytes (x : Ident) : List Byte :=
  ((List.range 6).reverse).map (fun k => toByte (x.toNat / 256 ^ k))

/-- A clock value or slot number, or absent (Table 64). -/
def optTime : Option Nat → List Byte
  | some t => le32 t
  | none => le32 0xFFFFFFFF

/-- A port or station, or absent (Table 64). -/
def optIndex {n : Nat} : Option (Fin n) → List Byte
  | some i => [toByte i.val]
  | none => [0xFF#8]

/-- A cue id, or absent (Table 64). -/
def optCue : Option Nat → List Byte
  | some c => [toByte c]
  | none => [0#8]

/-- A flag (Table 64). -/
def flagByte (b : Bool) : Byte := if b then 1#8 else 0#8

/-- A set of ports as four bytes, bit n for port n (Table 64). -/
def portSetBytes (ports : List PortId) : List Byte :=
  le32 ((allPorts.filter (fun p => ports.contains p)).foldl (fun acc p => acc + 2 ^ p.val) 0)

/-- An attribute/value pair (Table 64). -/
def pairBytes (pr : Pair) : List Byte := [toByte pr.attr, pr.value]

/-- The ports of a set carried as a number (Table 64). -/
def portsOf (n : Nat) : List PortId := allPorts.filter (fun p => n.testBit p.val)

/-- The `n` pairs at an offset. -/
def pairsAt (b : List Byte) (i : Nat) : Nat → List Pair
  | 0 => []
  | n + 1 => ⟨u8 b i, b.getD (i + 1) 0#8⟩ :: pairsAt b (i + 2) n

/-- Insert a pair by ascending attribute number. -/
def insertPair (pr : Pair) : List Pair → List Pair
  | [] => [pr]
  | q :: qs => if pr.attr ≤ q.attr then pr :: q :: qs else q :: insertPair pr qs

/-- Pairs in ascending attribute number (R89, R132). -/
def sortPairs (ps : List Pair) : List Pair := ps.foldr insertPair []

/-- No two pairs have the same number. -/
def distinctAttrs : List Pair → Bool
  | [] => true
  | q :: qs => !(qs.any (fun r => r.attr == q.attr)) && distinctAttrs qs

/-- Every number is one of the capture profile, 16–23 (R89, R132). -/
def captureAttrs (ps : List Pair) : Bool :=
  ps.all (fun pr => decide (16 ≤ pr.attr ∧ pr.attr ≤ 23))

/-- The port a byte names (R2 and the like: above 23 there is none). -/
def portOf? (n : Nat) : Option PortId := if h : n < 24 then some ⟨n, h⟩ else none

/-- The station a byte names. -/
def stationOf? (n : Nat) : Option StationId := if h : n < 4 then some ⟨n, h⟩ else none

/-- A value clamped to a range. -/
def clamp (lo hi v : Nat) : Nat := if v < lo then lo else if hi < v then hi else v

/-! ## Enumerations (Table 67) -/

/-- Status codes (Table 61). -/
inductive Status where
  | ok | okClamped | badLength | unknownKind | badArg | badState | busy | noRoom | notFound | tooLate | conflict
  | overBudget | timedOut
  deriving DecidableEq, Repr

def Status.code : Status → Byte
  | .ok => 0x00#8
  | .okClamped => 0x01#8
  | .badLength => 0x02#8
  | .unknownKind => 0x03#8
  | .badArg => 0x04#8
  | .badState => 0x05#8
  | .busy => 0x06#8
  | .noRoom => 0x07#8
  | .notFound => 0x08#8
  | .tooLate => 0x09#8
  | .conflict => 0x0A#8
  | .overBudget => 0x0B#8
  | .timedOut => 0x0C#8

/-- OK, or OK_CLAMPED when a value was clamped or rounded. -/
def okOr (clamped : Bool) : Status := if clamped then .okClamped else .ok

def Power.code : Power → Nat
  | .vacant => 1
  | .deep => 2
  | .waking _ => 3
  | .ready _ _ => 4
  | .armed _ _ => 5
  | .doze _ => 6
  | .keepwarm _ => 7
  | .pausing _ _ => 8
  | .fault _ => 9

def Phase.code : Phase → Nat
  | .ramp _ => 1
  | .resetHold _ _ _ => 2
  | .initWait _ _ => 3
  | .calibrate _ => 4
  | .restore _ => 5
  | .resume _ _ => 6

def Target.code : Target → Nat
  | .doze => 1
  | .keepwarm => 2
  | .deep => 3

def Target.ofCode : Nat → Option Target
  | 1 => some .doze
  | 2 => some .keepwarm
  | 3 => some .deep
  | _ => none

def Origin.code : Origin → Nat
  | .host => 1
  | .auto => 2

def FaultCause.code : FaultCause → Nat
  | .railOvercurrent => 1
  | .laneLost => 2
  | .wakeFailed => 3

def CueState.code : CueState → Nat
  | .waiting => 1
  | .planned => 2
  | .preparing => 3
  | .fireWait => 4
  | .firing => 5
  | .confirming => 6
  | .done => 7

def CheckForm.code : CheckForm → Nat
  | .none_ => 1
  | .clear => 2
  | .keep => 3

def CheckForm.ofCode : Nat → Option CheckForm
  | 1 => some .none_
  | 2 => some .clear
  | 3 => some .keep
  | _ => none

def Disp.code : Disp → Nat
  | .covered => 1
  | .placed => 2
  | .latePredicted => 3
  | .shed => 4
  | .parked => 5
  | .thermal => 6
  | .fault => 7
  | .vacant => 8

def Prep.code : Prep → Nat
  | .notStarted => 1
  | .writing => 2
  | .complete => 3
  | .late => 4
  | .failed => 5

def CamOutcome.code : CamOutcome → Nat
  | .taken => 1
  | .noConfirm => 2
  | .notReady => 3
  | .prepLate => 4
  | .prepFailed => 5
  | .mediaFull => 6
  | .shed => 7
  | .parked => 8
  | .thermal => 9
  | .fault => 10
  | .vacant => 11

def ResvKind.code : ResvKind → Nat
  | .deep => 1
  | .resume => 2

/-- Trap action codes: 1 FORWARD, 2 SUPPRESS. -/
def actionCode (forward : Bool) : Nat := if forward then 1 else 2

/-- Fire lock codes: 1 OFF, 2 ON. -/
def lockCode (on : Bool) : Nat := if on then 2 else 1

/-- Port enable codes: 1 ENABLED, 2 DISABLED. -/
def enableCode (en : Bool) : Nat := if en then 1 else 2

/-- Profile source codes: 1 LEARNED, 2 OVERRIDE. -/
def sourceCode (overridden : Bool) : Nat := if overridden then 2 else 1

/-- Advance entry state codes: 1 VALID, 2 VOID. -/
def entryStateCode (valid : Bool) : Nat := if valid then 1 else 2

/-- A two-valued enumeration byte: `false` for code 1, `true` for code 2, none for an unknown code (R191). -/
def twoCode (n : Nat) : Option Bool := if n = 1 then some false else if n = 2 then some true else none

/-- A flag byte: any value but 0 and 1 is refused (R191). -/
def flagOf? (n : Nat) : Option Bool := if n = 0 then some false else if n = 1 then some true else none

/-! ## Requests -/

/-- The kind code of a request (Table 66). CLEAR_FAULT has none there: its low seven bits are free (log 31). -/
def reqCode : ReqKind → BitVec 7
  | .describe => 0x01#7
  | .clock => 0x02#7
  | .restart => 0x03#7
  | .stationSet => 0x04#7
  | .stationGet => 0x05#7
  | .budgetSet => 0x06#7
  | .portSet => 0x07#7
  | .cameraGet => 0x08#7
  | .clearFault => Config.clearFaultCode
  | .wake => 0x09#7
  | .pause => 0x0A#7
  | .attrGet => 0x0B#7
  | .attrSet => 0x0C#7
  | .cuePost => 0x0D#7
  | .cueCancel => 0x0E#7
  | .cueList => 0x0F#7
  | .settle => 0x10#7
  | .aheadWake => 0x11#7
  | .aheadDrop => 0x12#7
  | .fireUnlock => 0x13#7
  | .idList => 0x15#7
  | .idPin => 0x16#7
  | .idUnpin => 0x17#7
  | .idClear => 0x18#7
  | .idAging => 0x19#7
  | .trapSet => 0x1A#7
  | .trapGet => 0x1B#7
  | .eventsFetch => 0x1C#7

/-- The reply's kind: the request's kind with its top bit set (R178). -/
def topBitSet (kind : Byte) : Byte := kind ||| 0x80#8

/-- The kind of a request's reply. -/
def replyKind (k : ReqKind) : Byte := topBitSet ((reqCode k).setWidth 8)

/-- The body length matches what the kind requires (R179): a fixed length, or the fixed part plus the count times the
item size. -/
def lengthOk (k : ReqKind) (b : List Byte) : Bool :=
  match k with
  | .describe => b.length == 0
  | .clock => b.length == 0
  | .restart => b.length == 1
  | .stationSet => b.length == 31
  | .stationGet => b.length == 1
  | .budgetSet => b.length == 4
  | .portSet => b.length == 4
  | .cameraGet => b.length == 1
  | .clearFault => b.length == 1
  | .wake => b.length == 1
  | .pause => b.length == 2
  | .attrGet => b.length == 2
  | .attrSet => b.length == 3
  | .cuePost => decide (7 ≤ b.length) && b.length == 7 + 2 * u8 b 6
  | .cueCancel => b.length == 1
  | .cueList => b.length == 1
  | .settle => b.length == 3
  | .aheadWake => decide (9 ≤ b.length) && b.length == 9 + 2 * u8 b 8
  | .aheadDrop => b.length == 4
  | .fireUnlock => b.length == 1
  | .idList => b.length == 1
  | .idPin => b.length == 17
  | .idUnpin => b.length == 6
  | .idClear => b.length == 0
  | .idAging => b.length == 2
  | .trapSet => b.length == 21
  | .trapGet => b.length == 1
  | .eventsFetch => b.length == 1

/-- The framing of a request's transfer is right: at most 512 bytes, and as long as its header says (R178). -/
def framingOk (r : Request) : Bool :=
  decide (4 + r.body.length ≤ Config.maxMessage) && r.body.length == r.len.toNat

/-- A message: kind, tag, body length, body (Table 65). -/
def message (kind tag : Byte) (body : List Byte) : List Byte :=
  kind :: tag :: (le16 body.length ++ body)

/-- The six figures of a profile as ten bytes (Section 11.5). -/
def Profile.bytes (f : Profile) : List Byte :=
  [toByte f.resumeLatency] ++ le16 f.initMax ++ le16 f.deepInrush ++ [toByte f.inrushSlots] ++ le16 f.awake ++
    le16 f.resumeInrush

/-- The ten profile bytes at an offset. -/
def profileAt (b : List Byte) (i : Nat) : Profile where
  resumeLatency := u8 b i
  initMax := u16 b (i + 1)
  deepInrush := u16 b (i + 3)
  inrushSlots := u8 b (i + 5)
  awake := u16 b (i + 6)
  resumeInrush := u16 b (i + 8)

/-- The fields of Table 25 as STATION_SET carries them (Table 78 after the station byte): the port set as a number, and
the other fields as given. None for an unknown rest state or fire lock code. -/
def stationFields? (b : List Byte) : Option (Nat × Station) :=
  match Target.ofCode (u8 b 5), twoCode (u8 b 28) with
  | some rest, some lockOn => some (u32 b 1,
      { restState := rest
        linger := u16 b 6
        dozeLimit := u16 b 8
        pauseWait := u16 b 10
        guardSlots := u16 b 12
        prepTime := u16 b 14
        focusLead := u16 b 16
        strobe := u16 b 18
        press := u16 b 20
        slack := u16 b 22
        confirm := u16 b 24
        keepBase := u16 b 26
        lockOn := lockOn
        lockTimeout := u16 b 29 })
  | _, _ => none

/-- Each numeric field clamped to its range of Table 25; the press time first, then the strobe delay to at most the
stored press time (R69). -/
def Station.clamped (f : Station) : Station :=
  { f with
    linger := clamp 0 3600 f.linger
    dozeLimit := clamp 0 240 f.dozeLimit
    pauseWait := clamp 1 600 f.pauseWait
    guardSlots := clamp 0 50 f.guardSlots
    prepTime := clamp 0 100 f.prepTime
    focusLead := clamp 0 1000 f.focusLead
    strobe := min (clamp 0 100 f.strobe) (clamp 10 1000 f.press)
    press := clamp 10 1000 f.press
    slack := clamp 0 5000 f.slack
    confirm := clamp 100 5000 f.confirm
    keepBase := clamp 5 120 f.keepBase
    lockTimeout := clamp 1 60 f.lockTimeout }

end Sys2Proof.Machine
end

