-- ==== Sys2Proof/Machine/Ops.lean ====
section
/-! DEFINITION. The shared operations on the state: clock and slot arithmetic, access to ports, reports and marks,
job queues, the camera state's one setter, commitments and reservations. Every block's rules are written over
these. -/

namespace Sys2Proof.Machine

/-! ## Clock and slots (Sections 0.7.2 and 6.1) -/

/-- A clock value some ms later. -/
def addMs (t d : Nat) : Nat := (t + d) % Config.clockMod

/-- The difference of two clock values, modulo 4,000,000,000 (Section 0.7.2). -/
def diffMs (a b : Nat) : Nat := (a + (Config.clockMod - b % Config.clockMod)) % Config.clockMod

/-- The clock has reached a time: the time does not lie ahead of now, or is now (Section 0.7.2). -/
def reachedMs (now t : Nat) : Bool := decide (diffMs now t < 2000000000)

/-- A slot number some slots later. -/
def addSlot (s d : Nat) : Nat := (s + d) % Config.slotMod

/-- The difference of two slot numbers, modulo 400,000,000. -/
def diffSlot (a b : Nat) : Nat := (a + (Config.slotMod - b % Config.slotMod)) % Config.slotMod

/-- The slot of now (Section 0.7.2). -/
def State.nowSlot (s : State) : Nat := s.clock / 10

/-- The offset of a slot from now_slot (R108). -/
def State.offset (s : State) (x : Nat) : Int :=
  let d := diffSlot x s.nowSlot
  if d < 200000000 then (d : Int) else (d : Int) - 400000000

/-- The start of a slot has been reached. -/
def State.slotReached (s : State) (x : Nat) : Bool := decide (s.offset x ≤ 0)

/-- The slot at an offset of 0 or more from now_slot. -/
def State.slotAt (s : State) (n : Nat) : Nat := addSlot s.nowSlot n

/-- The offset of a cue time from now (Section 8.2). -/
def State.timeOffset (s : State) (t : Nat) : Int :=
  let d := diffMs t s.clock
  if d < 2000000000 then (d : Int) else (d : Int) - 4000000000

/-- Division rounded up. -/
def ceilDiv (a b : Nat) : Nat := (a + (b - 1)) / b

/-! ## Ports, positions, stations -/

/-- The record of a port. -/
def State.port (s : State) (p : PortId) : Port := s.ports[p]

/-- Replace the record of a port by a function of it. -/
def State.modPort (s : State) (p : PortId) (f : Port → Port) : State :=
  { s with ports := s.ports.set p.val (f (s.port p)) p.isLt }

/-- The fields of a station. -/
def State.station (s : State) (st : StationId) : Station := s.stations[st]

/-- The identity entry at a position. -/
def State.entryAt (s : State) (k : Position) : Option IdEntry := s.table[k]

/-- Write a position of the identity table. -/
def State.setEntry (s : State) (k : Position) (e : Option IdEntry) : State :=
  { s with table := s.table.set k.val e k.isLt }

/-- The ports of a station's port set, in ascending order (Section 4.1). -/
def State.membersOf (s : State) (st : StationId) : List PortId :=
  allPorts.filter (fun p => (s.port p).station == some st)

/-- The station fields a port works with, if it is in a station. -/
def State.stationOf (s : State) (p : PortId) : Option Station :=
  (s.port p).station.map (fun st => s.station st)

/-! ## Camera states -/

/-- The camera rail is on (R3, Table 9). -/
def Power.railOn : Power → Bool
  | .vacant => false
  | .deep => false
  | .fault _ => false
  | .waking _ => true
  | .ready _ _ => true
  | .armed _ _ => true
  | .doze _ => true
  | .keepwarm _ => true
  | .pausing _ _ => true

/-- Reset-out is asserted: in RESET_HOLD until its release (R3, R11). -/
def Power.resetOut : Power → Bool
  | .waking w => match w.phase with
    | .resetHold _ released _ => !released
    | _ => false
  | _ => false

/-- The half-press line is asserted exactly in ARMED (R3). -/
def Power.halfPress : Power → Bool
  | .armed _ _ => true
  | _ => false

/-- The full-press line (R3). -/
def Power.fullPress : Power → Bool
  | .armed _ pressed => pressed
  | _ => false

/-- The states in which a camera holds its commitment without a reservation (R84). -/
def Power.awakeState : Power → Bool
  | .waking _ => true
  | .ready _ _ => true
  | .armed _ _ => true
  | .pausing _ _ => true
  | _ => false

def Power.isVacant : Power → Bool
  | .vacant => true
  | _ => false

def Power.isDeep : Power → Bool
  | .deep => true
  | _ => false

def Power.isReady : Power → Bool
  | .ready _ _ => true
  | _ => false

def Power.isArmed : Power → Bool
  | .armed _ _ => true
  | _ => false

def Power.isWaking : Power → Bool
  | .waking _ => true
  | _ => false

def Power.isPausing : Power → Bool
  | .pausing _ _ => true
  | _ => false

def Power.isKeepwarm : Power → Bool
  | .keepwarm _ => true
  | _ => false

def Power.isFault : Power → Bool
  | .fault _ => true
  | _ => false

/-- FAULT or VACANT. -/
def Power.isLost : Power → Bool
  | .fault _ => true
  | .vacant => true
  | _ => false

/-- The paused state a camera is in, DEEP included, as the target it corresponds to. -/
def Power.paused? : Power → Option Target
  | .deep => some .deep
  | .doze _ => some .doze
  | .keepwarm _ => some .keepwarm
  | _ => none

/-- The position of the identity entry bound to a port, if any: the record's bound identity (Table 8). -/
def State.boundPos (s : State) (p : PortId) : Option Position :=
  allPositions.find? (fun k => match s.entryAt k with
    | some e => e.bound == some p
    | none => false)

/-- The entry bound to a port. -/
def State.boundEntry (s : State) (p : PortId) : Option IdEntry :=
  (s.boundPos p).bind s.entryAt

/-- The bound identity of a port's camera record. -/
def State.boundIdent (s : State) (p : PortId) : Option Ident := (s.boundEntry p).map (·.ident)

/-- The shadow of a port's camera; empty when the identity is unlisted (R14, R57). -/
def State.shadowOf (s : State) (p : PortId) : List Pair :=
  match s.boundEntry p with
  | some e => e.shadow
  | none => []

/-! ## Reports (R186, R187) -/

/-- The report at the head of the queue is being sent. -/
def State.sendingReport (s : State) : Bool :=
  match s.inXfer with
  | some x => x.source == .report
  | none => false

/-- Port p's CAMERA_CHANGE is the report being sent. -/
def State.sendingCamera (s : State) (p : PortId) : Bool :=
  s.sendingReport && s.reports.head? == some (.camera p)

/-- A CAMERA_CHANGE of port p is handed to the link (R2, R186). -/
def markPort (p : PortId) (s : State) : State :=
  if (s.port p).camMark then s
  else if s.sendingCamera p then s.modPort p ({ · with camMark := true })
  else if s.reports.contains (.camera p) then s
  else if s.reports.length < Config.reportCapacity then { s with reports := s.reports ++ [.camera p] }
  else s.modPort p ({ · with camMark := true })

/-- An EVENTS_WAITING is handed to the link (R174, R186). -/
def handEventsWaiting (s : State) : State :=
  if s.reports.contains .events || s.eventsMark then s
  else if s.reports.length < Config.reportCapacity then { s with reports := s.reports ++ [.events] }
  else { s with eventsMark := true }

/-- The grade changed flag is set (R42): the port is marked, and a report being sent no longer clears the flag. -/
def setGradeChanged (p : PortId) (s : State) : State :=
  let s := if s.sendingCamera p then { s with inXfer := s.inXfer.map ({ · with grade := false }) } else s
  markPort p (s.modPort p ({ · with gradeChanged := true }))

/-- The change note PAUSE_ABANDONED is added (R22, R24). -/
def addAbandoned (p : PortId) (s : State) : State :=
  let s := if s.sendingCamera p then { s with inXfer := s.inXfer.map ({ · with abandoned := false }) } else s
  markPort p (s.modPort p ({ · with noteAbandoned := true }))

/-- The change note IDENTITY_CONFLICT is added (R58). -/
def addConflict (p : PortId) (s : State) : State :=
  let s := if s.sendingCamera p then { s with inXfer := s.inXfer.map ({ · with conflict := false }) } else s
  markPort p (s.modPort p ({ · with noteConflict := true }))

/-- The offload-busy flag takes a value; a change marks the port (R2, R165). -/
def setOffload (p : PortId) (v : Bool) (s : State) : State :=
  if (s.port p).offload = v then s else markPort p (s.modPort p ({ · with offload := v }))

/-- The media-full flag takes a value; a change marks the port (R2, R166). -/
def setMediaFull (p : PortId) (v : Bool) (s : State) : State :=
  if (s.port p).mediaFull = v then s else markPort p (s.modPort p ({ · with mediaFull := v }))

/-- The host-pause flag takes a value; a change marks the port (R2, R19, R25). -/
def setHostPause (p : PortId) (v : Bool) (s : State) : State :=
  if (s.port p).hostPause = v then s else markPort p (s.modPort p ({ · with hostPause := v }))

/-! ## The reply line (R181) -/

/-- A request joins the reply line with its reply formed (R181): status, then the reply's further content. -/
def answer (k : ReqKind) (tag : Byte) (st : Status) (content : List Byte) (s : State) : State :=
  { s with line := s.line ++ [⟨s.tickets, replyKind k, tag, some (st.code :: content)⟩]
           tickets := s.tickets + 1 }

/-- A request joins the reply line and waits for its owner's answer (R180, R181). Its ticket is the number of requests
numbered before it. -/
def awaitAnswer (k : ReqKind) (tag : Byte) (s : State) : State :=
  { s with line := s.line ++ [⟨s.tickets, replyKind k, tag, none⟩]
           tickets := s.tickets + 1 }

/-- The owner answers a waiting request; a request no longer in the line gets no reply (R52, R188). -/
def giveAnswer (ticket : Nat) (body : List Byte) (s : State) : State :=
  { s with line := s.line.map (fun e =>
      if e.ticket = ticket ∧ e.body = none then { e with body := some body } else e) }

/-- The reply body of a host read that gave no value: status, value flag 0, value 0 (Table 80); a refusal is the
status alone. -/
def readReply (st : Status) : List Byte :=
  if st = .timedOut ∨ st = .ok then [st.code, 0#8, 0#8] else [st.code]

/-- A host job that did not run is answered BAD_STATE (R5, R8, R36); other jobs have no request. -/
def answerBadState (j : Job) (s : State) : State :=
  match j.kind with
  | .hostRead t _ => giveAnswer t (readReply .badState) s
  | .hostWrite t _ _ => giveAnswer t [Status.badState.code] s
  | _ => s

/-! ## Job queues (R33–R35, R38, R41, R43, R44) -/

/-- A job not yet started. -/
def Job.mk' (k : JobKind) : Job := ⟨k, false, false, false⟩

def Job.isPoll (j : Job) : Bool := match j.kind with
  | .poll => true
  | _ => false

def Job.isThermal (j : Job) : Bool := match j.kind with
  | .thermalRead => true
  | _ => false

def Job.isPing (j : Job) : Bool := match j.kind with
  | .ping => true
  | _ => false

def Job.isIdentify (j : Job) : Bool := match j.kind with
  | .identify _ => true
  | _ => false

def Job.isPowerMode (j : Job) : Bool := match j.kind with
  | .powerMode _ => true
  | _ => false

def Job.isAhead (j : Job) : Bool := match j.kind with
  | .aheadWrite _ _ _ _ => true
  | _ => false

def Job.isHost (j : Job) : Bool := match j.kind with
  | .hostRead _ _ => true
  | .hostWrite _ _ _ => true
  | _ => false

def Job.isPrep (j : Job) : Bool := match j.kind with
  | .prepWrite _ _ _ => true
  | _ => false

/-- The PREP_WRITE of a given cue. -/
def Job.isPrepOf (cue : Nat) (j : Job) : Bool := match j.kind with
  | .prepWrite c _ _ => c == cue
  | _ => false

/-- A HOST_READ, HOST_WRITE or PREP_WRITE: the jobs that hold a pause while in flight (R21, R22). -/
def Job.holdsPause (j : Job) : Bool := j.isHost || j.isPrep

/-- The queue has room (R33). -/
def Port.hasRoom (c : Port) : Bool := decide (c.queue.length < Config.queueSize)

/-- A queued job of a kind that is not in flight. -/
def Port.queuedIdle (c : Port) (f : Job → Bool) : Bool := c.queue.any (fun j => f j && !j.started)

/-- A HOST_READ, HOST_WRITE or PREP_WRITE of the port is in flight (R21). -/
def Port.pauseHeldByJob (c : Port) : Bool := c.queue.any (fun j => j.holdsPause && j.started)

/-- The conditions of R38 for a POLL. -/
def Port.pollOwed (c : Port) : Bool :=
  c.attention && c.held.isNone && !(c.queue.any Job.isPoll) && !c.power.isVacant

/-- A job joins the tail of the queue. -/
def pushJob (k : JobKind) (c : Port) : Port := { c with queue := c.queue ++ [Job.mk' k] }

/-- An IDENTIFY, POWER_MODE, PREP_WRITE or AHEAD_WRITE is enqueued, or joins the waiting line of a full queue (R35). -/
def Port.enqueue (k : JobKind) (c : Port) : Port :=
  if c.hasRoom then pushJob k c else { c with waitLine := c.waitLine ++ [Job.mk' k] }

/-- R38 is tested: an owed POLL is enqueued or marked (R34). -/
def Port.testPoll (c : Port) : Port :=
  if c.pollOwed && !c.markPoll then
    if c.hasRoom then pushJob .poll c else { c with markPoll := true }
  else c

/-- A THERMAL_READ is owed (R34, R43). -/
def Port.oweThermal (c : Port) : Port :=
  if c.markThermal || c.queuedIdle Job.isThermal then c
  else if c.hasRoom then pushJob .thermalRead c else { c with markThermal := true }

/-- A PING is owed (R34, R44). -/
def Port.owePing (c : Port) : Port :=
  if c.markPing || c.queuedIdle Job.isPing then c
  else if c.hasRoom then pushJob .ping c else { c with markPing := true }

/-- An IDENTIFY is owed (R41). -/
def Port.oweIdentify (c : Port) : Port :=
  if c.queuedIdle Job.isIdentify || c.waitLine.any Job.isIdentify then c else c.enqueue (.identify [])

/-- The POLL mark is served while the queue holds fewer than n jobs: it takes a free entry, or is cleared when no POLL is owed
(R34). -/
def Port.servePoll (n : Nat) (c : Port) : Port :=
  if c.markPoll && decide (c.queue.length < n) then
    let c := { c with markPoll := false }
    if c.pollOwed then pushJob .poll c else c
  else c

/-- The THERMAL_READ mark is served (R34). -/
def Port.serveThermal (n : Nat) (c : Port) : Port :=
  if c.markThermal && decide (c.queue.length < n) then
    let c := { c with markThermal := false }
    if c.power.isLost then c else pushJob .thermalRead c
  else c

/-- The PING mark is served (R34). -/
def Port.servePing (n : Nat) (c : Port) : Port :=
  if c.markPing && decide (c.queue.length < n) then
    let c := { c with markPing := false }
    if c.power.isKeepwarm then pushJob .ping c else c
  else c

/-- The waiting line is served: jobs leave its front until the queue holds n jobs (R35). -/
def Port.serveLine (n : Nat) (c : Port) : Port :=
  let room := n - c.queue.length
  { c with queue := c.queue ++ c.waitLine.take room, waitLine := c.waitLine.drop room }

/-- Room is served until the queue holds n jobs: the marks in the order POLL, THERMAL_READ, PING, then the waiting line (R34,
R35). -/
def Port.serveUpTo (n : Nat) (c : Port) : Port :=
  (((c.servePoll n).serveThermal n).servePing n).serveLine n

/-- All the room of the queue is served (R34, R35). -/
def Port.serveRoom (c : Port) : Port := c.serveUpTo Config.queueSize

/-- Jobs of a kind that are not in flight leave the queue and the waiting line, and the entries they free are served at once
(R33). While the result of a job that ended is handed on, that job's own entry is free too, and is served only afterwards
(R37). -/
def Port.removeJobs (f : Job → Bool) (c : Port) : Port :=
  ({ c with queue := c.queue.filter (fun j => !f j || j.started)
            waitLine := c.waitLine.filter (fun j => !f j) }).serveUpTo c.queue.length

/-- The lane carries an exchange of the job in flight. -/
def Port.laneHasJob (c : Port) : Bool :=
  match c.lane with
  | some e => e.src == .job
  | none => false

/-- A job of a kind in flight makes no further exchange after its current one; with no exchange of it on the lane it
leaves the queue at once (R8, R94, R95, R102, R137, R52). -/
def Port.cutFlight (f : Job → Bool) (noEntry : Bool) (c : Port) : Port :=
  match c.queue with
  | j :: js =>
    if j.started && f j then
      if c.laneHasJob then { c with queue := { j with cut := true, noEntry := j.noEntry || noEntry } :: js }
      else ({ c with queue := js }).serveUpTo c.queue.length
    else c
  | [] => c

/-! ## Commitments and reservations (R83, R84, R110, R113) -/

/-- The committed steady current (R81). -/
def State.committed (s : State) : Nat :=
  allPorts.foldl (fun acc p => acc + (s.port p).commitment.getD 0) 0

/-- The commitment of a port ends when its camera is in none of the committed states and it holds no reservation
(R84). -/
def settleCommitment (p : PortId) (s : State) : State :=
  if !(s.port p).power.awakeState && (s.port p).resv.isNone then s.modPort p ({ · with commitment := none }) else s

/-- The port's reservation is released, and its commitment ends if its camera is then paused (R113). -/
def releaseResv (p : PortId) (s : State) : State :=
  settleCommitment p (s.modPort p ({ · with resv := none }))

/-- The port holds a reservation whose start slot has not been reached. -/
def Port.unstarted (c : Port) : Bool :=
  match c.resv with
  | some r => !r.started
  | none => false

/-- The port holds a started reservation. -/
def Port.startedResv (c : Port) : Bool :=
  match c.resv with
  | some r => r.started
  | none => false

/-- An unstarted reservation is released (R113); a started one is kept until its window passes. -/
def releaseUnstarted (p : PortId) (s : State) : State :=
  if (s.port p).unstarted then releaseResv p s else s

/-- The reservation covers a slot. -/
def Reservation.covers (r : Reservation) (x : Nat) : Bool := decide (diffSlot x r.start < r.length)

/-- The occupancy of a slot of the slot map (R110). -/
def State.occupancy (s : State) (x : Nat) : Nat :=
  allPorts.foldl (fun acc p =>
    match (s.port p).resv with
    | some r => if r.covers x then acc + r.current else acc
    | none => acc) 0

/-- The slots from now_slot onward that a reservation covers. -/
def State.coveredSlots (s : State) : List Nat :=
  allPorts.flatMap (fun p =>
    match (s.port p).resv with
    | some r => ((List.range r.length).map (addSlot r.start)).filter (fun x => decide (0 ≤ s.offset x))
    | none => [])

/-- The highest occupancy (R126). -/
def State.highestOccupancy (s : State) : Nat :=
  s.coveredSlots.foldl (fun acc x => max acc (s.occupancy x)) 0

/-! ## The setter of the camera state -/

/-- What leaving KEEPWARM does to the port's jobs: a PING still queued is removed and its mark cleared (R44). -/
def Port.dropPings (c : Port) : Port := ({ c with markPing := false }).removeJobs Job.isPing

/-- What the rail does at a change of state: going off sets the reading to 0 and ends the overcurrent measure, going on
starts the measure (R1, R3, R6). -/
def Port.railChange (now : Nat) (old : Power) (c : Port) : Port :=
  if c.power.railOn then
    if old.railOn then c else { c with overFrom := some now, sensed := none, limitInForce := c.railLimit }
  else { c with reading := some 0, overFrom := none, sensed := none }

/-- A resume that waits for a POWER_MODE job waits only in DOZE and KEEPWARM (R16). -/
def Port.dropResumeWait (c : Port) : Port :=
  match c.power with
  | .doze _ => c
  | .keepwarm _ => c
  | _ => { c with resumeWait := none }

/-- The port's record in a new camera state. -/
def Port.enter (now : Nat) (new : Power) (c : Port) : Port :=
  let c' := (({ c with power := new }).railChange now c.power).dropResumeWait
  if c.power.isKeepwarm && !new.isKeepwarm then c'.dropPings else c'

/-- The camera enters a state: rail and lines follow, the port is marked when the state has changed (R2), and the
commitment ends where R84 says so. -/
def setPower (p : PortId) (new : Power) (s : State) : State :=
  let changed := (s.port p).power.code != new.code
  let s := s.modPort p (Port.enter s.clock new)
  settleCommitment p (if changed then markPort p s else s)

/-! ## The advance table's entries (R129, R130) -/

/-- Every advance entry of a port is removed. -/
def clearEntries (p : PortId) (s : State) : State :=
  { s with adv := s.adv.filter (fun e => e.port != p) }

/-- The advance entry of a port for one attribute is removed. -/
def dropEntry (p : PortId) (attr : Nat) (s : State) : State :=
  { s with adv := s.adv.filter (fun e => !(e.port == p && e.attr == attr)) }

/-- A new advance entry is appended; a full table evicts its oldest entry (R129). The lifetime is in seconds. -/
def appendEntry (p : PortId) (pr : Pair) (valid : Bool) (lifetime : Nat) (s : State) : State :=
  let s := dropEntry p pr.attr s
  let kept := if s.adv.length < Config.advCapacity then s.adv else s.adv.drop 1
  { s with adv := kept ++ [⟨p, pr.attr, pr.value, valid, s.clock, addMs s.clock (lifetime * 1000)⟩] }

/-! ## Cues -/

/-- The cue of an id. -/
def State.cue? (s : State) (id : Nat) : Option Cue := s.cues.find? (fun c => c.id == id)

/-- Change the cue of an id. -/
def modCue (id : Nat) (f : Cue → Cue) (s : State) : State :=
  { s with cues := s.cues.map (fun c => if c.id = id then f c else c) }

/-- Change the member entry of a port in a cue. -/
def Cue.modMember (p : PortId) (f : Member → Member) (c : Cue) : Cue :=
  { c with members := c.members.map (fun m => if m.port = p then f m else m) }

/-- The cue includes a port. -/
def Cue.includes (p : PortId) (c : Cue) : Bool := c.members.any (fun m => m.port == p)

/-- The member entry of a port. -/
def Cue.member? (p : PortId) (c : Cue) : Option Member := c.members.find? (fun m => m.port == p)

/-- PLANNED, PREPARING or FIRE_WAIT: the states in which a cue's plan is kept (R114, R116, R123–R125). -/
def CueState.planned? : CueState → Bool
  | .planned => true
  | .preparing => true
  | .fireWait => true
  | .waiting => false
  | .firing => false
  | .confirming => false
  | .done => false

/-- The station of a cue. -/
def State.cueStation (s : State) (c : Cue) : Station := s.station c.station

/-- Ts of a cue (R108). -/
def Cue.slot (c : Cue) : Nat := c.time / 10

/-- The required-ready slot R = Ts − F − p − g (R108). -/
def State.requiredReady (s : State) (c : Cue) : Nat :=
  let st := s.cueStation c
  diffSlot c.slot (ceilDiv st.focusLead 10 + st.prepTime + st.guardSlots)

/-- The preparation start slot Ts − F − p (Section 5.3). -/
def State.prepSlot (s : State) (c : Cue) : Nat :=
  let st := s.cueStation c
  diffSlot c.slot (ceilDiv st.focusLead 10 + st.prepTime)

/-- The fire request time T − f (Section 5.3). -/
def State.fireReqTime (s : State) (c : Cue) : Nat := diffMs c.time (s.cueStation c).focusLead

/-- Do something for each of a list of things in turn. -/
def forEach {α : Type} (xs : List α) (f : α → State → State) (s : State) : State :=
  xs.foldl (fun s x => f x s) s

/-! ## Rest timers (R74, R75) -/

/-- The rest timer of a READY member of a station starts with the station's linger; nothing starts otherwise (R74). -/
def startRest (p : PortId) (s : State) : State :=
  match (s.port p).power, s.stationOf p with
  | .ready _ hold, some st =>
    s.modPort p ({ · with power := .ready (some (addMs s.clock (st.linger * 1000))) hold })
  | _, _ => s

/-- The rest hold of a port for a cue is removed (R76, R77). -/
def dropHold (cue : Nat) (p : PortId) (s : State) : State :=
  match (s.port p).power with
  | .ready rest hold => if hold = some cue then s.modPort p ({ · with power := .ready rest none }) else s
  | _ => s

end Sys2Proof.Machine
end

