-- ==== Sys2Proof/Machine/Advance.lean ====
section
/-! DEFINITION. The advance table's check at preparation (R138–R141), the preparation of one member camera (R93) and
the hand-over of advance orders (R135). -/

namespace Sys2Proof.Machine

/-- The advance entry of a port for an attribute. -/
def State.entryFor (s : State) (p : PortId) (attr : Nat) : Option AdvEntry :=
  s.adv.find? (fun e => e.port == p && e.attr == attr)

/-- The pair is a hit: its entry exists, is VALID and holds its value (R138). -/
def State.isHit (s : State) (p : PortId) (pr : Pair) : Bool :=
  match s.entryFor p pr.attr with
  | some e => e.valid && e.value == pr.value
  | none => false

/-- The pairs the check returns for writing (R138–R141). -/
def State.missedPairs (s : State) (p : PortId) (form : CheckForm) (pairs : List Pair) : List Pair :=
  match form with
  | .none_ => pairs
  | .clear => pairs.filter (fun pr => !s.isHit p pr)
  | .keep => pairs.filter (fun pr => !s.isHit p pr)

/-- What the check does to the entries: under CHECK_CLEAR every hit and every VOID entry met is removed (R140); the
other forms leave them (R139, R141). -/
def checkEntries (p : PortId) (form : CheckForm) (pairs : List Pair) (s : State) : State :=
  match form with
  | .clear =>
    let consumed (e : AdvEntry) : Bool :=
      e.port == p && pairs.any (fun pr => pr.attr == e.attr && (!e.valid || e.value == pr.value))
    { s with adv := s.adv.filter (fun e => !consumed e) }
  | .none_ => s
  | .keep => s

/-- The preparation status of a member of a cue. -/
def setPrep (cue : Nat) (p : PortId) (v : Prep) (s : State) : State :=
  modCue cue (Cue.modMember p ({ · with prep := v })) s

/-- The check and job of R93 for one READY member: COMPLETE when no pair remains, else WRITING with a PREP_WRITE of the
remaining pairs. -/
def prepareMember (c : Cue) (p : PortId) (s : State) : State :=
  let missed := s.missedPairs p c.form c.profile
  let s := checkEntries p c.form c.profile s
  if missed.isEmpty then setPrep c.id p .complete s
  else setPrep c.id p .writing (s.modPort p (Port.enqueue (.prepWrite c.id (c.form == .keep) missed)))

/-- The PREPARING cues that owe the camera of a port its check: those that include it with status NOT_STARTED
(R94). -/
def State.checksOwed (s : State) (p : PortId) : List Cue :=
  s.cues.filter (fun c => c.state == .preparing && c.members.any (fun m => m.port == p && m.prep == .notStarted))

/-- A member camera enters READY in PREPARING with status NOT_STARTED: its check and job (R94). -/
def checkOnReady (p : PortId) (s : State) : State :=
  forEach (s.checksOwed p) (fun c => prepareMember c p) s

/-- An order of the port is handed over when the camera is READY or PAUSING: it becomes an AHEAD_WRITE (R135). -/
def handOver (p : PortId) (s : State) : State :=
  match (s.port p).order with
  | some o =>
    if (s.port p).power.isReady || (s.port p).power.isPausing then
      s.modPort p (fun c => ({ c with order := none }).enqueue (.aheadWrite o.pairs o.lifetime o.expiry o.seq))
    else s
  | none => s

/-- The camera's settings are lost for its cues, by entry to DEEP or an identity change: in PREPARING the status
returns to NOT_STARTED and the cue's PREP_WRITE is removed or cut (R94), in FIRE_WAIT the status becomes LATE (R95).
A cue with an empty profile has nothing to prepare and keeps its statuses (R93). -/
def loseSettings (p : PortId) (s : State) : State :=
  forEach (s.cues.filter (fun c => c.includes p && !c.profile.isEmpty)) (fun c s =>
    match c.state with
    | .preparing =>
      setPrep c.id p .notStarted
        (s.modPort p (fun q => (q.removeJobs (Job.isPrepOf c.id)).cutFlight (Job.isPrepOf c.id) false))
    | .fireWait => setPrep c.id p .late s
    | .waiting => s
    | .planned => s
    | .firing => s
    | .confirming => s
    | .done => s) s

end Sys2Proof.Machine
end

