-- ==== Sys2Proof/Machine/Camera.lean ====
section
/-! DEFINITION. Camera power states: pauses from READY and PAUSING (R21–R23), entry to DEEP, DOZE and KEEPWARM (R24, R26,
R44, R45), and entry to READY (R17). -/

namespace Sys2Proof.Machine

/-- The doze-limit timer at an entry to DOZE: with the doze limit of the port's station when that is not 0 (R26). -/
def State.dozeTimer (s : State) (p : PortId) : Option Nat :=
  match s.stationOf p with
  | some st => if st.dozeLimit = 0 then none else some (addMs s.clock (st.dozeLimit * 60000))
  | none => none

/-- The pause wait of a port in seconds: its station's, or 60 s in no station (R21). -/
def State.pauseWaitOf (s : State) (p : PortId) : Nat :=
  match s.stationOf p with
  | some st => st.pauseWait
  | none => 60

/-- The keep-warm interval in ms: the base times the multiplier of Table 17; none at grade 7 (R45). -/
def keepInterval (base : Nat) (grade : Option Nat) : Option Nat :=
  match grade with
  | some 1 => some (base * 4000)
  | some 2 => some (base * 2000)
  | some 3 => some (base * 1000)
  | some 4 => some (base * 500)
  | some 7 => none
  | _ => some (base * 250)

/-- The keep-warm base of a port in seconds: its station's, or 30 s in no station (R45). -/
def State.keepBaseOf (s : State) (p : PortId) : Nat :=
  match s.stationOf p with
  | some st => st.keepBase
  | none => 30

/-- A job is enqueued on a port, or joins its waiting line (R33, R35). -/
def enqueueJob (p : PortId) (k : JobKind) (s : State) : State := s.modPort p (Port.enqueue k)

/-- Entry to DOZE: the doze-limit timer starts and a POWER_MODE job writing 0x01 is enqueued (R21, R24, R26). -/
def enterDoze (p : PortId) (s : State) : State :=
  enqueueJob p (.powerMode .doze) (setPower p (.doze (s.dozeTimer p)) s)

/-- Entry to DEEP: the rail goes off, every advance entry of the port is invalidated, the offload-busy flag is cleared,
and the cues' preparation of the camera is lost (R21, R24, R94, R95, R130, R165). -/
def enterDeep (p : PortId) (s : State) : State :=
  loseSettings p (clearEntries p (setOffload p false (setPower p .deep s)))

/-- The keep-warm timer starts with the interval of the present grade; at grade 7 none starts and the camera goes on to
DOZE (R44, R45). -/
def startKeepwarm (p : PortId) (s : State) : State :=
  match keepInterval (s.keepBaseOf p) (s.port p).grade with
  | some d => s.modPort p ({ · with power := .keepwarm (some (addMs s.clock d)) })
  | none => enterDoze p s

/-- Entry to KEEPWARM: a POWER_MODE job writing 0x02 is enqueued and the keep-warm timer starts (R21, R44). -/
def enterKeepwarm (p : PortId) (s : State) : State :=
  startKeepwarm p (enqueueJob p (.powerMode .keepwarm) (setPower p (.keepwarm none) s))

/-- The action of a pause from READY or PAUSING (Table 10): the camera enters the target. -/
def pauseAction (p : PortId) (t : Target) (s : State) : State :=
  match t with
  | .doze => enterDoze p s
  | .keepwarm => enterKeepwarm p s
  | .deep => enterDeep p s

/-- A pause taken while the camera is READY (R21): it waits in PAUSING for an offload or a host or preparation job in
flight, and otherwise acts at once. -/
def pauseReady (p : PortId) (ps : Pause) (s : State) : State :=
  if (s.port p).offload || (s.port p).pauseHeldByJob then
    setPower p (.pausing ps (addMs s.clock (s.pauseWaitOf p * 1000))) s
  else pauseAction p ps.target s

/-- The event of R22: a camera in PAUSING whose offload-busy flag is clear and that has no host or preparation job in
flight enters its pause target. -/
def pausingEvent (p : PortId) (s : State) : State :=
  match (s.port p).power with
  | .pausing ps _ =>
    if (s.port p).offload || (s.port p).pauseHeldByJob then s else pauseAction p ps.target s
  | _ => s

/-- A pause recorded over another: the target is replaced, and the origin stays HOST once a host pause has been
recorded (R23). -/
def mergePause (old : Option Pause) (new : Pause) : Pause :=
  match old with
  | some o => ⟨new.target, if o.origin = .host then .host else new.origin⟩
  | none => new

/-- The pending pause of a camera in WAKING or ARMED. -/
def Power.pending? : Power → Option Pause
  | .waking w => w.pending
  | .armed ps _ => ps
  | _ => none

/-- Entry to READY (R17): a pending pause target is taken as a pause; otherwise the rest timer starts where `rest` says
so, and the checks of preparing cues are made. An order is then handed over (R135): where one entry brings both, the
PREP_WRITE is enqueued before the AHEAD_WRITE (DESIGN CHOICE, log 39). -/
def enterReady (p : PortId) (rest : Bool) (s : State) : State :=
  let pend := (s.port p).power.pending?
  let s := setPower p (.ready none none) s
  let s := match pend with
    | some ps => pauseReady p ps s
    | none => checkOnReady p (if rest then startRest p s else s)
  handOver p s

/-- The wake of a camera does not count as one for a cue: its rest timer starts at the entry to READY (R114). -/
def State.wakeStartsRest (s : State) (f : Forecast) : Bool :=
  match f.needed with
  | some id => match s.cue? id with
    | some c => !c.state.planned?
    | none => true
  | none => true

/-- The end of a wake: the camera enters READY, with its rest timer as R114 says. -/
def wakeDone (p : PortId) (s : State) : State :=
  match (s.port p).power with
  | .waking w => enterReady p (s.wakeStartsRest w.forecast) s
  | _ => s

end Sys2Proof.Machine
end

