-- ==== Sys2Proof/Machine/Planner.lean ====
section
/-! DEFINITION. Wake planning: latencies (R109), placement (R118–R120), admission (R117, R83), the disposition checks
(R115), withdrawal (R116), planning of a cue (R121), ASAP placements (R122), single-camera replanning (R123), loss of
need (R124) and exclusion (R125); and the starts of wakes (R10, R16). -/

namespace Sys2Proof.Machine

/-- The latency of a camera in slots by its present state (R109, Table 35); none in a state without one. -/
def State.latency (s : State) (p : PortId) : Option Nat :=
  match (s.port p).power.paused?, (s.port p).profile with
  | some .deep, some f => some (f.inrushSlots + 5 + f.initMax + 2 + ceilDiv (s.shadowOf p).length 4)
  | some .doze, some f => some f.resumeLatency
  | some .keepwarm, some f => some (max 1 (ceilDiv f.resumeLatency 3))
  | _, _ => none

/-- The kind, placed-from state, length, current and latency of a placement (R118); needed-by is set by the caller. -/
def State.placement (s : State) (p : PortId) : Option Reservation :=
  match (s.port p).power.paused?, (s.port p).profile, s.latency p with
  | some t, some f, some l =>
    some { kind := if t = .deep then .deep else .resume
           from_ := t
           start := 0
           length := if t = .deep then f.inrushSlots else 1
           current := if t = .deep then f.deepInrush else f.resumeInrush
           latency := l
           ready := 0
           needed := none
           started := false }
  | _, _, _ => none

/-- A window of the reservation's length fits at offset `k` from now_slot (R118). All of its slots lie ahead, in the half of the
slot range that R108 places after now_slot (log 44). -/
def State.fits (s : State) (r : Reservation) (k : Nat) : Bool :=
  decide (k + r.length ≤ 200000000) &&
    (List.range r.length).all (fun i => decide (s.occupancy (s.slotAt (k + i)) + r.current ≤ s.inrush))

/-- The downward search from offset `k` to offset 1 (R118). -/
def State.searchDown (s : State) (r : Reservation) : Nat → Option Nat
  | 0 => none
  | k + 1 => if s.fits r (k + 1) then some (k + 1) else s.searchDown r k

/-- The upward search from offset `k`, over `n` starts (R119). -/
def State.searchUp (s : State) (r : Reservation) : Nat → Nat → Option Nat
  | 0, _ => none
  | n + 1, k => if s.fits r k then some k else s.searchUp r n (k + 1)

/-- Write a member entry's disposition and predicted ready slot. -/
def setDisp (cue : Nat) (p : PortId) (d : Option Disp) (ready : Option Nat) (s : State) : State :=
  modCue cue (Cue.modMember p ({ · with disp := d, ready := ready })) s

/-- The reservation starting at offset `k` (R120). -/
def State.startAt (s : State) (r : Reservation) (k : Nat) (needed : Option Nat) : Reservation :=
  { r with start := s.slotAt k, ready := addSlot (s.slotAt k) r.latency, needed := needed }

/-- The port holds a reservation (R110). -/
def setResv (p : PortId) (r : Option Reservation) (s : State) : State := s.modPort p ({ · with resv := r })

/-- The start offset of a placement against a required-ready slot and its disposition: downward from R − L, else upward
from now_slot + 1 (R118, R119). -/
def State.findStart (s : State) (r : Reservation) (req : Nat) : Option (Nat × Disp) :=
  match s.searchDown r (s.offset (diffSlot req r.latency)).toNat with
  | some k => some (k, .placed)
  | none => (s.searchUp r Config.horizon 1).map (·, .latePredicted)

/-- Placement of a camera for a cue (R118–R120). -/
def placeFor (p : PortId) (cue : Nat) (req : Nat) (s : State) : State :=
  match s.placement p with
  | some r =>
    match s.findStart r req with
    | some (k, d) =>
      let r' := s.startAt r k (some cue)
      setDisp cue p (some d) (some r'.ready) (setResv p (some r') s)
    | none => s
  | none => s

/-- The camera's present awake current (R83). -/
def Port.awakeCurrent (c : Port) : Nat := match c.profile with
  | some f => f.awake
  | none => 0

/-- The steady admission test of R83, with some current left out of the committed steady current (R25). -/
def State.admits (s : State) (p : PortId) (leftOut : Nat) : Bool :=
  decide (s.committed - leftOut + (s.port p).awakeCurrent ≤ s.steady)

/-- The commitment figure is recorded (R83). -/
def commit (p : PortId) (s : State) : State :=
  s.modPort p (fun c => { c with commitment := some c.awakeCurrent })

/-- The reservation is withdrawn: it leaves the slot map, and the commitment is kept for the placement that follows
(R116). -/
def withdraw (p : PortId) (s : State) : State := setResv p none s

/-- Entries of other cues that held a withdrawn reservation's predicted ready slot are rewritten against the new one
(R116). -/
def rewriteEntries (p : PortId) (except : Nat) (old : Nat) (s : State) : State :=
  match (s.port p).resv with
  | some r =>
    forEach (s.cues.filter (fun c => c.id != except && c.state.planned? &&
        c.members.any (fun m => m.port == p && m.ready == some old))) (fun c s =>
      setDisp c.id p (some (if s.offset r.ready ≤ s.offset (s.requiredReady c) then .covered else .latePredicted))
        (some r.ready) s) s
  | none => s

/-- COVERED or LATE_PREDICTED by a wake that is under way or held (Table 37, checks 7 to 9). -/
def coverBy (p : PortId) (cue req ready : Nat) (s : State) : State :=
  setDisp cue p (some (if s.offset ready ≤ s.offset req then .covered else .latePredicted)) (some ready) s

/-- Checks 9 to 12 of Table 37, and the started reservation of checks 7 and 8, for a camera in DEEP, DOZE or KEEPWARM.
A commitment already held, as within a withdrawal, skips the admission (R116). -/
def planPaused (p : PortId) (cue req : Nat) (s : State) : State :=
  match (s.port p).resv with
  | some r =>
    if r.started then coverBy p cue req r.ready s
    else if s.offset r.ready ≤ s.offset req then setDisp cue p (some .covered) (some r.ready) s
    else settleCommitment p (rewriteEntries p cue r.ready (placeFor p cue req (withdraw p s)))
  | none =>
    if (s.port p).profile.isNone then setDisp cue p none none s
    else if (s.port p).commitment.isSome then placeFor p cue req s
    else if s.admits p 0 then placeFor p cue req (commit p s)
    else setDisp cue p (some .shed) none s

/-- One camera is planned for one cue: the disposition checks of Table 37 in order (R115). -/
def planOne (p : PortId) (cue : Nat) (s : State) : State :=
  match s.cue? cue with
  | none => s
  | some c =>
    let req := s.requiredReady c
    let q := s.port p
    if q.power.isFault then setDisp cue p (some .fault) none s
    else if q.power.isVacant then setDisp cue p (some .vacant) none s
    else if q.hostPause then setDisp cue p (some .parked) none s
    else if q.grade = some 7 then setDisp cue p (some .thermal) none s
    else match q.power with
      | .ready _ _ => setDisp cue p (some .covered) none s
      | .armed _ _ => setDisp cue p (some .covered) none s
      | .pausing ps _ =>
        if ps.origin = .auto then enterReady p false (setDisp cue p (some .covered) none s) else s
      | .waking w => coverBy p cue req w.forecast.ready s
      | .deep => planPaused p cue req s
      | .doze _ => planPaused p cue req s
      | .keepwarm _ => planPaused p cue req s
      | .vacant => s
      | .fault _ => s

/-- The cues a replanning of a port takes, in list order (R123). -/
def State.needs (s : State) (p : PortId) : List Nat :=
  (s.cues.filter (fun c => c.state.planned? && c.includes p)).map (·.id)

/-- Single-camera replanning (R123). -/
def replan (p : PortId) (s : State) : State := forEach (s.needs p) (planOne p) s

/-- A change of state undoes an unstarted reservation: it is withdrawn and the camera is replanned (R112). -/
def undoReservation (p : PortId) (s : State) : State :=
  if (s.port p).unstarted then settleCommitment p (replan p (withdraw p s)) else s

/-- The need of a port's unstarted reservation passes from a cue to the first other cue that needs the camera, and the
camera is replanned; with no such cue the reservation is released (R124). -/
def reneed (cue : Nat) (p : PortId) (s : State) : State :=
  match (s.port p).resv with
  | some r =>
    if r.started || r.needed != some cue then s
    else match (s.needs p).filter (· != cue) with
      | first :: _ => replan p (setResv p (some { r with needed := some first }) s)
      | [] => releaseResv p s
  | none => s

/-- A cue no longer needs its unstarted reservations: it is cancelled, granted or MISSED (R124). -/
def lossOfNeed (cue : Nat) (s : State) : State := forEach allPorts (reneed cue) s

/-- Insert a port into a planning order: the longest latency first, equal latencies in the order of insertion. -/
def insertByLatency (x : Nat × PortId) : List (Nat × PortId) → List (Nat × PortId)
  | [] => [x]
  | y :: ys => if y.1 < x.1 then x :: y :: ys else y :: insertByLatency x ys

/-- The planning order of a cue's members (R121): by latency, the longest first, equal latencies in ascending port
order; a state without a latency counts 0. -/
def State.planOrder (s : State) (c : Cue) : List PortId :=
  ((c.members.map (fun m => ((s.latency m.port).getD 0, m.port))).foldl (fun acc x => insertByLatency x acc) []).map
    (·.2)

/-- The planning of a cue (R121). -/
def planCue (cue : Nat) (s : State) : State :=
  match s.cue? cue with
  | some c => forEach (s.planOrder c) (fun p => planOne p cue) s
  | none => s

/-- The planning of an ASAP placement's reservation, at the earliest fitting slot and for no cue (R122). -/
def placeAsap (p : PortId) (s : State) : State :=
  match s.placement p with
  | some r => match s.searchUp r Config.horizon 1 with
    | some k => setResv p (some (s.startAt r k none)) s
    | none => s
  | none => s

/-- A camera excluded from every planned cue: its entries are rewritten and their predicted ready slots removed
(R125). -/
def exclude (p : PortId) (d : Disp) (s : State) : State :=
  forEach (s.needs p) (fun id => setDisp id p (some d) none) s

/-! ## The start of a wake -/

/-- The resume latency from a paused state, in slots (R16). -/
def resumeSlots (t : Target) (c : Port) : Nat :=
  match c.profile with
  | some f => if t = .keepwarm then max 1 (ceilDiv f.resumeLatency 3) else f.resumeLatency
  | none => 1

/-- A deep wake starts: WAKING in phase RAMP for the working profile's inrush slots; a POWER_MODE job still waiting is
removed (R10). -/
def startDeepWake (p : PortId) (r : Reservation) (s : State) : State :=
  let n := match (s.port p).profile with
    | some f => f.inrushSlots
    | none => r.length
  setPower p (.waking ⟨.ramp (addSlot r.start n), none, ⟨r.ready, r.needed⟩, none⟩)
    (s.modPort p (Port.removeJobs Job.isPowerMode))

/-- A resume starts from DOZE or KEEPWARM: WAKING in phase RESUME, the wake line is pulsed once, and the latency counts
from the pulse (R16). From any other state none is made. -/
def startResume (p : PortId) (f : Forecast) (s : State) : State :=
  match (s.port p).power.paused? with
  | some .deep => s
  | some t =>
    let readAt := addMs s.clock (10 * resumeSlots t (s.port p))
    let s := s.modPort p (fun c => { c.removeJobs Job.isPowerMode with wakePulses := c.wakePulses + 1 })
    setPower p (.waking ⟨.resume (some readAt) 0, none, f, none⟩) s
  | none => s

end Sys2Proof.Machine
end

