-- ==== Sys2Proof/Machine/Pauses.lean ====
section
/-! DEFINITION. Pauses by camera state (R19–R24), thermal protection (R27, R125) and thermal reads (R42), and the return of a
camera whose POWER_MODE job failed (R24, R85). -/

namespace Sys2Proof.Machine

/-- A pause taken by the camera's state (R19, R21, R23, R24). A pause that the state refuses has no effect (R20); a lighter
or equal one finds the camera where it would put it. -/
def takePause (p : PortId) (ps : Pause) (s : State) : State :=
  match (s.port p).power with
  | .ready _ _ => pauseReady p ps s
  | .waking w => s.modPort p ({ · with power := .waking { w with pending := some (mergePause w.pending ps) } })
  | .armed old pressed => s.modPort p ({ · with power := .armed (some (mergePause old ps)) pressed })
  | .pausing old wait => s.modPort p ({ · with power := .pausing (mergePause (some old) ps) wait })
  | .doze _ => if ps.target = .deep then undoReservation p (enterDeep p s) else s
  | .keepwarm _ =>
    match ps.target with
    | .doze => undoReservation p (enterDoze p s)
    | .deep => undoReservation p (enterDeep p s)
    | .keepwarm => s
  | .deep => s
  | .vacant => s
  | .fault _ => s

/-- Thermal protection (R27): the unstarted reservation is released, the cues' entries become THERMAL (R125), and the
camera is paused to DOZE as its state has it. -/
def thermalProtect (p : PortId) (s : State) : State :=
  let s := exclude p .thermal (releaseUnstarted p s)
  match (s.port p).power with
  | .ready _ _ => takePause p ⟨.doze, .auto⟩ s
  | .keepwarm _ => takePause p ⟨.doze, .auto⟩ s
  | .waking _ => takePause p ⟨.doze, .auto⟩ s
  | .armed _ _ => takePause p ⟨.doze, .auto⟩ s
  | .pausing ps _ => if ps.target = .keepwarm then takePause p ⟨.doze, .auto⟩ s else s
  | .doze _ => s
  | .deep => s
  | .vacant => s
  | .fault _ => s

/-- A thermal read of a value of attribute 12 (R42). The keep-warm interval of step 5 is formed from the grade whenever the
timer starts (R45). -/
def thermalRead (p : PortId) (v : Byte) (s : State) : State :=
  let old := (s.port p).grade
  let g := thermalGrade v
  let s := if old != some g || thermalChanged v then setGradeChanged p s else s
  let s := s.modPort p ({ · with grade := some g })
  if g = 7 then thermalProtect p s
  else if old = some 7 ∨ old = none then replan p s
  else s

/-- A POWER_MODE job failed while the camera is still in the state it was enqueued for (R24): the camera returns to READY
with the note PAUSE_ABANDONED, after the admission of R85 where it holds no reservation; a camera not admitted goes to
DEEP. An unstarted reservation is then undone (R112). -/
def powerModeFailed (p : PortId) (t : Target) (s : State) : State :=
  if t != .deep && (s.port p).power.paused? == some t then
    if (s.port p).resv.isSome then undoReservation p (addAbandoned p (enterReady p true s))
    else if s.admits p 0 then addAbandoned p (enterReady p true (commit p s))
    else enterDeep p s
  else s

end Sys2Proof.Machine
end

