-- ==== Sys2Proof/Machine/Identity.lean ====
section
/-! DEFINITION. The identity table: learning (R56, R57), identity changes (R58), removal of entries (R53), pinning (R61)
and profile clamping (R65). -/

namespace Sys2Proof.Machine

/-- The position of the entry for an identity. -/
def State.posOf (s : State) (x : Ident) : Option Position :=
  allPositions.find? (fun k => match s.entryAt k with
    | some e => e.ident == x
    | none => false)

/-- The lowest free position (R53). -/
def State.freePos (s : State) : Option Position :=
  allPositions.find? (fun k => (s.entryAt k).isNone)

/-- The evictable entries: unbound and unpinned, with how long they have been unbound (R57). -/
def State.evictable (s : State) : List (Position × Nat) :=
  allPositions.filterMap (fun k => match s.entryAt k with
    | some e => if e.bound.isNone && !e.pinned then some (k, diffMs s.clock (e.unbind.getD s.clock)) else none
    | none => none)

/-- The longest unbound of the evictable entries, the lower position between equals (R57). -/
def longestUnbound : List (Position × Nat) → Option (Position × Nat)
  | [] => none
  | x :: xs => match longestUnbound xs with
    | some y => if x.2 < y.2 then some y else some x
    | none => some x

/-- The position a new entry takes: the lowest free one, or the one of the evicted entry (R53, R57). -/
def State.newPos (s : State) : Option Position :=
  match s.freePos with
  | some k => some k
  | none => (longestUnbound s.evictable).map (·.1)

/-- The inrush figures of a profile clamped to a budget (R65). -/
def Profile.clampInrush (budget : Nat) (f : Profile) : Profile :=
  { f with deepInrush := min f.deepInrush budget, resumeInrush := min f.resumeInrush budget }

/-- An inrush figure of a profile exceeds a budget (R65). -/
def Profile.overBudget (budget : Nat) (f : Profile) : Bool :=
  decide (budget < f.deepInrush) || decide (budget < f.resumeInrush)

/-- The stored profile of figures read or given, with its source, clamped at the inrush budget (R65). -/
def State.storedProfile (s : State) (f : Profile) (overridden : Bool) : StoredProfile :=
  ⟨f.clampInrush s.inrush, overridden, f.overBudget s.inrush⟩

/-- RESTORE makes no further write, and the camera enters READY (R58): at once, or at the end of a restore write that is
in flight. -/
def endRestore (p : PortId) (s : State) : State :=
  match (s.port p).power with
  | .waking w =>
    match w.phase with
    | .restore rest =>
      match (s.port p).lane with
      | some ⟨_, _, _, _, .wake (.restoreWrite _), _⟩ =>
        s.modPort p ({ · with power := .waking { w with phase := .restore (rest.take 1) } })
      | _ => wakeDone p s
    | _ => s
  | _ => s

/-- A port's advance order is discarded (R134). -/
def dropOrder (p : PortId) (s : State) : State := s.modPort p ({ · with order := none })

/-- An entry is removed from its position; the port it was bound to loses its identity and ends a RESTORE (R53, R58). -/
def removeEntry (k : Position) (s : State) : State :=
  match s.entryAt k with
  | some e =>
    let s := s.setEntry k none
    match e.bound with
    | some q => endRestore q (markPort q s)
    | none => s
  | none => s

/-- The effects of an identity change on a port (R58). R58, R94 and R123 do not order the loss of the preparation statuses and
the replanning: the statuses go first, so that a camera which the replanning returns to READY is checked and prepared again
(DESIGN CHOICE, log 49). -/
def identityChange (p : PortId) (s : State) : State :=
  let s := dropOrder p (clearEntries p (releaseUnstarted p s))
  endRestore p (replan p (loseSettings p (markPort p s)))

/-- The effects on a port that loses its entry to a rebinding (R58). -/
def loseIdentity (q : PortId) (s : State) : State :=
  let s := (addConflict q s).modPort q ({ · with conflict := true })
  endRestore q (markPort q (dropOrder q (clearEntries q (releaseUnstarted q s))))

/-- Step 1 of R56: the entry of X leaves another port, which loses its identity. -/
def leaveOther (p : PortId) (x : Ident) (s : State) : State :=
  match s.posOf x with
  | some k => match s.entryAt k with
    | some e => match e.bound with
      | some q => if q = p then s else loseIdentity q (s.setEntry k (some { e with bound := none }))
      | none => s
    | none => s
  | none => s

/-- Step 2 of R56: an entry of another identity leaves p. -/
def leaveHere (p : PortId) (x : Ident) (s : State) : State :=
  match s.boundPos p with
  | some j => s.setEntry j ((s.entryAt j).map (fun e =>
      if e.ident = x then e
      else { e with bound := none, unbind := if e.pinned then none else some s.clock }))
  | none => s

/-- Steps 1 and 2 of R56. -/
def unbindOthers (p : PortId) (x : Ident) (s : State) : State := leaveHere p x (leaveOther p x s)

/-- The profile an entry holds after a learning: an OVERRIDE is kept, anything else is replaced (R56, step 3). -/
def learned (new : StoredProfile) : Option StoredProfile → StoredProfile
  | some old => if old.overridden then old else new
  | none => new

/-- Steps 3 and 4 of R56, and R57: X is bound to p, in its entry or a new one; with no room it stays unlisted. The port
works with the entry's profile, or with the figures read. -/
def bindTo (p : PortId) (x : Ident) (f : Profile) (s : State) : State :=
  let new := s.storedProfile f false
  match s.posOf x with
  | some k =>
    match s.entryAt k with
    | some e =>
      let kept := learned new e.profile
      (s.setEntry k (some { e with bound := some p, unbind := none, profile := some kept })).modPort p
        ({ · with profile := some kept.figures })
    | none => s
  | none =>
    match s.newPos with
    | some k =>
      (s.setEntry k (some ⟨x, some p, false, some new, [], none⟩)).modPort p ({ · with profile := some new.figures })
    | none => s.modPort p ({ · with profile := some new.figures })

/-- A completed IDENTIFY on port p with identity X and the figures read (R56–R59); the conflict mark and the rescan note are
cleared. -/
def identifyDone (p : PortId) (x : Ident) (f : Profile) (s : State) : State :=
  let changed := s.boundIdent p != some x
  let s := bindTo p x f (unbindOthers p x s)
  let s := s.modPort p ({ · with conflict := false, rescan := false })
  if changed then identityChange p s else s

/-- The profile of the twelve values an IDENTIFY read: each clamped to its range and converted (R40, Table 16). -/
def profileRead (vals : List Byte) : Profile where
  resumeLatency := clamp 1 100 (u8 vals 6)
  initMax := clamp 1 100 (u8 vals 7) * 10
  deepInrush := u8 vals 8 * 20
  inrushSlots := clamp 1 10 (u8 vals 9)
  awake := u8 vals 10 * 20
  resumeInrush := u8 vals 11 * 20

/-- The override figures rounded and clamped to Table 22 (R61). -/
def Profile.tidied (f : Profile) : Profile where
  resumeLatency := clamp 1 100 f.resumeLatency
  initMax := clamp 10 1000 (f.initMax / 10 * 10)
  deepInrush := clamp 0 5100 (f.deepInrush / 20 * 20)
  inrushSlots := clamp 1 10 f.inrushSlots
  awake := clamp 0 5100 (f.awake / 20 * 20)
  resumeInrush := clamp 0 5100 (f.resumeInrush / 20 * 20)

/-- The age an entry has reached is at least the aging period (R60). -/
def State.agedOut (s : State) (e : IdEntry) : Bool :=
  e.bound.isNone && !e.pinned &&
    (match e.unbind with
     | some t => decide (s.aging * 1000 ≤ diffMs s.clock t)
     | none => false)

/-- Every entry that has aged out is removed, in ascending position (R60). -/
def removeAged (s : State) : State :=
  forEach allPositions (fun k s => match s.entryAt k with
    | some e => if s.agedOut e then removeEntry k s else s
    | none => s) s

/-- The number of entries in the table. -/
def State.entryCount (s : State) : Nat := (allPositions.filter (fun k => (s.entryAt k).isSome)).length

end Sys2Proof.Machine
end

