-- ==== Sys2Proof/Machine/Bodies.lean ====
section
/-! DEFINITION. The bodies of replies and reports (Chapter 11): the camera record, cue records, member entries, CUE_DONE,
event records, trap rules, stations, identity entries, the fire unit. -/

namespace Sys2Proof.Machine

/-- The code of an optional enumeration, 0 when absent (Table 64). -/
def optCode {α : Type} (f : α → Nat) : Option α → Byte
  | some x => toByte (f x)
  | none => 0#8

def Power.phase? : Power → Option Phase
  | .waking w => some w.phase
  | _ => none

def Power.pendingPause? : Power → Option Pause
  | .waking w => w.pending
  | .armed ps _ => ps
  | _ => none

def Power.pause? : Power → Option Pause
  | .pausing ps _ => some ps
  | _ => none

def Power.cause? : Power → Option FaultCause
  | .fault c => some c
  | _ => none

def Power.restTimer? : Power → Option Nat
  | .ready rest _ => rest
  | _ => none

def Power.restHold? : Power → Option Nat
  | .ready _ hold => hold
  | _ => none

def Power.dozeTimer? : Power → Option Nat
  | .doze t => t
  | _ => none

def Power.keepTimer? : Power → Option Nat
  | .keepwarm t => t
  | _ => none

def Power.waitTimer? : Power → Option Nat
  | .pausing _ t => some t
  | _ => none

def Power.forecast? : Power → Option Forecast
  | .waking w => some w.forecast
  | _ => none

/-- A set of flags as one byte, bit 0 first. -/
def flagBits (bs : List Bool) : Byte :=
  toByte (bs.foldr (fun b acc => 2 * acc + (if b then 1 else 0)) 0)

/-- A thermal grade; VOID is 0xFF (Table 64). -/
def gradeByte : Option Nat → Byte
  | some g => toByte g
  | none => 0xFF#8

/-- A rail current reading; VOID is 0xFFFF (Table 64). -/
def readingBytes : Option Nat → List Byte
  | some r => le16 r
  | none => le16 0xFFFF

/-- The ten bytes of an optional profile; zero when absent (Table 71). -/
def profileBytes : Option Profile → List Byte
  | some f => f.bytes
  | none => List.replicate 10 0#8

/-- The reservation fields of the camera record (Table 71, offsets 47–60). -/
def resvBytes : Option Reservation → List Byte
  | some r => [toByte r.kind.code] ++ le32 r.start ++ [toByte r.length] ++ le16 r.current ++ le32 r.ready ++
      optCue r.needed ++ [flagByte r.started]
  | none => [0#8] ++ optTime none ++ [0#8] ++ le16 0 ++ optTime none ++ optCue none ++ [0#8]

/-- The camera record as carried (Table 71). -/
def cameraBytes (p : PortId) (s : State) : List Byte :=
  let c := s.port p
  let w := c.power
  let ident := s.boundIdent p
  [toByte p.val, toByte w.code, optCode Phase.code w.phase?,
   optCode (fun x => x.target.code) w.pendingPause?, optCode (fun x => x.origin.code) w.pendingPause?,
   optCode (fun x => x.target.code) w.pause?, optCode (fun x => x.origin.code) w.pause?,
   flagBits [c.hostPause, c.offload, c.mediaFull, c.gradeChanged, ident.isSome, c.profile.isSome, c.resv.isSome,
     w.forecast?.isSome],
   optCode FaultCause.code w.cause?] ++
  identBytes (ident.getD 0) ++ profileBytes c.profile ++ [gradeByte c.grade] ++ readingBytes c.reading ++
  [toByte c.run] ++ optTime w.restTimer? ++ optTime w.dozeTimer? ++ optTime w.keepTimer? ++ optTime w.waitTimer? ++
  optIndex c.station ++ [flagBits [c.noteAbandoned, c.noteConflict]] ++ resvBytes c.resv ++
  optTime (w.forecast?.map (·.ready)) ++ optCue (w.forecast?.bind (·.needed))

/-- A member entry (Table 69). -/
def Member.bytes (m : Member) : List Byte :=
  [toByte m.port.val, optCode Disp.code m.disp] ++ optTime m.ready ++
    [toByte m.prep.code, optCode CamOutcome.code m.outcome]

/-- The cue outcome DONE carries: 1 FIRED, 2 FIRED_LATE, 3 MISSED (R96, R98, Table 67). -/
def Cue.outcomeCode (c : Cue) : Nat :=
  match c.grant with
  | some g => if g.delay = 0 then 1 else 2
  | none => 3

/-- The actual fire time of the result, absent when MISSED (Table 27). -/
def Cue.fireTime? (c : Cue) : Option Nat := c.grant.map (·.fire)

/-- A cue record (Table 70); the outcome, actual fire time and delay are shown in DONE (Table 27). -/
def Cue.bytes (c : Cue) : List Byte :=
  let done := c.state == .done
  [toByte c.id, toByte c.station.val, toByte c.state.code, toByte c.form.code] ++ le32 c.time ++ le32 c.posting ++
  optTime (c.grant.map (·.t0)) ++ portSetBytes c.confirm ++ optTime c.timer ++
  [if done then toByte c.outcomeCode else 0#8] ++ optTime (if done then c.fireTime? else none) ++
  le16 (if done then (c.grant.map (·.delay)).getD 0 else 0) ++
  [toByte c.profile.length, toByte c.members.length] ++ c.profile.flatMap pairBytes ++ c.members.flatMap Member.bytes

/-- The body of a CUE_DONE report (Section 11.2.3). -/
def Cue.doneBody (c : Cue) : List Byte :=
  [toByte c.id, toByte c.station.val] ++ le32 c.time ++ [toByte c.outcomeCode] ++ optTime c.fireTime? ++
  le16 ((c.grant.map (·.delay)).getD 0) ++ [toByte c.members.length] ++
  c.members.flatMap (fun m => [toByte m.port.val, optCode CamOutcome.code m.outcome])

/-- An event record (Section 11.2.5). -/
def EventRec.bytes (e : EventRec) : List Byte :=
  [toByte e.port.val, flagByte e.ident.isSome] ++ identBytes (e.ident.getD 0) ++ [toByte e.kind.code, e.data] ++
    le32 e.time

/-- A trap rule with its index (Section 11.2.5). -/
def TrapRule.bytes (i : Nat) (r : TrapRule) : List Byte :=
  [toByte i, flagByte r.enabled] ++ le16 r.kinds.toNat ++ le32 r.ports.toNat ++ identBytes r.ident ++
    identBytes r.mask ++ [toByte (actionCode r.forward)]

/-- The station fields as carried (Table 78). -/
def stationBytes (st : StationId) (s : State) : List Byte :=
  let f := s.station st
  portSetBytes (s.membersOf st) ++ [toByte f.restState.code] ++ le16 f.linger ++ le16 f.dozeLimit ++ le16 f.pauseWait ++
  le16 f.guardSlots ++ le16 f.prepTime ++ le16 f.focusLead ++ le16 f.strobe ++ le16 f.press ++ le16 f.slack ++
  le16 f.confirm ++ le16 f.keepBase ++ [toByte (lockCode f.lockOn)] ++ le16 f.lockTimeout

/-- A value combined over members: VOID when any member's is VOID (R73). -/
def combine (f : Nat → Nat → Nat) (xs : List (Option Nat)) : Option Nat :=
  xs.foldl (fun acc x => match acc, x with
    | some a, some b => some (f a b)
    | _, _ => none) (some 0)

/-- The highest thermal grade of a station's members (Table 26, R73). -/
def State.highestGrade (s : State) (st : StationId) : Option Nat :=
  combine max ((s.membersOf st).map (fun p => (s.port p).grade))

/-- The total rail current of a station's members (Table 26, R73). -/
def State.totalRail (s : State) (st : StationId) : Option Nat :=
  combine (· + ·) ((s.membersOf st).map (fun p => (s.port p).reading))

/-- The commitment figures of a station's members (Table 26). -/
def State.stationCommitted (s : State) (st : StationId) : Nat :=
  (s.membersOf st).foldl (fun acc p => acc + (s.port p).commitment.getD 0) 0

/-- The open cues of a station, in list order (R69, Table 26). -/
def State.openCues (s : State) (st : StationId) : List Cue :=
  s.cues.filter (fun c => c.station == st && c.state != .done)

/-- The number of members of a station in each camera state, in the order of the codes (Table 79). -/
def State.countByState (s : State) (st : StationId) : List Byte :=
  (List.range 9).map (fun i => toByte ((s.membersOf st).filter (fun p => (s.port p).power.code == i + 1)).length)

/-- The STATION_GET reply after its status (Table 79). -/
def stationGetBytes (st : StationId) (s : State) : List Byte :=
  stationBytes st s ++ [toByte (s.membersOf st).length] ++ s.countByState st ++ [gradeByte (s.highestGrade st)] ++
  optTime (s.totalRail st) ++ le16 (s.stationCommitted st) ++ [toByte (s.openCues st).length] ++
  optTime ((s.openCues st).head?.map (·.time)) ++ le16 s.steady ++ le16 s.inrush ++ le16 s.committed ++
  le16 s.highestOccupancy

/-- The age of an entry in seconds: 0 while bound or pinned (Section 3.1). -/
def State.ageOf (s : State) (e : IdEntry) : Nat :=
  match e.unbind with
  | some t => if e.bound.isSome || e.pinned then 0 else diffMs s.clock t / 1000
  | none => 0

/-- The shadow of an entry as carried: the pair count and eight pairs, the unused ones zero (Table 82). -/
def shadowBytes (ps : List Pair) : List Byte :=
  [toByte ps.length] ++ ps.flatMap pairBytes ++ List.replicate (16 - 2 * ps.length) 0#8

/-- An identity entry as carried (Table 82). -/
def idEntryBytes (s : State) (k : Position) (e : IdEntry) : List Byte :=
  [toByte k.val] ++ identBytes e.ident ++ optIndex e.bound ++ [flagByte e.pinned, flagByte e.profile.isSome,
    optCode (fun f => sourceCode f.overridden) e.profile,
    flagByte ((e.profile.map (·.clamped)).getD false)] ++ profileBytes (e.profile.map (·.figures)) ++
  shadowBytes e.shadow ++ optTime e.unbind ++ le16 (s.ageOf e) ++
  [optCode (fun p => (s.port p).power.code) e.bound]

/-- A waiting fire request as FIRE_UNLOCK carries it: cue id, station, slack expiry (R159). -/
def FireReq.bytes (r : FireReq) : List Byte := [toByte r.cue, toByte r.station.val] ++ le32 r.slackAt

/-- The state of the fire unit as FIRE_UNLOCK carries it (R159, R192); the waiting requests in their order of arrival (DESIGN
CHOICE, log 41: the spec gives the set no order). -/
def fireUnitBytes (s : State) : List Byte :=
  optCue (s.owner.map (·.cue)) ++ optIndex (s.owner.map (·.station)) ++ optIndex (s.lock.map (·.station)) ++
  optTime (s.lock.map (·.expiry)) ++ [toByte s.waiting.length] ++ s.waiting.flatMap FireReq.bytes

/-- An advance entry as AHEAD_DROP carries it (Table 85). -/
def AdvEntry.bytes (e : AdvEntry) : List Byte :=
  [toByte e.port.val, toByte e.attr, e.value, toByte (entryStateCode e.valid)] ++ le32 e.created ++ le32 e.expiry

end Sys2Proof.Machine
end

