-- ==== Sys2Proof/Machine/Loss.lean ====
section
/-! DEFINITION. The end of a cue and its report (R100, R101, R186), the rest effect of a cue that leaves without a fire
sequence (R77), and a camera's entry to FAULT (R8, R92) and to VACANT (R5, R92) and its return (R4). -/

namespace Sys2Proof.Machine

/-- A cue leaves the list. -/
def removeCue (id : Nat) (s : State) : State := { s with cues := s.cues.filter (fun c => c.id != id) }

/-- The CUE_DONE of a cue is handed to the link: it enters the report queue and the cue is removed, or the cue's mark is
set and it stays in DONE (R101, R186). -/
def reportCue (id : Nat) (s : State) : State :=
  match s.cue? id with
  | some c =>
    if s.reports.length < Config.reportCapacity then
      removeCue id { s with reports := s.reports ++ [.cueDone c.doneBody] }
    else modCue id ({ · with mark := true }) s
  | none => s

/-- A cue enters DONE: the confirm timer and the confirm list are removed and the report is handed on (R100, R101). -/
def finishCue (id : Nat) (s : State) : State :=
  reportCue id (modCue id ({ · with state := .done, timer := none, confirm := [] }) s)

/-- The confirm end of R100: a CONFIRMING cue whose confirm list is empty enters DONE. -/
def confirmEnd (id : Nat) (s : State) : State :=
  match s.cue? id with
  | some c => if c.state = .confirming ∧ c.confirm = [] then finishCue id s else s
  | none => s

/-- The rest effect of R77 on one member: READY with no rest timer and not held for another cue, it loses the hold for
this cue and its rest timer starts. -/
def restAfter (cue : Nat) (p : PortId) (s : State) : State :=
  match (s.port p).power with
  | .ready none none => startRest p s
  | .ready none (some id) => if id = cue then startRest p (dropHold cue p s) else s
  | _ => s

/-- What one cue records when a member camera enters VACANT or FAULT (R92). The statuses of a cue with an empty profile
stay COMPLETE (R93, log 15). -/
def recordLossIn (p : PortId) (d : Disp) (o : CamOutcome) (c : Cue) (s : State) : State :=
  match c.state with
  | .waiting => s
  | .planned => modCue c.id (Cue.modMember p ({ · with disp := some d, ready := none, prep := .notStarted })) s
  | .preparing => lossWhilePlanned s
  | .fireWait => lossWhilePlanned s
  | .firing => modCue c.id (fun c => { c.modMember p ({ · with outcome := some o }) with
      confirm := c.confirm.filter (· != p) }) s
  | .confirming =>
    if c.confirm.contains p then
      confirmEnd c.id (modCue c.id (fun c => { c.modMember p ({ · with outcome := some o }) with
        confirm := c.confirm.filter (· != p) }) s)
    else s
  | .done => s
where
  lossWhilePlanned (s : State) : State :=
    modCue c.id (Cue.modMember p (fun m => { m with
      disp := some d, ready := none, prep := if c.profile.isEmpty then m.prep else .notStarted })) s

/-- Each cue that includes a port records its camera's loss (R92). -/
def recordLoss (p : PortId) (d : Disp) (o : CamOutcome) (s : State) : State :=
  forEach (s.cues.filter (Cue.includes p)) (recordLossIn p d o) s

/-- Host jobs of a port that have not started are answered BAD_STATE (R5, R8). -/
def refuseQueued (p : PortId) (s : State) : State :=
  forEach ((s.port p).queue.filter (fun j => !j.started)) answerBadState s

/-- The jobs of a camera entering FAULT: POLL jobs and the POLL mark stay, every other queued job and mark goes, and a
job in flight that is no POLL makes no further exchange (R8, R34, R35). -/
def Port.faultJobs (c : Port) : Port :=
  ({ c with queue := c.queue.filter (fun j => j.started || j.isPoll), waitLine := [], markThermal := false,
            markPing := false }).cutFlight (fun j => !j.isPoll) false

/-- A camera enters FAULT (R8). R8 and R92 do not order the port's CAMERA_CHANGE and the CUE_DONE of a CONFIRMING cue that the loss
ends: the port is marked first (DESIGN CHOICE, log 54). -/
def enterFault (p : PortId) (cause : FaultCause) (s : State) : State :=
  let s := (refuseQueued p s).modPort p Port.faultJobs
  let s := s.modPort p ({ · with resv := none, order := none })
  let s := setOffload p false (clearEntries p (setPower p (.fault cause) s))
  recordLoss p .fault .fault (s.modPort p Port.serveRoom)

/-- The port's entry loses its binding; its unbind time is set unless it is pinned (R5, R56). -/
def unbindPort (p : PortId) (s : State) : State :=
  match s.boundPos p with
  | some k => s.setEntry k ((s.entryAt k).map (fun e =>
      { e with bound := none, unbind := if e.pinned then none else some s.clock }))
  | none => s

/-- What entry to VACANT removes from the port's record, its queue and its marks (R5, R34, R35, R59, R164). An exchange
in progress runs out and its result is discarded; its job leaves the queue at once and counts for a SETTLE no longer (DESIGN
CHOICE, log 51: R5 and R105 leave it open). -/
def Port.clearForVacant (c : Port) : Port :=
  { c with
    queue := []
    waitLine := []
    markPoll := false
    markThermal := false
    markPing := false
    lane := c.lane.map ({ · with src := .discarded })
    held := none
    resv := none
    order := none
    profile := none
    grade := none
    run := 0
    conflict := false
    rescan := false }

/-- A camera enters VACANT (R5). Every host request whose job is removed or abandoned is answered BAD_STATE. R5 and R92 do not
order the port's CAMERA_CHANGE and the CUE_DONE of a CONFIRMING cue that the loss ends: the port is marked first (DESIGN CHOICE,
log 54). -/
def enterVacant (p : PortId) (s : State) : State :=
  let s := forEach (s.port p).queue answerBadState s
  let s := unbindPort p (s.modPort p Port.clearForVacant)
  let s := setPower p .vacant (clearEntries p s)
  let s := setMediaFull p false (setOffload p false (setHostPause p false s))
  recordLoss p .vacant .vacant s

/-- A presence rise on an enabled port whose camera is VACANT (R4): DEEP, the poll sequence bit 0, the resync need set,
an IDENTIFY owed, R38 tested. R4, R38 and R41 do not order the last two: the IDENTIFY goes ahead of the POLL (DESIGN CHOICE,
log 47). -/
def presenceRise (p : PortId) (s : State) : State :=
  if (s.port p).enabled && (s.port p).power.isVacant then
    let s := s.modPort p (fun c => { c with hostPause := false, offload := false, mediaFull := false, run := 0,
                                            grade := none, pollBit := false, resync := true })
    (enterDeep p s).modPort p (fun c => c.oweIdentify.testPoll)
  else s

/-- A presence fall on an enabled port (R5); a camera already VACANT is not touched. -/
def presenceFall (p : PortId) (s : State) : State :=
  if (s.port p).power.isVacant then s else enterVacant p s

end Sys2Proof.Machine
end

