-- ==== Sys2Proof/Machine/Events.lean ====
section
/-! DEFINITION. The event filter: internal effects (R160, R164–R167), trap rules (R168), the event queue and the held slots
(R171–R174). -/

namespace Sys2Proof.Machine

/-- The bit of an event kind in a rule's event-kind set (Section 9.3). -/
def TrapRule.hasKind (r : TrapRule) (k : EventKind) : Bool := r.kinds.getLsbD (k.code - 1)

/-- The identity test of R168. -/
def TrapRule.identTest (r : TrapRule) (x : Option Ident) : Bool :=
  r.mask == 0 || (match x with
    | some v => (v &&& r.mask) == (r.ident &&& r.mask)
    | none => false)

/-- A trap rule matches an event record (R168). -/
def TrapRule.matches (r : TrapRule) (e : EventRec) : Bool :=
  r.enabled && r.hasKind e.kind && r.ports.getLsbD e.port.val && r.identTest e.ident

/-- The default of an event kind: forwarded or suppressed (Table 58). -/
def EventKind.forwardedByDefault : EventKind → Bool
  | .hello => false
  | .shot => false
  | .offloadBegin => false
  | .offloadEnd => false
  | .cardFull => true
  | .mediaOk => true
  | .shutterFault => true
  | .button => true
  | .thermalChange => true

/-- The classification of an event record: the first matching rule decides, else the default (R168). -/
def forwards (rules : List TrapRule) (e : EventRec) : Bool :=
  match rules.find? (fun r => r.matches e) with
  | some r => r.forward
  | none => e.kind.forwardedByDefault

/-- A record joins the tail of the event queue; one that enters an empty queue hands on EVENTS_WAITING (R171, R174). -/
def enqueueEvent (e : EventRec) (s : State) : State :=
  let s' := { s with events := s.events ++ [e] }
  if s.events.isEmpty then handEventsWaiting s' else s'

/-- A forwarded event is offered to the queue, or occupies the port's held slot (R171). -/
def offerEvent (e : EventRec) (s : State) : State :=
  if s.events.length < Config.eventCapacity then enqueueEvent e s
  else s.modPort e.port ({ · with held := some e })

/-- The cue awaits a SHOT of a port taken now: it is FIRING or CONFIRMING, its confirm list holds the port, and its
full-press instant has come (R160). -/
def State.awaitsShot (s : State) (p : PortId) (c : Cue) : Bool :=
  (c.state == .firing || c.state == .confirming) && c.confirm.contains p &&
    (match c.grant with
     | some g => reachedMs s.clock g.fire
     | none => false)

/-- The cue granted first among some cues: the one whose grant time lies furthest back. -/
def earliestGrant (now : Nat) : List Cue → Option Cue
  | [] => none
  | c :: cs => match earliestGrant now cs with
    | some d => if (c.grant.map (diffMs now ·.t0)).getD 0 < (d.grant.map (diffMs now ·.t0)).getD 0 then some d else some c
    | none => some c

/-- A SHOT confirms the port for the qualifying cue with the earliest grant time (R160). -/
def takeShot (p : PortId) (s : State) : State :=
  match earliestGrant s.clock (s.cues.filter (s.awaitsShot p)) with
  | some c => confirmEnd c.id (modCue c.id (fun c => { c.modMember p ({ · with outcome := some .taken }) with
      confirm := c.confirm.filter (· != p) }) s)
  | none => s

/-- The internal effect of an event (R160, R164–R167). -/
def eventEffect (p : PortId) (k : EventKind) (s : State) : State :=
  match k with
  | .hello =>
    s.modPort p (fun c =>
      let c := { c with conflict := false }
      if c.power.isFault then { c with rescan := true } else c.oweIdentify)
  | .shot => takeShot p s
  | .offloadBegin => if (s.port p).power.railOn then setOffload p true s else s
  | .offloadEnd => if (s.port p).offload then pausingEvent p (setOffload p false s) else s
  | .cardFull => setMediaFull p true s
  | .mediaOk => setMediaFull p false s
  | .shutterFault => s
  | .button => s
  | .thermalChange => if (s.port p).power.isFault then s else s.modPort p Port.oweThermal

/-- An event of a POLL is taken (R163): its record is formed, its internal effect applied, and it is queued, held or
discarded as the trap rules say. -/
def takeEvent (p : PortId) (k : EventKind) (data : Byte) (s : State) : State :=
  let e : EventRec := ⟨p, s.boundIdent p, k, data, s.clock⟩
  let fwd := forwards s.traps.toList e
  let s := eventEffect p k s
  if fwd then offerEvent e s else s

/-- The port whose held record is the oldest, the lower port between equal poll times (R172). -/
def State.oldestHeld (s : State) : Option PortId :=
  allPorts.foldl (fun acc p =>
    match (s.port p).held, acc with
    | some e, some q =>
      match (s.port q).held with
      | some f => if diffMs s.clock f.time < diffMs s.clock e.time then some p else some q
      | none => some p
    | some _, none => some p
    | none, _ => acc) none

/-- Held records enter the room of the event queue (R172); each emptied slot has R38 tested. The queue refilled within a
fetch was never empty (R174), so no report is raised. -/
def refillEvents : Nat → State → State
  | 0, s => s
  | n + 1, s =>
    if s.events.length < Config.eventCapacity then
      match s.oldestHeld with
      | some p =>
        match (s.port p).held with
        | some e =>
          refillEvents n
            (({ s with events := s.events ++ [e] }).modPort p (fun c => ({ c with held := none }).testPoll))
        | none => s
      | none => s
    else s

/-- The ports whose held slots are occupied. -/
def State.heldPorts (s : State) : List PortId := allPorts.filter (fun p => (s.port p).held.isSome)

end Sys2Proof.Machine
end

