-- ==== Sys2Proof/Machine/Lane.lean ====
section
/-! DEFINITION. The management lanes: what a lane carries next (R32, R36), exchanges and their results (R30, R31, R39–R44,
R48–R50, R136, R141), the wake-phase exchanges (R11–R16) and the ends of jobs (R37). -/

namespace Sys2Proof.Machine

/-! ## What the lane carries -/

/-- The exchange of a wake phase (R11–R14, R16). -/
def WakeEx.exchange (now : Nat) : WakeEx → Exchange
  | .resetWrite => ⟨.write, 14, 0x01#8, false, .wake .resetWrite, now⟩
  | .initRead => ⟨.read, 0, 0#8, false, .wake .initRead, now⟩
  | .calWrite => ⟨.write, 13, 0xA5#8, false, .wake .calWrite, now⟩
  | .restoreWrite pr => ⟨.write, pr.attr, pr.value, false, .wake (.restoreWrite pr), now⟩
  | .resumeRead => ⟨.read, 0, 0#8, false, .wake .resumeRead, now⟩

/-- The attributes an IDENTIFY reads, in order (R40). -/
def identifyAttrs : List Nat := [1, 2, 3, 4, 5, 6, 7, 8, 9, 10, 11, 24]

/-- The data byte of a POLL: the poll sequence bit in bit 0, the resync flag in bit 1 (R39, Table 73). -/
def Port.pollData (c : Port) : Byte :=
  toByte ((if c.pollBit then 1 else 0) + (if c.resync then 2 else 0))

/-- The value a POWER_MODE job writes (R50). -/
def Target.modeByte : Target → Byte
  | .doze => 0x01#8
  | .keepwarm => 0x02#8
  | .deep => 0x00#8

/-- The next exchange of a job (Table 14); none when it has none left. -/
def Job.exchange (j : Job) (c : Port) (now : Nat) : Option Exchange :=
  match j.kind with
  | .hostRead _ a => some ⟨.read, a, 0#8, false, .job, now⟩
  | .hostWrite _ a v => some ⟨.write, a, v, false, .job, now⟩
  | .prepWrite _ _ pairs => pairs.head?.map (fun pr => ⟨.write, pr.attr, pr.value, false, .job, now⟩)
  | .aheadWrite pairs _ _ _ => pairs.head?.map (fun pr => ⟨.write, pr.attr, pr.value, false, .job, now⟩)
  | .identify vals => (identifyAttrs[vals.length]?).map (fun a => ⟨.read, a, 0#8, false, .job, now⟩)
  | .poll => some ⟨.poll, 0, c.pollData, false, .job, now⟩
  | .thermalRead => some ⟨.read, 12, 0#8, false, .job, now⟩
  | .ping => some ⟨.ping, 12, 0#8, false, .job, now⟩
  | .powerMode t => some ⟨.write, 15, t.modeByte, false, .job, now⟩

/-- A number of 16–23: the capture profile, whose writes are writes through the part (Table 19, R48). -/
def isCapture (a : Nat) : Bool := decide (16 ≤ a ∧ a ≤ 23)

/-- A camera whose settings are lost or not yet restored (R46, R47). -/
def Power.settingsLost : Power → Bool
  | .deep => true
  | .waking _ => true
  | _ => false

/-- The states that admit a host read of an attribute (R46, step 3). -/
def Power.admitsRead (w : Power) (a : Nat) : Bool := !w.isLost && !(isCapture a && w.settingsLost)

/-- The states that admit a host write of an attribute (R47, step 2). -/
def Power.admitsWrite (w : Power) (a : Nat) : Bool := !w.isLost && !((a == 13 || isCapture a) && w.settingsLost)

/-- The start check of a job (R36, Table 15); a POLL of a port whose held slot is occupied does not start (R38). -/
def Job.mayStart (j : Job) (c : Port) : Bool :=
  match j.kind with
  | .hostRead _ a => c.power.admitsRead a
  | .hostWrite _ a _ => c.power.admitsWrite a
  | .prepWrite _ _ _ => c.power.isReady || c.power.isPausing
  | .aheadWrite _ _ _ _ => c.power.isReady || c.power.isPausing
  | .identify _ => !c.power.isLost
  | .poll => !c.power.isVacant && c.held.isNone
  | .thermalRead => !c.power.isLost
  | .ping => c.power.isKeepwarm
  | .powerMode t => c.power.paused? == some t

/-! ## The ends of jobs -/

/-- The cue takes the end of its PREP_WRITE: COMPLETE or FAILED, while it is PREPARING and the status is WRITING (R92,
R94, R95). -/
def prepEnd (cue : Nat) (p : PortId) (ok : Bool) (s : State) : State :=
  match s.cue? cue with
  | some c =>
    match c.member? p with
    | some m =>
      if c.state = .preparing ∧ m.prep = .writing then setPrep cue p (if ok then .complete else .failed) s else s
    | none => s
  | none => s

/-- An AHEAD_WRITE that may not start returns its pairs as an order, unless its expiry has passed or a newer order is held
(R135); an older order held gives way to it. -/
def returnOrder (p : PortId) (o : Order) (s : State) : State :=
  if (s.port p).order.all (fun held => decide (held.seq ≤ o.seq)) && !reachedMs s.clock o.expiry then
    s.modPort p ({ · with order := some o })
  else s

/-- The result of a job that ends at its start check (R36, Table 15). -/
def startCheckFailed (p : PortId) (j : Job) (s : State) : State :=
  match j.kind with
  | .hostRead t _ => giveAnswer t (readReply .badState) s
  | .hostWrite t _ _ => giveAnswer t [Status.badState.code] s
  | .prepWrite cue _ _ => prepEnd cue p false s
  | .aheadWrite pairs lifetime expiry seq => returnOrder p ⟨pairs, lifetime, expiry, seq⟩ s
  | .identify _ => s
  | .poll => s
  | .thermalRead => s
  | .ping => s
  | .powerMode _ => s

/-- The resume that waited for a POWER_MODE job starts (R16). -/
def startWaitingResume (p : PortId) (s : State) : State :=
  match (s.port p).resumeWait with
  | some f => startResume p f s
  | none => s

/-- A job ends (R37): it leaves the queue, its result is handed on, the freed entry is served, and the end is an event for
PAUSING, for a waiting resume and, after a POLL, for R38. R37, R39 and R163 do not order the test of R38 and the serving of the
freed entry: the entry is served first (DESIGN CHOICE, log 45). -/
def jobEnd (p : PortId) (j : Job) (result : State → State) (s : State) : State :=
  let s := result (s.modPort p (fun c => { c with queue := c.queue.tail }))
  let s := s.modPort p Port.serveRoom
  let s := if j.holdsPause then pausingEvent p s else s
  let s := if j.isPowerMode && j.started then startWaitingResume p s else s
  if j.isPoll then s.modPort p Port.testPoll else s

/-- The lane takes an exchange. -/
def setLane (p : PortId) (e : Option Exchange) (s : State) : State := s.modPort p ({ · with lane := e })

/-- The wake-phase exchange a camera owes (R32). -/
def Power.owed? : Power → Option WakeEx
  | .waking w => w.owed
  | _ => none

/-- The owed wake-phase exchange is taken by the lane. -/
def clearOwed (p : PortId) (s : State) : State :=
  match (s.port p).power with
  | .waking w => s.modPort p ({ · with power := .waking { w with owed := none } })
  | _ => s

/-- The job at the head of the queue is in flight. -/
def markStarted (p : PortId) (s : State) : State :=
  s.modPort p (fun c => match c.queue with
    | j :: js => { c with queue := { j with started := true } :: js }
    | [] => c)

/-- The choice of R32 for an idle lane; jobs that end at their start check give way to the next, so the choice is repeated
at most as often as there are jobs. -/
def chooseNext (p : PortId) : Nat → State → State
  | 0, s => s
  | n + 1, s =>
    let c := s.port p
    if c.lane.isSome || c.power.isVacant then s
    else match c.power.owed? with
      | some e => setLane p (some (e.exchange s.clock)) (clearOwed p s)
      | none => match c.queue with
        | [] => s
        | j :: _ =>
          if j.started then
            if j.cut then chooseNext p n (jobEnd p j id s) else setLane p (j.exchange c s.clock) s
          else if j.mayStart c then setLane p (j.exchange c s.clock) (markStarted p s)
          else chooseNext p n (jobEnd p j (startCheckFailed p j) s)

/-- The lane of a port chooses what it carries next (R32). -/
def kick (p : PortId) (s : State) : State :=
  chooseNext p ((s.port p).queue.length + (s.port p).waitLine.length + 16) s

/-- Every lane chooses (R32). -/
def kickAll (s : State) : State := forEach allPorts kick s

/-! ## Wake-phase exchanges -/

/-- The phase, and the wake-phase exchange owed, of a camera in WAKING. -/
def setPhase (p : PortId) (ph : Phase) (owed : Option WakeEx) (s : State) : State :=
  match (s.port p).power with
  | .waking w => s.modPort p ({ · with power := .waking { w with phase := ph, owed := owed } })
  | _ => s

/-- The camera passes to CALIBRATE: the calibration write is owed (R13). -/
def beginCalibrate (p : PortId) (s : State) : State := setPhase p (.calibrate none) (some .calWrite) s

/-- The init maximum of a port's working profile, in slots (R12). -/
def Port.initMax (c : Port) : Nat := match c.profile with
  | some f => f.initMax
  | none => 10

/-- The camera passes to INIT_WAIT; the read marks and the init maximum count from the release of reset-out (R12). -/
def beginInitWait (p : PortId) (release : Nat) (s : State) : State :=
  setPhase p (.initWait (addSlot release 5) (addSlot release (s.port p).initMax)) none s

/-- The camera passes to RESTORE: the first pair of the shadow is owed, and an empty shadow ends the wake (R14). -/
def beginRestore (p : PortId) (s : State) : State :=
  match s.shadowOf p with
  | [] => wakeDone p s
  | pr :: rest => setPhase p (.restore (pr :: rest)) (some (.restoreWrite pr)) s

/-- A resume read did not show the ready bit: up to three further reads at the next slot boundaries, then WAKE_FAILED
(R16). -/
def resumeNotReady (p : PortId) (further : Nat) (s : State) : State :=
  if further < 3 then setPhase p (.resume (some (s.slotAt 1 * 10)) (further + 1)) none s
  else enterFault p .wakeFailed s

/-- A wake-phase exchange succeeded (R11–R14, R16). -/
def wakeSuccess (p : PortId) (e : WakeEx) (data : Byte) (s : State) : State :=
  match (s.port p).power with
  | .waking w =>
    match e, w.phase with
    | .resetWrite, .resetHold endSlot true _ => beginInitWait p endSlot s
    | .resetWrite, .resetHold endSlot false _ => setPhase p (.resetHold endSlot false true) w.owed s
    | .initRead, .initWait _ _ => if readyBit data then beginCalibrate p s else s
    | .calWrite, .calibrate _ => setPhase p (.calibrate (some (s.slotAt 3))) none s
    | .restoreWrite _, .restore (_ :: pr :: rest) => setPhase p (.restore (pr :: rest)) (some (.restoreWrite pr)) s
    | .restoreWrite _, .restore _ => wakeDone p s
    | .resumeRead, .resume _ further => if readyBit data then wakeDone p s else resumeNotReady p further s
    | _, _ => s
  | _ => s

/-- A wake-phase exchange failed after its retry (R12, R15, R16). A camera faulted by the same exchange is no longer
WAKING. -/
def wakeFailure (p : PortId) (e : WakeEx) (s : State) : State :=
  match (s.port p).power with
  | .waking w =>
    match e, w.phase with
    | .resetWrite, .resetHold _ _ _ => enterFault p .wakeFailed s
    | .calWrite, .calibrate _ => enterFault p .wakeFailed s
    | .restoreWrite _, .restore _ => enterFault p .wakeFailed s
    | .resumeRead, .resume _ further => resumeNotReady p further s
    | _, _ => s
  | _ => s

/-! ## Results of job exchanges -/

/-- The pair replaces the one of its number in a shadow, or is added, in ascending number (R48, R55). -/
def updateShadow (pr : Pair) : List Pair → List Pair
  | [] => [pr]
  | q :: qs =>
    if pr.attr = q.attr then pr :: qs else if pr.attr < q.attr then pr :: q :: qs else q :: updateShadow pr qs

/-- A write through the part ended (R48): the advance entry is invalidated and, on success, the shadow of the bound entry
is updated. -/
def writeThrough (p : PortId) (pr : Pair) (ok : Bool) (s : State) : State :=
  let s := dropEntry p pr.attr s
  if ok then
    match s.boundPos p with
    | some k => s.setEntry k ((s.entryAt k).map (fun e => { e with shadow := updateShadow pr e.shadow }))
    | none => s
  else s

/-- The advance table takes a write's result (R136, R141): an entry, VALID or VOID, unless the camera is in FAULT or
VACANT. The lifetime is in seconds. -/
def recordWrite (p : PortId) (pr : Pair) (ok : Bool) (lifetime : Nat) (s : State) : State :=
  if (s.port p).power.isLost then s else appendEntry p pr ok lifetime s

/-- The kind of the job in flight is replaced by what is left of it. -/
def setHead (p : PortId) (k : JobKind) (s : State) : State :=
  s.modPort p (fun c => match c.queue with
    | j :: js => { c with queue := { j with kind := k } :: js }
    | [] => c)

/-- The end of a PING starts the keep-warm timer anew while the camera is in KEEPWARM (R44); a move on to DOZE at grade 7
undoes an unstarted reservation (R112). -/
def pingEnd (p : PortId) (s : State) : State :=
  if (s.port p).power.isKeepwarm then
    let s := startKeepwarm p s
    if (s.port p).power.isKeepwarm then s else undoReservation p s
  else s

/-- A POLL succeeded (R39): the resync need is cleared; an event whose returned bit equals the port's bit is taken and the
bit inverted. -/
def pollResult (p : PortId) (status data : Byte) (s : State) : State :=
  let s := s.modPort p ({ · with resync := false })
  match EventKind.ofCode (eventCode status) with
  | some k =>
    if sequenceBit status = (s.port p).pollBit then
      takeEvent p k data (s.modPort p (fun c => { c with pollBit := !c.pollBit }))
    else s
  | none => s

/-- The result of an IDENTIFY's twelve reads is handed to the identity table (R40). -/
def identifyResult (p : PortId) (vals : List Byte) (s : State) : State :=
  identifyDone p (identAt vals 0) (profileRead vals) s

/-- The exchange of the job in flight succeeded (Table 14). -/
def jobSuccess (p : PortId) (j : Job) (status data : Byte) (s : State) : State :=
  match j.kind with
  | .hostRead t a =>
    jobEnd p j (fun s => giveAnswer t [Status.ok.code, 1#8, data] (if a = 12 then thermalRead p data s else s)) s
  | .hostWrite t _ _ => jobEnd p j (giveAnswer t [Status.ok.code]) s
  | .prepWrite cue keep pairs =>
    match pairs with
    | [] => jobEnd p j id s
    | pr :: rest =>
      let s := if keep && !j.noEntry then recordWrite p pr true 60 s else s
      if j.cut then jobEnd p j id s
      else if rest.isEmpty then jobEnd p j (prepEnd cue p true) s
      else setHead p (.prepWrite cue keep rest) s
  | .aheadWrite pairs lifetime expiry seq =>
    match pairs with
    | [] => jobEnd p j id s
    | pr :: rest =>
      let s := if j.noEntry then s else recordWrite p pr true lifetime s
      if j.cut || rest.isEmpty then jobEnd p j id s else setHead p (.aheadWrite rest lifetime expiry seq) s
  | .identify vals =>
    let vals := vals ++ [data]
    if vals.length = 12 then jobEnd p j (identifyResult p vals) s
    else if j.cut then jobEnd p j id s
    else setHead p (.identify vals) s
  | .poll => jobEnd p j (pollResult p status data) s
  | .thermalRead => jobEnd p j (thermalRead p data) s
  | .ping => jobEnd p j (fun s => pingEnd p (thermalRead p data s)) s
  | .powerMode _ => jobEnd p j id s

/-- The exchange of the job in flight failed after its retry (Table 14, R41, R49). The IDENTIFY that a failed IDENTIFY owes is
owed as the failed one's result, before the freed entry is served, which R37 and R41 do not settle: it takes that entry ahead
of the marks and the waiting line (DESIGN CHOICE, log 46). -/
def jobFailure (p : PortId) (j : Job) (s : State) : State :=
  match j.kind with
  | .hostRead t _ => jobEnd p j (giveAnswer t (readReply .timedOut)) s
  | .hostWrite t _ _ => jobEnd p j (giveAnswer t [Status.timedOut.code]) s
  | .prepWrite cue keep pairs =>
    match pairs with
    | [] => jobEnd p j id s
    | pr :: _ =>
      let s := if keep && !j.noEntry then recordWrite p pr false 60 s else s
      jobEnd p j (if j.cut then id else prepEnd cue p false) s
  | .aheadWrite pairs lifetime expiry seq =>
    match pairs with
    | [] => jobEnd p j id s
    | pr :: rest =>
      let s := if j.noEntry then s else recordWrite p pr false lifetime s
      if j.cut || rest.isEmpty then jobEnd p j id s else setHead p (.aheadWrite rest lifetime expiry seq) s
  | .identify _ =>
    jobEnd p j (fun s => if (s.port p).power.isLost then s else s.modPort p Port.oweIdentify) s
  | .poll => jobEnd p j id s
  | .thermalRead => jobEnd p j id s
  | .ping => jobEnd p j (pingEnd p) s
  | .powerMode t => jobEnd p j (powerModeFailed p t) s

/-! ## Exchanges -/

/-- The write through the part that an exchange made, if it is one (R48). -/
def Exchange.throughPart (e : Exchange) : Bool := e.op == .write && isCapture e.attr

/-- The job in flight takes a result. -/
def withHead (p : PortId) (f : Job → State → State) (s : State) : State :=
  match (s.port p).queue with
  | j :: _ => if j.started then f j s else s
  | [] => s

/-- The failed-exchange run after a success: 0, but a run of 3 stays in FAULT (R7, R31, log 12). -/
def Port.runCleared (c : Port) : Port :=
  if c.power.isFault && c.run == 3 then c else { c with run := 0 }

/-- An exchange succeeded (R31): the run is cleared and the response is handed to its maker. -/
def exchangeSuccess (p : PortId) (e : Exchange) (status data : Byte) (s : State) : State :=
  let s := setLane p none s
  match e.src with
  | .discarded => s
  | .wake w =>
    let s := s.modPort p Port.runCleared
    let s := if e.throughPart then writeThrough p ⟨e.attr, e.data⟩ true s else s
    wakeSuccess p w data s
  | .job =>
    let s := s.modPort p Port.runCleared
    let s := if e.throughPart then writeThrough p ⟨e.attr, e.data⟩ true s else s
    withHead p (fun j => jobSuccess p j status data) s

/-- What a failed exchange does before its failure is handed on (R31, R7, R42): the run rises, the grade and the reading
become VOID, and a run of 3 faults the camera. The exchange that turns the grade VOID owes a THERMAL_READ even when it is
itself a THERMAL_READ's (DESIGN CHOICE, log 38: R42 and R43 say different things of it). -/
def countFailure (p : PortId) (s : State) : State :=
  let void := (s.port p).grade.isNone
  let s := s.modPort p (fun c => { c with
    run := min 3 (c.run + 1), grade := none, reading := if c.power.railOn then none else c.reading })
  let s := if void then s else setGradeChanged p s
  let s := if (s.port p).run = 3 && !(s.port p).power.isLost then enterFault p .laneLost s else s
  if void || (s.port p).power.isLost then s else s.modPort p Port.oweThermal

/-- An exchange failed after its retry (R31). The write through of a failed write is taken whatever becomes of the camera
(R48). -/
def exchangeFailure (p : PortId) (e : Exchange) (s : State) : State :=
  match e.src with
  | .discarded => setLane p none s
  | .wake w =>
    let s := setLane p none (countFailure p s)
    let s := if e.throughPart then writeThrough p ⟨e.attr, e.data⟩ false s else s
    wakeFailure p w s
  | .job =>
    let s := setLane p none (countFailure p s)
    let s := if e.throughPart then writeThrough p ⟨e.attr, e.data⟩ false s else s
    withHead p (fun j => jobFailure p j) s

/-- An attempt failed: the first is repeated at once with the same frame, the retry fails the exchange (R31). -/
def attemptFailed (p : PortId) (e : Exchange) (s : State) : State :=
  if e.retry then exchangeFailure p e s
  else setLane p (some { e with retry := true, started := s.clock }) s

end Sys2Proof.Machine
end

