-- ==== Sys2Proof/Machine/Cues.lean ====
section
/-! DEFINITION. The cue list and the fire unit: posting order and ids (R88, R90), planning (R91), preparation (R93, R95),
fire requests and grants (R147–R151), the sequence (R152–R156), missed cues (R98), cancelling (R102) and SETTLE (R105). -/

namespace Sys2Proof.Machine

/-! ## The list -/

/-- A new cue is inserted after every cue whose time has passed and every cue ahead with a smaller or equal difference
(R88). -/
def insertCue (now : Nat) (c : Cue) : List Cue → List Cue
  | [] => [c]
  | d :: ds =>
    if 2000000000 ≤ diffMs d.time now ∨ diffMs d.time now ≤ diffMs c.time now then d :: insertCue now c ds
    else c :: d :: ds

/-- The ids after the last one given, counting 1 to 255 and then 1 again (R90). -/
def idsAfter (last : Nat) : List Nat := (List.range 255).map (fun n => (last + n) % 255 + 1)

/-- The first id after the last one given that no cue in the list holds (R90). -/
def State.nextId (s : State) : Nat :=
  ((idsAfter s.lastCue).find? (fun i => !(s.cues.any (fun c => c.id == i)))).getD 1

/-- A cue changes its state. -/
def setCueState (id : Nat) (v : CueState) (s : State) : State := modCue id ({ · with state := v }) s

/-- The member ports of a cue, in ascending order. -/
def Cue.ports (c : Cue) : List PortId := c.members.map (·.port)

/-! ## Preparation -/

/-- The preparation start (R93): READY members get their check and job; an empty profile is COMPLETE at once. -/
def startPreparation (id : Nat) (s : State) : State :=
  match s.cue? id with
  | some c =>
    let s := setCueState id .preparing s
    if c.profile.isEmpty then
      modCue id (fun c => { c with members := c.members.map ({ · with prep := .complete }) }) s
    else
      forEach c.ports (fun p s => if (s.port p).power.isReady then prepareMember c p s else s) s
  | none => s

/-- A cue is planned and enters PLANNED; its preparation starts at once when its start slot has begun (R91). -/
def planAndEnter (id : Nat) (s : State) : State :=
  let s := setCueState id .planned (planCue id s)
  match s.cue? id with
  | some c => if s.slotReached (s.prepSlot c) then startPreparation id s else s
  | none => s

/-- The PREP_WRITEs of a cue on a port are removed, and one in flight makes no further write; each end is an event for
PAUSING (R95, R102). -/
def endPreps (id : Nat) (p : PortId) (s : State) : State :=
  let had := (s.port p).queue.any (Job.isPrepOf id)
  let s := s.modPort p (fun c => (c.removeJobs (Job.isPrepOf id)).cutFlight (Job.isPrepOf id) false)
  if had then pausingEvent p s else s

/-! ## The fire unit -/

/-- A request is eligible: the unit is free, and unlocked or locked to its station (R148). -/
def State.eligible (s : State) (r : FireReq) : Bool :=
  s.owner.isNone && (match s.lock with
    | some l => l.station == r.station
    | none => true)

/-- A request comes before another: its cue time is earlier, or equal with the lower station number (R148). -/
def State.before (s : State) (a b : FireReq) : Bool :=
  decide (s.timeOffset a.time < s.timeOffset b.time) ||
    (decide (s.timeOffset a.time = s.timeOffset b.time) && decide (a.station < b.station))

/-- The first of some requests by R148. -/
def State.firstReq (s : State) : List FireReq → Option FireReq
  | [] => none
  | r :: rs => match s.firstReq rs with
    | some q => if s.before q r then some q else some r
    | none => some r

/-- The camera of a member is armed at the grant: READY, prepared, not media-full (R152). -/
def State.arms (s : State) (m : Member) : Bool :=
  (s.port m.port).power.isReady && m.prep == .complete && !(s.port m.port).mediaFull

/-- The outcome of a disposition that explains a camera that is not READY (R97, R98). -/
def Disp.outcome? : Disp → Option CamOutcome
  | .parked => some .parked
  | .thermal => some .thermal
  | .shed => some .shed
  | .covered => none
  | .placed => none
  | .latePredicted => none
  | .fault => none
  | .vacant => none

/-- The outcome of a member that is not armed (R97). -/
def unarmedOutcome (c : Port) (m : Member) : CamOutcome :=
  if c.power.isVacant then .vacant
  else if c.power.isFault then .fault
  else if c.power.isReady then
    match m.prep with
    | .failed => .prepFailed
    | .late => .prepLate
    | .notStarted => .prepLate
    | .writing => if c.mediaFull then .mediaFull else .notReady
    | .complete => if c.mediaFull then .mediaFull else .notReady
  else (m.disp.bind Disp.outcome?).getD .notReady

/-- The outcome of a member of a MISSED cue (R98). -/
def missedOutcome (c : Port) (m : Member) : CamOutcome :=
  if c.power.isVacant then .vacant
  else if c.power.isFault then .fault
  else (m.disp.bind Disp.outcome?).getD .notReady

/-- A request is granted (R149): owner and instants, arming (R152), the cue's record of it (R96, R97), and the loss of need
of its reservations (R124). -/
def grantReq (r : FireReq) (s : State) : State :=
  match s.cue? r.cue with
  | some c =>
    let st := s.station r.station
    let armed := (c.members.filter s.arms).map (·.port)
    let grant : Grant := ⟨s.clock, diffMs s.clock r.reqTime, addMs s.clock st.focusLead⟩
    let members := c.members.map (fun m =>
      if s.arms m then m else { m with outcome := some (unarmedOutcome (s.port m.port) m) })
    let s := { s with
      waiting := s.waiting.filter (fun q => q.cue != r.cue)
      lock := none
      owner := some ⟨r.cue, r.station, s.clock, st.focusLead, st.strobe, st.press, st.lockOn, st.lockTimeout, false, false,
        false⟩ }
    let s := forEach armed (fun p => setPower p (.armed none false)) s
    let s := modCue r.cue (fun c => { c with
      state := .firing, grant := some grant, confirm := armed, members := members }) s
    lossOfNeed r.cue s
  | none => { s with waiting := s.waiting.filter (fun q => q.cue != r.cue) }

/-- The grant rule (R148): the first eligible waiting request is granted. -/
def grantRule (s : State) : State :=
  match s.firstReq (s.waiting.filter s.eligible) with
  | some r => grantReq r s
  | none => s

/-- The arrival of a fire request (R147). -/
def requestArrives (r : FireReq) (s : State) : State :=
  if s.eligible r then grantReq r s else { s with waiting := s.waiting ++ [r] }

/-- The fire request of a cue (Table 53). -/
def State.fireReq (s : State) (c : Cue) : FireReq :=
  let t := s.fireReqTime c
  ⟨c.id, c.station, c.time, t, addMs t (s.cueStation c).slack⟩

/-- The fire request time (R95): the preparation closes, and the request is handed to the fire unit. -/
def closePreparation (id : Nat) (s : State) : State :=
  let late (m : Member) : Member :=
    match m.prep with
    | .writing => { m with prep := .late }
    | .notStarted => { m with prep := .late }
    | .complete => m
    | .late => m
    | .failed => m
  let s := modCue id (fun c => { c with state := .fireWait, members := c.members.map late }) s
  match s.cue? id with
  | some c => requestArrives (s.fireReq c) (forEach c.ports (endPreps id) s)
  | none => s

/-- A cue is MISSED (R98, R150): its members take their outcomes, their rest timers start (R77), its reservations lose their
need (R124), and its report is handed on (R101). -/
def missCue (id : Nat) (s : State) : State :=
  let s := { s with waiting := s.waiting.filter (fun q => q.cue != id) }
  match s.cue? id with
  | some c =>
    let members := c.members.map (fun m => { m with outcome := some (missedOutcome (s.port m.port) m) })
    let s := modCue id (fun c => { c with state := .done, members := members }) s
    finishCue id (lossOfNeed id (forEach c.ports (restAfter id) s))
  | none => s

/-- The member ports of the owner's cue. -/
def State.ownerPorts (s : State) (o : Owner) : List PortId :=
  match s.cue? o.cue with
  | some c => c.ports
  | none => []

/-- The full-press line of an ARMED camera is asserted (R153). -/
def pressPort (p : PortId) (s : State) : State :=
  match (s.port p).power with
  | .armed ps _ => s.modPort p ({ · with power := .armed ps true })
  | _ => s

/-- The release instants of a sequence: full press, sync, release and freeing (Table 54). -/
def Owner.pressAt (o : Owner) : Nat := addMs o.t0 o.focus
def Owner.syncAt (o : Owner) : Nat := addMs o.t0 (o.focus + o.strobe)
def Owner.releaseAt (o : Owner) : Nat := addMs o.t0 (o.focus + o.press)
def Owner.freeAt (o : Owner) : Nat := addMs o.t0 (o.focus + o.press + 20)

/-- The release of a sequence (R155, R99): the ARMED members return to READY, the cue enters CONFIRMING, the rest timers of
the READY members start and the cue's rest holds end; a cue with nothing to confirm is then DONE (R100). -/
def releaseSequence (o : Owner) (s : State) : State :=
  let ports := s.ownerPorts o
  let s := { s with owner := some { o with released := true } }
  let s := forEach ports (fun p s => if (s.port p).power.isArmed then enterReady p false s else s) s
  let s := modCue o.cue (fun c => { c with
    state := .confirming, timer := some (addMs s.clock (s.station o.station).confirm) }) s
  let s := forEach ports (fun p s => startRest p (dropHold o.cue p s)) s
  confirmEnd o.cue s

/-- The freeing of the unit (R156): the owner is removed, the lock is set where the station had it ON at the grant, with the
lock timeout taken then (R71, R158), and the grant rule is applied. -/
def freeUnit (o : Owner) (s : State) : State :=
  let lock : Option Lock := if o.lockOn then some ⟨o.station, addMs s.clock (o.lockTimeout * 1000)⟩ else none
  grantRule { s with owner := none, lock := lock }

/-- The confirm timer of a cue expires (R100). -/
def confirmExpired (id : Nat) (s : State) : State :=
  finishCue id (modCue id (fun c => { c with members := c.members.map (fun m =>
    if c.confirm.contains m.port then { m with outcome := some .noConfirm } else m) }) s)

/-- A cue is cancelled (R102): it leaves the list, its request is withdrawn (R151), its preparation jobs go, its
reservations lose their need, its members' rest holds for it are removed and their rest timers start (R77). R102 does not order
these; the next waiting request is granted first (DESIGN CHOICE, log 53). -/
def cancelCue (c : Cue) (s : State) : State :=
  let s := removeCue c.id s
  let s := if c.state = .fireWait then grantRule { s with waiting := s.waiting.filter (fun q => q.cue != c.id) } else s
  let s := forEach c.ports (endPreps c.id) s
  forEach c.ports (fun p s => restAfter c.id p (dropHold c.id p s)) (lossOfNeed c.id s)

/-! ## SETTLE (R105) and the end of a step -/

/-- The settle condition of one member port (R105). A job that an entry to VACANT has abandoned counts as in flight no longer,
though its exchange may still run out (DESIGN CHOICE, log 51). -/
def Port.settled (c : Port) : Bool :=
  c.queue.isEmpty && c.waitLine.isEmpty && !c.markPoll && !c.markThermal && !c.markPing && !c.power.isWaking &&
    !c.power.isPausing

/-- The settle condition of a station (R105). -/
def State.settled (s : State) (st : StationId) : Bool := (s.membersOf st).all (fun p => (s.port p).settled)

/-- A settle reply body: status and the timeout used (R104). -/
def settleBody (st : Status) (timeout : Nat) : List Byte := st.code :: le16 timeout

/-- The pending SETTLE of a station. -/
def State.settleReq (s : State) (st : StationId) : Option SettleReq := s.settles[st]

/-- The pending SETTLE of a station ends with a reply (R182). -/
def endSettle (st : StationId) (r : SettleReq) (code : Status) (s : State) : State :=
  { s with settles := s.settles.set st.val none st.isLt
           settleReady := s.settleReady ++ [⟨r.tag, settleBody code r.timeout⟩] }

/-- A pending SETTLE is tested (R105). -/
def testSettle (st : StationId) (s : State) : State :=
  match s.settleReq st with
  | some r => if s.settled st then endSettle st r (okOr r.clamped) s else s
  | none => s

/-- The end of a step that reaches ports: every lane chooses what it carries next (R32) and every pending SETTLE is tested
(R105) (log 10). -/
def finish (s : State) : State := forEach allStations testSettle (kickAll s)

end Sys2Proof.Machine
end

