-- ==== Sys2Proof/Machine/CameraRequests.lean ====
section
/-! DEFINITION. The requests of the port controllers: CAMERA_GET (R2), CLEAR_FAULT (R9), WAKE (R25), PAUSE (R19), ATTR_GET
(R46), ATTR_SET (R47). Each takes the request's tag and body, after the framing and length checks of the link. -/

namespace Sys2Proof.Machine

/-- A request is refused with its status alone (R179, R184). -/
def refuse (k : ReqKind) (tag : Byte) (st : Status) (s : State) : State := answer k tag st [] s

/-- The grade changed flag is cleared and the change notes removed (R2). -/
def clearNotes (p : PortId) (s : State) : State :=
  s.modPort p ({ · with gradeChanged := false, noteAbandoned := false, noteConflict := false })

/-- CAMERA_GET (R2). -/
def serveCameraGet (tag : Byte) (b : List Byte) (s : State) : State :=
  match portOf? (u8 b 0) with
  | none => refuse .cameraGet tag .badArg s
  | some p => clearNotes p (answer .cameraGet tag .ok (cameraBytes p s) s)

/-- An IDENTIFY is owed at CLEAR_FAULT when the camera has no working profile or its rescan note is set; the note is cleared
(R9, R164). -/
def oweAfterFault (p : PortId) (s : State) : State :=
  if (s.port p).profile.isNone || (s.port p).rescan then
    s.modPort p (fun c => { c with rescan := false }.oweIdentify)
  else s

/-- A camera leaves FAULT by CLEAR_FAULT (R9): to DEEP when the port is enabled and its presence input high, and to VACANT
otherwise; in DEEP it is replanned (R123). -/
def leaveFault (p : PortId) (s : State) : State :=
  let s := s.modPort p ({ · with run := 0 })
  if (s.port p).enabled && (s.port p).presence then oweAfterFault p (replan p (enterDeep p s))
  else enterVacant p s

/-- CLEAR_FAULT (R9). -/
def serveClearFault (tag : Byte) (b : List Byte) (s : State) : State :=
  match portOf? (u8 b 0) with
  | none => refuse .clearFault tag .badArg s
  | some p =>
    if (s.port p).power.isFault then finish (answer .clearFault tag .ok [] (leaveFault p s))
    else refuse .clearFault tag .badState s

/-- The pending pause target of a camera in WAKING or ARMED is removed (R25). -/
def dropPending (p : PortId) (s : State) : State :=
  match (s.port p).power with
  | .waking w => s.modPort p ({ · with power := .waking { w with pending := none } })
  | .armed _ pressed => s.modPort p ({ · with power := .armed none pressed })
  | _ => s

/-- The commitment figure of an unstarted reservation, left out of the admission test of a WAKE (R25). -/
def Port.unstartedFigure (c : Port) : Nat := if c.unstarted then c.commitment.getD 0 else 0

/-- An ASAP placement after its admission has passed (R122): an unstarted reservation is released first. -/
def admitAndPlace (p : PortId) (s : State) : State := placeAsap p (commit p (releaseUnstarted p s))

/-- WAKE of a camera in DOZE, KEEPWARM or DEEP (R25). A camera of grade 7, or without a profile, that still holds a started
reservation is refused: R25 refuses the one and answers OK for the other, and the grade and the profile are tested first
(DESIGN CHOICE, log 52). -/
def wakePaused (p : PortId) (s : State) : Status × State :=
  let c := s.port p
  if c.grade = some 7 then (.badState, s)
  else if c.profile.isNone then (.badState, s)
  else if c.startedResv then (.ok, setHostPause p false s)
  else if s.admits p c.unstartedFigure then (.ok, admitAndPlace p (setHostPause p false s))
  else (.overBudget, s)

/-- WAKE by the camera's state (R25). -/
def wakeCamera (p : PortId) (s : State) : Status × State :=
  match (s.port p).power with
  | .pausing _ _ => (.ok, enterReady p true (setHostPause p false s))
  | .ready _ _ => (.ok, startRest p (setHostPause p false s))
  | .armed _ _ => (.ok, dropPending p (setHostPause p false s))
  | .waking _ => (.ok, dropPending p (setHostPause p false s))
  | .fault _ => (.badState, s)
  | .vacant => (.badState, s)
  | .doze _ => wakePaused p s
  | .keepwarm _ => wakePaused p s
  | .deep => wakePaused p s

/-- WAKE (R25). -/
def serveWake (tag : Byte) (b : List Byte) (s : State) : State :=
  match portOf? (u8 b 0) with
  | none => refuse .wake tag .badArg s
  | some p =>
    let r := wakeCamera p s
    if r.1 = .ok then finish (answer .wake tag .ok [] r.2) else refuse .wake tag r.1 s

/-- The states in which a PAUSE of a target is taken (R19). -/
def Power.admitsPause (w : Power) (t : Target) : Bool :=
  match w with
  | .ready _ _ => true
  | .waking _ => true
  | .armed _ _ => true
  | .pausing _ _ => true
  | .doze _ => t != .keepwarm
  | .keepwarm _ => true
  | .deep => t == .deep
  | .fault _ => false
  | .vacant => false

/-- A taken PAUSE (R19): the flag is set, an unstarted reservation is released, the cues' entries become PARKED (R125), and
the pause is taken. -/
def pauseCamera (p : PortId) (t : Target) (s : State) : State :=
  takePause p ⟨t, .host⟩ (exclude p .parked (releaseUnstarted p (setHostPause p true s)))

/-- PAUSE (R19). -/
def servePause (tag : Byte) (b : List Byte) (s : State) : State :=
  match portOf? (u8 b 0), Target.ofCode (u8 b 1) with
  | some p, some t =>
    if (s.port p).power.admitsPause t then finish (answer .pause tag .ok [] (pauseCamera p t s))
    else refuse .pause tag .badState s
  | _, _ => refuse .pause tag .badArg s

/-- The attribute numbers ATTR_GET refuses with BAD_ARG (R46, step 1). -/
def badReadAttr (a : Nat) : Bool := decide (63 < a) || decide (25 ≤ a ∧ a ≤ 31)

/-- The write-only numbers, answered VOID without an exchange (R46, step 2). -/
def writeOnlyAttr (a : Nat) : Bool := decide (13 ≤ a ∧ a ≤ 15)

/-- The attribute numbers ATTR_SET refuses with BAD_ARG (R47, step 1). -/
def badWriteAttr (a : Nat) : Bool :=
  decide (63 < a) || decide (24 ≤ a ∧ a ≤ 31) || decide (a ≤ 12) || a == 14 || a == 15

/-- A host job is enqueued and its request waits in the reply line (R46, R47, R180). -/
def enqueueHost (k : ReqKind) (tag : Byte) (p : PortId) (job : Nat → JobKind) (s : State) : State :=
  (awaitAnswer k tag s).modPort p (pushJob (job s.tickets))

/-- ATTR_GET (R46). -/
def serveAttrGet (tag : Byte) (b : List Byte) (s : State) : State :=
  let a := u8 b 1
  match portOf? (u8 b 0) with
  | none => refuse .attrGet tag .badArg s
  | some p =>
    if badReadAttr a then refuse .attrGet tag .badArg s
    else if writeOnlyAttr a then answer .attrGet tag .ok [0#8, 0#8] s
    else if !(s.port p).power.admitsRead a then refuse .attrGet tag .badState s
    else if !(s.port p).hasRoom then refuse .attrGet tag .busy s
    else finish (enqueueHost .attrGet tag p (fun t => .hostRead t a) s)

/-- ATTR_SET (R47). -/
def serveAttrSet (tag : Byte) (b : List Byte) (s : State) : State :=
  let a := u8 b 1
  match portOf? (u8 b 0) with
  | none => refuse .attrSet tag .badArg s
  | some p =>
    if badWriteAttr a then refuse .attrSet tag .badArg s
    else if !(s.port p).power.admitsWrite a then refuse .attrSet tag .badState s
    else if !(s.port p).hasRoom then refuse .attrSet tag .busy s
    else finish (enqueueHost .attrSet tag p (fun t => .hostWrite t a (b.getD 2 0#8)) s)

end Sys2Proof.Machine
end

