-- ==== Sys2Proof/Machine/StationRequests.lean ====
section
/-! DEFINITION. The requests of the station store: STATION_SET (R69–R71), STATION_GET (R72, R73), BUDGET_SET (R80–R82),
PORT_SET (R79). -/

namespace Sys2Proof.Machine

/-- A set of ports carried as a number names a port above 23 (R191). -/
def badPortSet (n : Nat) : Bool := decide (16777216 ≤ n)

/-- The fields of a station are replaced. -/
def setStation (st : StationId) (f : Station) (s : State) : State :=
  { s with stations := s.stations.set st.val f st.isLt }

/-- A port joins a station; the rest timer of a READY camera starts (R70). -/
def joinStation (st : StationId) (p : PortId) (s : State) : State :=
  startRest p (s.modPort p ({ · with station := some st }))

/-- A port leaves its station, with its rest timer and rest hold (R70). -/
def leaveStation (p : PortId) (s : State) : State :=
  s.modPort p (fun c => { c with
    station := none
    power := match c.power with
      | .ready _ _ => .ready none none
      | w => w })

/-- The membership of one port follows the new port set (R70). -/
def changeMembership (st : StationId) (ports : List PortId) (p : PortId) (s : State) : State :=
  if ports.contains p then
    if (s.port p).station = some st then s else joinStation st p s
  else if (s.port p).station = some st then leaveStation p s
  else s

/-- A port of a new port set belongs to another station (R69, step 3). -/
def State.clashes (s : State) (st : StationId) (ports : List PortId) : Bool :=
  ports.any (fun p => (s.port p).station.isSome && (s.port p).station != some st)

/-- STATION_SET (R69–R71). -/
def serveStationSet (tag : Byte) (b : List Byte) (s : State) : State :=
  match stationOf? (u8 b 0), stationFields? b with
  | some st, some (set, f) =>
    let ports := portsOf set
    if badPortSet set then refuse .stationSet tag .badArg s
    else if !(s.openCues st).isEmpty then refuse .stationSet tag .badState s
    else if s.clashes st ports then refuse .stationSet tag .conflict s
    else
      let s := forEach allPorts (changeMembership st ports) (setStation st f.clamped s)
      finish (answer .stationSet tag (okOr (f.clamped != f)) (stationBytes st s) s)
  | _, _ => refuse .stationSet tag .badArg s

/-- STATION_GET (R72, R73). -/
def serveStationGet (tag : Byte) (b : List Byte) (s : State) : State :=
  match stationOf? (u8 b 0) with
  | some st => answer .stationGet tag .ok (stationGetBytes st s) s
  | none => refuse .stationGet tag .badArg s

/-- A value rounded up to a multiple of 100 mA (R81). -/
def roundUp100 (n : Nat) : Nat := ceilDiv n 100 * 100

/-- A budget as stored: rounded down, clamped to its range, raised to what is committed (R80, R81). -/
def storedBudget (lo hi given floor_ : Nat) : Nat :=
  let v := clamp lo hi (given / 100 * 100)
  if v < floor_ then roundUp100 floor_ else v

/-- A stored profile is clamped to a new inrush budget; its clamped flag is set when a figure is reduced (R65, R82). -/
def StoredProfile.clampTo (budget : Nat) (f : StoredProfile) : StoredProfile :=
  { f with figures := f.figures.clampInrush budget, clamped := f.clamped || f.figures.overBudget budget }

/-- An identity entry's profile is clamped to a new inrush budget (R82). -/
def IdEntry.clampTo (budget : Nat) (e : IdEntry) : IdEntry :=
  { e with profile := e.profile.map (StoredProfile.clampTo budget) }

/-- A working profile is clamped to a new inrush budget (R82). -/
def Port.clampTo (budget : Nat) (c : Port) : Port :=
  { c with profile := c.profile.map (Profile.clampInrush budget) }

/-- Every profile of the table and every working profile is clamped to the inrush budget (R82). -/
def clampProfiles (s : State) : State :=
  { s with
    table := s.table.map (Option.map (IdEntry.clampTo s.inrush))
    ports := s.ports.map (Port.clampTo s.inrush) }

/-- BUDGET_SET (R80–R82). -/
def serveBudgetSet (tag : Byte) (b : List Byte) (s : State) : State :=
  let steady := storedBudget 1000 40000 (u16 b 0) s.committed
  let inrush := storedBudget 500 10000 (u16 b 2) s.highestOccupancy
  let clamped := decide (steady ≠ u16 b 0) || decide (inrush ≠ u16 b 2)
  let s := clampProfiles { s with steady := steady, inrush := inrush }
  answer .budgetSet tag (okOr clamped)
    (le16 steady ++ le16 inrush ++ le16 s.committed ++ le16 s.highestOccupancy) s

/-- The enable state of a port is set; a change is taken as a presence event (R79). -/
def setEnabled (p : PortId) (en : Bool) (s : State) : State :=
  if (s.port p).enabled = en then s
  else
    let s := s.modPort p ({ · with enabled := en })
    if en then (if (s.port p).presence then presenceRise p s else s) else presenceFall p s

/-- The PORT_SET reply after its status (R79, R192). -/
def portSetBytesOf (p : PortId) (s : State) : List Byte :=
  le16 (s.port p).railLimit ++ [toByte (enableCode (s.port p).enabled)] ++ readingBytes (s.port p).reading

/-- PORT_SET (R79). -/
def servePortSet (tag : Byte) (b : List Byte) (s : State) : State :=
  match portOf? (u8 b 0), twoCode (u8 b 3) with
  | some p, some disabled =>
    let limit := clamp 500 4000 (u16 b 1)
    let s := setEnabled p (!disabled) (s.modPort p ({ · with railLimit := limit }))
    finish (answer .portSet tag (okOr (limit != u16 b 1)) (portSetBytesOf p s) s)
  | _, _ => refuse .portSet tag .badArg s

end Sys2Proof.Machine
end

