-- ==== Sys2Proof/Machine/CueRequests.lean ====
section
/-! DEFINITION. The requests of the cue list, the advance table and the fire unit: CUE_POST (R89, R90), CUE_CANCEL (R102),
CUE_LIST (R103), SETTLE (R104), AHEAD_WAKE (R132, R133), AHEAD_DROP (R137), FIRE_UNLOCK (R159). -/

namespace Sys2Proof.Machine

/-- The minimum lead of a station in ms (Section 5.2). -/
def Station.minLead (f : Station) : Nat := f.focusLead + f.prepTime * 10 + 10

/-- The checks of R89 that concern the body alone. -/
def postArgsOk (n time : Nat) (pairs : List Pair) : Bool :=
  decide (n ≤ 8) && captureAttrs pairs && distinctAttrs pairs && decide (time < Config.clockMod)

/-- The record a taken CUE_POST creates (R90). -/
def State.newCue (s : State) (st : StationId) (form : CheckForm) (time : Nat) (pairs : List Pair) : Cue where
  id := s.nextId
  station := st
  time := time
  posting := (s.postings + 1) % 4294967296
  profile := sortPairs pairs
  form := form
  state := .waiting
  members := (s.membersOf st).map (fun p => ⟨p, none, none, .notStarted, none⟩)
  grant := none
  confirm := []
  timer := none
  mark := false

/-- A taken post (R90, R91): the cue enters the list and is planned, or left WAITING. -/
def postCue (c : Cue) (s : State) : State :=
  let s := { s with cues := insertCue s.clock c s.cues, lastCue := c.id, postings := c.posting }
  if diffSlot c.slot s.nowSlot ≤ Config.horizon then planAndEnter c.id s else s

/-- The CUE_POST reply after its status (Section 11.2.1). -/
def postReply (id : Nat) (s : State) : List Byte :=
  match s.cue? id with
  | some c => [toByte c.id, toByte c.state.code, toByte c.members.length] ++ c.members.flatMap Member.bytes
  | none => []

/-- The checks of R89 from step 2 on; the status of the first that fails. -/
def State.postRefusal (s : State) (st : StationId) (time : Nat) : Option Status :=
  let d := diffMs time s.clock
  if (s.membersOf st).isEmpty then some .badState
  else if 2000000000 ≤ d ∨ d < (s.station st).minLead then some .tooLate
  else if 86400000 < d then some .badArg
  else if s.cues.any (fun c => c.station == st && c.time == time) then some .conflict
  else if Config.cueCapacity ≤ s.cues.length then some .noRoom
  else none

/-- CUE_POST (R89, R90). -/
def serveCuePost (tag : Byte) (b : List Byte) (s : State) : State :=
  let time := u32 b 2
  let pairs := pairsAt b 7 (u8 b 6)
  match stationOf? (u8 b 0), CheckForm.ofCode (u8 b 1) with
  | some st, some form =>
    if !postArgsOk (u8 b 6) time pairs then refuse .cuePost tag .badArg s
    else match s.postRefusal st time with
      | some code => refuse .cuePost tag code s
      | none =>
        let c := s.newCue st form time pairs
        let s := postCue c s
        finish (answer .cuePost tag .ok (postReply c.id s) s)
  | _, _ => refuse .cuePost tag .badArg s

/-- CUE_CANCEL (R102). -/
def serveCueCancel (tag : Byte) (b : List Byte) (s : State) : State :=
  if u8 b 0 = 0 then refuse .cueCancel tag .badArg s
  else match s.cue? (u8 b 0) with
    | none => refuse .cueCancel tag .notFound s
    | some c =>
      match c.state with
      | .waiting => finish (answer .cueCancel tag .ok [] (cancelCue c s))
      | .planned => finish (answer .cueCancel tag .ok [] (cancelCue c s))
      | .preparing => finish (answer .cueCancel tag .ok [] (cancelCue c s))
      | .fireWait => finish (answer .cueCancel tag .ok [] (cancelCue c s))
      | .firing => refuse .cueCancel tag .busy s
      | .confirming => refuse .cueCancel tag .badState s
      | .done => refuse .cueCancel tag .badState s

/-- As many whole records, from the front, as fit in some bytes (R103). -/
def fitting : Nat → List (List Byte) → List (List Byte)
  | _, [] => []
  | room, r :: rs => if r.length ≤ room then r :: fitting (room - r.length) rs else []

/-- CUE_LIST (R103). -/
def serveCueList (tag : Byte) (b : List Byte) (s : State) : State :=
  let first := u8 b 0
  if 15 < first then refuse .cueList tag .badArg s
  else
    let records := (s.cues.drop first).map Cue.bytes
    let sent := fitting 505 records
    let next := if sent.length < records.length then toByte (first + sent.length) else 0xFF#8
    answer .cueList tag .ok ([toByte s.cues.length, next] ++ sent.flatten) s

/-- SETTLE (R104): answered in its place when the condition holds at once (R182), else pending. -/
def serveSettle (tag : Byte) (b : List Byte) (s : State) : State :=
  match stationOf? (u8 b 0) with
  | none => refuse .settle tag .badArg s
  | some st =>
    let timeout := clamp 1 60000 (u16 b 1)
    let clamped := timeout != u16 b 1
    if (s.settleReq st).isSome then refuse .settle tag .busy s
    else if s.settled st then answer .settle tag (okOr clamped) (le16 timeout) s
    else { s with settles := s.settles.set st.val (some ⟨tag, timeout, clamped, addMs s.clock timeout⟩) st.isLt }

/-- The results of AHEAD_WAKE (Table 67). -/
inductive AheadResult where
  | awake | held | waking | placed | overBudget | parked | thermal | noProfile | fault | vacant
  deriving DecidableEq, Repr

def AheadResult.code : AheadResult → Nat
  | .awake => 1
  | .held => 2
  | .waking => 3
  | .placed => 4
  | .overBudget => 5
  | .parked => 6
  | .thermal => 7
  | .noProfile => 8
  | .fault => 9
  | .vacant => 10

/-- An advance order is made for a port; it replaces the one held (R134). -/
def setOrder (p : PortId) (o : Order) (s : State) : State := s.modPort p ({ · with order := some o })

/-- Rows 8 to 10 of Table 47: a paused camera (R133). A started reservation is kept until its window passes (R111), so that a
camera in DEEP which still holds one gets no second one: its order is held, and the result is WAKING (DESIGN CHOICE,
log 40). -/
def aheadPaused (p : PortId) (o : Order) (s : State) : AheadResult × State :=
  let c := s.port p
  if c.grade = some 7 then (.thermal, s)
  else if c.profile.isNone then (.noProfile, s)
  else if c.startedResv then (.waking, setOrder p o s)
  else
    let s := releaseUnstarted p s
    if s.admits p 0 then (.placed, setOrder p o (placeAsap p (commit p s)))
    else (.overBudget, replan p s)

/-- One named port of an AHEAD_WAKE (R133, Table 47). -/
def aheadOne (p : PortId) (o : Order) (s : State) : AheadResult × State :=
  let c := s.port p
  match c.power with
  | .vacant => (.vacant, s)
  | .fault _ => (.fault, s)
  | .ready _ _ => (.awake, handOver p (setOrder p o (startRest p s)))
  | .armed _ _ => (.held, setOrder p o s)
  | .waking _ => (.waking, setOrder p o s)
  | .pausing _ _ =>
    if c.hostPause then (.parked, s) else (.awake, handOver p (setOrder p o (enterReady p true s)))
  | .doze _ =>
    if c.startedResv then (.waking, setOrder p o s)
    else if c.hostPause then (.parked, s) else aheadPaused p o s
  | .keepwarm _ =>
    if c.startedResv then (.waking, setOrder p o s)
    else if c.hostPause then (.parked, s) else aheadPaused p o s
  | .deep => if c.hostPause then (.parked, s) else aheadPaused p o s

/-- The start slot of the reservation an AHEAD_WAKE placed (Table 84). -/
def placedStart (r : AheadResult) (c : Port) : Option Nat :=
  if r = .placed then c.resv.map (·.start) else none

/-- The named ports in turn, with the bytes of their results (R132, Table 84). -/
def aheadPorts (o : Order) : List PortId → State → List Byte × State
  | [], s => ([], s)
  | p :: ps, s =>
    let r := aheadOne p o s
    let entry := [toByte p.val, toByte r.1.code] ++ optTime (placedStart r.1 (r.2.port p))
    let rest := aheadPorts o ps r.2
    (entry ++ rest.1, rest.2)

/-- The ports an AHEAD_WAKE names, by its selector, or the status of its refusal (R132). -/
def State.aheadNamed (s : State) (b : List Byte) : Status ⊕ List PortId :=
  match twoCode (u8 b 0) with
  | none => .inl .badArg
  | some true => if badPortSet (u32 b 2) || (portsOf (u32 b 2)).isEmpty then .inl .badArg else .inr (portsOf (u32 b 2))
  | some false =>
    match stationOf? (u8 b 1) with
    | none => .inl .badArg
    | some st => if (s.membersOf st).isEmpty then .inl .badState else .inr (s.membersOf st)

/-- The profile of an AHEAD_WAKE is one the request admits (R132, step 1). -/
def aheadPairsOk (n : Nat) (pairs : List Pair) : Bool :=
  decide (1 ≤ n ∧ n ≤ 4) && captureAttrs pairs && distinctAttrs pairs

/-- AHEAD_WAKE (R132, R133). -/
def serveAheadWake (tag : Byte) (b : List Byte) (s : State) : State :=
  let pairs := pairsAt b 9 (u8 b 8)
  match s.aheadNamed b with
  | .inl .badArg => refuse .aheadWake tag .badArg s
  | .inl code => if aheadPairsOk (u8 b 8) pairs then refuse .aheadWake tag code s else refuse .aheadWake tag .badArg s
  | .inr ports =>
    if !aheadPairsOk (u8 b 8) pairs then refuse .aheadWake tag .badArg s
    else
      let life := clamp 1 600 (u16 b 6)
      let o : Order := ⟨sortPairs pairs, life, addMs s.clock (life * 1000), s.tickets⟩
      let r := aheadPorts o ports s
      finish (answer .aheadWake tag (okOr (life != u16 b 6)) (le16 life ++ [toByte ports.length] ++ r.1) r.2)

/-- AHEAD_DROP on one port: its order and its AHEAD_WRITE jobs (R137). -/
def dropAhead (p : PortId) (s : State) : State :=
  s.modPort p (fun c => ({ c with order := none }.removeJobs Job.isAhead).cutFlight Job.isAhead true)

/-- AHEAD_DROP (R137). -/
def serveAheadDrop (tag : Byte) (b : List Byte) (s : State) : State :=
  if badPortSet (u32 b 0) then refuse .aheadDrop tag .badArg s
  else
    let ports := portsOf (u32 b 0)
    let gone := s.adv.filter (fun e => ports.contains e.port)
    let orders := ports.filter (fun p => (s.port p).order.isSome)
    let s := { s with adv := s.adv.filter (fun e => !ports.contains e.port) }
    finish (answer .aheadDrop tag .ok
      (portSetBytes orders ++ [toByte gone.length] ++ gone.flatMap AdvEntry.bytes) (forEach ports dropAhead s))

/-- The unit is locked to a station (R159). -/
def State.lockedTo (s : State) (st : StationId) : Bool :=
  match s.lock with
  | some l => l.station == st
  | none => false

/-- FIRE_UNLOCK (R159): the reply carries the state of the unit after the request, in a BAD_STATE refusal too. -/
def serveFireUnlock (tag : Byte) (b : List Byte) (s : State) : State :=
  match stationOf? (u8 b 0) with
  | none => refuse .fireUnlock tag .badArg s
  | some st =>
    if s.lockedTo st && s.owner.isNone then
      let s := grantRule { s with lock := none }
      finish (answer .fireUnlock tag .ok (fireUnitBytes s) s)
    else answer .fireUnlock tag .badState (fireUnitBytes s) s

end Sys2Proof.Machine
end

