-- ==== Sys2Proof/Machine/TableRequests.lean ====
section
/-! DEFINITION. The requests of the identity table and the event filter: ID_LIST (R66), ID_PIN (R61), ID_UNPIN (R62),
ID_CLEAR (R63), ID_AGING (R60), TRAP_SET (R169), TRAP_GET (R170), EVENTS_FETCH (R173). -/

namespace Sys2Proof.Machine

/-- The entries at a position and above, in ascending position order. -/
def State.entriesFrom (s : State) (first : Nat) : List (Position × IdEntry) :=
  allPositions.filterMap (fun k => if first ≤ k.val then (s.entryAt k).map (fun e => (k, e)) else none)

/-- The next position the walk will visit (R66); after its last visit there is none, and the byte is free (log 36). -/
def Walk.nextByte (w : Walk) : Byte := if w.next < 32 then toByte w.next else Config.walkPast

/-- ID_LIST (R66, Table 81); the next position is that of the first entry not carried (log 18). -/
def serveIdList (tag : Byte) (b : List Byte) (s : State) : State :=
  if 31 < u8 b 0 then refuse .idList tag .badArg s
  else
    let es := s.entriesFrom (u8 b 0)
    let sent := es.take 8
    let next := match (es.drop 8).head? with
      | some e => toByte e.1.val
      | none => 0xFF#8
    let walk := match s.walk with
      | some w => [1#8, w.nextByte]
      | none => [0#8, 0xFF#8]
    answer .idList tag .ok (le16 s.aging ++ walk ++ [toByte s.entryCount] ++
      portSetBytes (allPorts.filter (fun p => (s.port p).conflict)) ++ [next, toByte sent.length] ++
      sent.flatMap (fun e => idEntryBytes s e.1 e.2)) s

/-- A bound entry that ID_PIN may not touch: its camera is awake or waking, or its port holds a reservation (R61,
step 1). -/
def State.pinBlocked (s : State) (e : IdEntry) : Bool :=
  match e.bound with
  | some p => (s.port p).power.awakeState || (s.port p).resv.isSome
  | none => false

/-- The ID_PIN reply after its status (Table 83). -/
def pinReply (f : Option StoredProfile) : List Byte :=
  [flagByte f.isSome] ++ profileBytes (f.map (·.figures))

/-- An entry as ID_PIN leaves it (R61, step 2). -/
def IdEntry.pin (e : IdEntry) (override : Option StoredProfile) : IdEntry :=
  { e with pinned := true, unbind := none, profile := match override with
    | some f => some f
    | none => e.profile }

/-- A bound port works with its entry's profile (R54). -/
def copyProfile (e : IdEntry) (s : State) : State :=
  match e.bound with
  | some p => s.modPort p ({ · with profile := e.profile.map (·.figures) })
  | none => s

/-- ID_PIN with its override decoded and tidied (R61). -/
def pinIdentity (tag : Byte) (x : Ident) (override : Option StoredProfile) (clamped : Bool) (s : State) : State :=
  match s.posOf x with
  | some k =>
    match s.entryAt k with
    | some e =>
      if s.pinBlocked e then refuse .idPin tag .badState s
      else
        let e' := e.pin override
        let s := s.setEntry k (some e')
        let s := if override.isSome then copyProfile e' s else s
        answer .idPin tag (okOr clamped) (pinReply e'.profile) s
    | none => s
  | none =>
    match s.newPos with
    | some k =>
      answer .idPin tag (okOr clamped) (pinReply override) (s.setEntry k (some ⟨x, none, true, override, [], none⟩))
    | none => refuse .idPin tag .noRoom s

/-- ID_PIN (R61). An override flag that is neither 0 nor 1 is answered BAD_ARG before the checks of R61 are made (R191; DESIGN
CHOICE, log 43: the order of the two is left open). -/
def serveIdPin (tag : Byte) (b : List Byte) (s : State) : State :=
  match flagOf? (u8 b 6) with
  | none => refuse .idPin tag .badArg s
  | some false => pinIdentity tag (identAt b 0) none false s
  | some true =>
    let given := profileAt b 7
    let f := s.storedProfile given.tidied true
    pinIdentity tag (identAt b 0) (some f) (f.figures != given) s

/-- An entry as ID_UNPIN leaves it (R62). -/
def IdEntry.unpin (now : Nat) (e : IdEntry) : IdEntry :=
  { e with
    pinned := false
    profile := e.profile.map ({ · with overridden := false })
    unbind := if e.bound.isNone then some now else none }

/-- ID_UNPIN (R62). -/
def serveIdUnpin (tag : Byte) (b : List Byte) (s : State) : State :=
  match s.posOf (identAt b 0) with
  | none => refuse .idUnpin tag .notFound s
  | some k =>
    answer .idUnpin tag .ok [] (s.setEntry k ((s.entryAt k).map (fun e => if e.pinned then e.unpin s.clock else e)))

/-- ID_CLEAR (R63). -/
def serveIdClear (tag : Byte) (_b : List Byte) (s : State) : State :=
  if s.walk.isSome then refuse .idClear tag .busy s
  else answer .idClear tag .ok [] { s with walk := some ⟨s.clock, 0⟩ }

/-- ID_AGING (R60). -/
def serveIdAging (tag : Byte) (b : List Byte) (s : State) : State :=
  let period := clamp 1 300 (u16 b 0)
  let s := removeAged { s with aging := period }
  if period = u16 b 0 then answer .idAging tag .ok [] s
  else answer .idAging tag .okClamped (le16 period) s

/-- The rule a TRAP_SET carries; none for a kind, port, flag or action that does not exist (R169, R191). -/
def trapRule? (b : List Byte) : Option TrapRule :=
  match flagOf? (u8 b 1), twoCode (u8 b 20) with
  | some en, some suppress =>
    if 512 ≤ u16 b 2 ∨ badPortSet (u32 b 4) then none
    else some ⟨en, BitVec.ofNat 9 (u16 b 2), BitVec.ofNat 24 (u32 b 4), identAt b 8, identAt b 14, !suppress⟩
  | _, _ => none

/-- The index of a trap rule. -/
def trapOf? (n : Nat) : Option (Fin 16) := if h : n < 16 then some ⟨n, h⟩ else none

/-- TRAP_SET (R169). -/
def serveTrapSet (tag : Byte) (b : List Byte) (s : State) : State :=
  match trapOf? (u8 b 0), trapRule? b with
  | some i, some r =>
    answer .trapSet tag .ok (r.bytes i.val) { s with traps := s.traps.set i.val r i.isLt }
  | _, _ => refuse .trapSet tag .badArg s

/-- TRAP_GET (R170). -/
def serveTrapGet (tag : Byte) (b : List Byte) (s : State) : State :=
  match trapOf? (u8 b 0) with
  | some i => answer .trapGet tag .ok (s.traps[i].bytes i.val) s
  | none => refuse .trapGet tag .badArg s

/-- EVENTS_FETCH (R173): the records at the head leave, the held records enter the room (R172), and the reply is formed. -/
def serveEventsFetch (tag : Byte) (b : List Byte) (s : State) : State :=
  let n := clamp 1 32 (u8 b 0)
  let sent := s.events.take n
  let s := refillEvents 24 { s with events := s.events.drop n }
  finish (answer .eventsFetch tag (okOr (n != u8 b 0))
    ([toByte s.events.length] ++ portSetBytes s.heldPorts ++ [toByte sent.length] ++ sent.flatMap EventRec.bytes) s)

end Sys2Proof.Machine
end

