-- ==== Sys2Proof/Machine/Link.lean ====
section
/-! DEFINITION. The link interface: DESCRIBE, CLOCK (R185) and RESTART (R188), taking a transfer (R178–R181), the IN endpoint
(R183, R186, R187), and the two resets of the whole module (R28, R29, R189, R190 and the reset rules of each block). -/

namespace Sys2Proof.Machine

/-! ## Requests of the link and the time base -/

/-- The number of defined stations (R185). -/
def State.definedStations (s : State) : Nat := (allStations.filter (fun st => !(s.membersOf st).isEmpty)).length

/-- DESCRIBE (R185, Table 77). -/
def serveDescribe (tag : Byte) (_b : List Byte) (s : State) : State :=
  answer .describe tag .ok (le16 Config.partCode ++ [toByte Config.revision] ++ Config.capacities.flatMap le16 ++
    le16 s.steady ++ le16 s.inrush ++ [toByte s.definedStations]) s

/-- CLOCK (R185). -/
def serveClock (tag : Byte) (_b : List Byte) (s : State) : State :=
  answer .clock tag .ok (le32 s.clock ++ le32 s.nowSlot) s

/-- RESTART (R188): the waiting entries of the reply line and the pending SETTLEs are dropped, and the restart state is
set. -/
def serveRestart (tag : Byte) (b : List Byte) (s : State) : State :=
  match twoCode (u8 b 0) with
  | none => refuse .restart tag .badArg s
  | some full =>
    answer .restart tag .ok []
      { s with
        line := s.line.filter (fun e => e.body.isSome)
        settles := Vector.replicate 4 none
        restart := some ⟨full, s.clock, s.tickets⟩ }

/-- A request is handed to its owner (R179, step 3). -/
def serve (k : ReqKind) (tag : Byte) (b : List Byte) (s : State) : State :=
  match k with
  | .describe => serveDescribe tag b s
  | .clock => serveClock tag b s
  | .restart => serveRestart tag b s
  | .stationSet => serveStationSet tag b s
  | .stationGet => serveStationGet tag b s
  | .budgetSet => serveBudgetSet tag b s
  | .portSet => servePortSet tag b s
  | .cameraGet => serveCameraGet tag b s
  | .clearFault => serveClearFault tag b s
  | .wake => serveWake tag b s
  | .pause => servePause tag b s
  | .attrGet => serveAttrGet tag b s
  | .attrSet => serveAttrSet tag b s
  | .cuePost => serveCuePost tag b s
  | .cueCancel => serveCueCancel tag b s
  | .cueList => serveCueList tag b s
  | .settle => serveSettle tag b s
  | .aheadWake => serveAheadWake tag b s
  | .aheadDrop => serveAheadDrop tag b s
  | .fireUnlock => serveFireUnlock tag b s
  | .idList => serveIdList tag b s
  | .idPin => serveIdPin tag b s
  | .idUnpin => serveIdUnpin tag b s
  | .idClear => serveIdClear tag b s
  | .idAging => serveIdAging tag b s
  | .trapSet => serveTrapSet tag b s
  | .trapGet => serveTrapGet tag b s
  | .eventsFetch => serveEventsFetch tag b s

/-! ## Taking a transfer -/

/-- A reply whose kind is formed from a kind byte (R178). -/
def answerRaw (kind tag : Byte) (st : Status) (s : State) : State :=
  { s with line := s.line ++ [⟨s.tickets, topBitSet kind, tag, some [st.code]⟩]
           tickets := s.tickets + 1 }

/-- A request's transfer passes the checks of R178 and R179, or is answered BAD_LENGTH. -/
def takeRequest (k : ReqKind) (r : Request) (s : State) : State :=
  if framingOk r && lengthOk k r.body then serve k r.tag r.body s else refuse k r.tag .badLength s

/-- A transfer that names no request or carries no whole header (R178, R179): nothing for 0 bytes, BAD_LENGTH for 1 to 3
bytes and for a wrong length, UNKNOWN_KIND otherwise. -/
def takeUnknown (bytes : List Byte) (s : State) : State :=
  match bytes with
  | [] => s
  | kind :: rest =>
    let len := u16 bytes 2
    if bytes.length < 4 then answerRaw kind (rest.getD 0 0#8) .badLength s
    else if Config.maxMessage < bytes.length ∨ bytes.length ≠ 4 + len then
      answerRaw kind (rest.getD 0 0#8) .badLength s
    else answerRaw kind (rest.getD 0 0#8) .unknownKind s

/-- A transfer is taken (R178). -/
def dispatch (x : OutXfer) (s : State) : State :=
  match x with
  | .request k r => takeRequest k r s
  | .unknown bytes => takeUnknown bytes s

/-- The link takes OUT transfers: the device is attached, no RESTART awaits its reset, and the line has room (R181,
R188, R189). -/
def State.accepting (s : State) : Bool :=
  s.attached && s.restart.isNone && decide (s.line.length < Config.replyCapacity)

/-- An OUT transfer of the host: taken, held by the host behind earlier ones, or lost while the device is detached (R181,
R189, log 4). -/
def takeOut (x : OutXfer) (s : State) : State :=
  if !s.attached then s
  else if s.accepting && s.heldOut.isEmpty then dispatch x s
  else { s with heldOut := s.heldOut ++ [x] }

/-- The held transfers are taken in order while the link takes transfers (R181, R190). -/
def drain : List OutXfer → State → State
  | [], s => { s with heldOut := [] }
  | x :: xs, s => if s.accepting then drain xs (dispatch x s) else { s with heldOut := x :: xs }

/-- The transfers the host has been holding are taken as room allows. -/
def drainHeld (s : State) : State := drain s.heldOut s

/-! ## Resets -/

/-- A port's state over a master reset: everything as at reset, but for the levels of its inputs (R28, log 6). -/
def Port.masterReset (c : Port) : Port :=
  { Port.reset with presence := c.presence, attention := c.attention }

/-- A master reset (R28, R51, R67, R86, R106, R127, R144, R161, R175, R177, R189): every port then samples its presence
input (R28). The queue of commands and the free-value counter are the model's own and stand. -/
def masterReset (s : State) : State :=
  finish (forEach allPorts (fun p s => if (s.port p).presence then presenceRise p s else s)
    { State.reset with
      ports := s.ports.map Port.masterReset
      freeCount := s.freeCount
      pending := s.pending })

/-- The link's part of a warm reset (R190). -/
def resetLink (s : State) : State :=
  { s with
    line := []
    settles := Vector.replicate 4 none
    settleReady := []
    reports := []
    eventsMark := false
    lastReport := true
    inXfer := none
    resend := none
    restart := none
    ports := s.ports.map (fun c => { c with camMark := false }) }

/-- The cue list, the fire unit, the advance table and the event queue at a warm reset (R107, R145, R162, R176). -/
def emptyTables (s : State) : State :=
  { s with
    cues := []
    owner := none
    lock := none
    waiting := []
    syncEnd := none
    adv := []
    events := []
    ports := s.ports.map (fun c => { c with order := none, held := none }) }

/-- A job a warm reset drops (R29, R52). -/
def Job.dropped (j : Job) : Bool := j.isHost || j.isPrep || j.isAhead

/-- A PREP_WRITE or AHEAD_WRITE, which ends after its current exchange (R52). -/
def Job.isWriteRun (j : Job) : Bool := j.isPrep || j.isAhead

/-- A port's job queue at a warm reset (R52); a write in flight creates no advance entry (R145, log 25). -/
def Port.warmJobs (c : Port) : Port := (c.removeJobs Job.dropped).cutFlight Job.isWriteRun true

/-- The rest hold of a READY camera is removed, and its rest timer restarts (R29, R87). -/
def restartRest (p : PortId) (s : State) : State :=
  match (s.port p).power with
  | .ready rest _ => startRest p (s.modPort p ({ · with power := .ready rest none }))
  | _ => s

/-- One port at a warm reset (R29, R52, R87, R128, R162): its unstarted reservation and its dropped jobs go, an ARMED camera
returns to READY, the rest timer restarts, the ends of its jobs count for PAUSING, and R38 is tested. R29, R52 and R176 do not
order these: the room of the dropped jobs is served first and R38 is tested last, so that the waiting line's jobs and the
POWER_MODE of a pause go ahead of the POLL (DESIGN CHOICE, log 50). -/
def warmPort (p : PortId) (s : State) : State :=
  let s := (releaseUnstarted p s).modPort p Port.warmJobs
  let s := if (s.port p).power.isArmed then enterReady p false s else s
  (pausingEvent p (restartRest p s)).modPort p Port.testPoll

/-- A warm reset of every block (R29, R52, R68, R87, R107, R128, R145, R162, R176, R190), the link first (log 30). -/
def warmReset (s : State) : State :=
  drainHeld (finish (forEach allPorts warmPort (emptyTables (resetLink s))))

/-- The reset of a taken RESTART (R188). -/
def takeReset (r : Restart) (s : State) : State := if r.full then masterReset s else warmReset s

/-! ## The IN endpoint -/

/-- The reply at the head of the line is ready. -/
def State.headReady (s : State) : Bool :=
  match s.line with
  | e :: _ => e.body.isSome
  | [] => false

/-- The reply source of an IN transfer: the settle replies first, then the head of the line (R183). -/
def State.replySource (s : State) : Option InSource :=
  if !s.settleReady.isEmpty then some .settle else if s.headReady then some .replyLine else none

/-- The report source of an IN transfer; replies alone are sent while a RESTART awaits its reset (R183, R188). -/
def State.reportSource (s : State) : Option InSource :=
  if !s.reports.isEmpty && s.restart.isNone then some .report else none

/-- The source an IN transfer takes: alternating when both have a message (R183). -/
def State.freshSource (s : State) : InSource :=
  match s.replySource, s.reportSource with
  | some r, some q => if s.lastReport then r else q
  | some r, none => r
  | none, some q => q
  | none, none => .noData

/-- An abandoned message is sent again (R183, log 20), unless its source may not send now. -/
def State.inSource (s : State) : InSource :=
  match s.resend with
  | some .settle => if s.settleReady.isEmpty then s.freshSource else .settle
  | some .replyLine => if s.headReady then .replyLine else s.freshSource
  | some .report => s.reportSource.getD s.freshSource
  | some .noData => s.freshSource
  | none => s.freshSource

/-- A report as a message; CAMERA_CHANGE and EVENTS_WAITING are formed now (Table 62, Section 11.2). -/
def reportMessage (r : Report) (s : State) : List Byte :=
  match r with
  | .camera p => message 0x40#8 0#8 (cameraBytes p s)
  | .cueDone body => message 0x41#8 0#8 body
  | .events => message 0x42#8 0#8 [toByte s.events.length]

/-- The message of a source, as its transfer begins. -/
def State.inMessage (s : State) : InSource → List Byte
  | .settle => match s.settleReady with
    | r :: _ => message (replyKind .settle) r.tag r.body
    | [] => []
  | .replyLine => match s.line with
    | e :: _ => message e.kind e.tag (e.body.getD [])
    | [] => []
  | .report => match s.reports with
    | r :: _ => reportMessage r s
    | [] => []
  | .noData => []

/-- The port whose CAMERA_CHANGE is the head of the report queue. -/
def State.headCamera (s : State) : Option PortId :=
  match s.reports with
  | .camera p :: _ => some p
  | _ => none

/-- Which of a port's flag and notes the body being formed carries (R2); none for another source or report. -/
def State.carried (s : State) (src : InSource) (f : Port → Bool) : Bool :=
  match src, s.headCamera with
  | .report, some p => f (s.port p)
  | _, _ => false

/-- An IN transfer begins (R183). -/
def beginIn (s : State) : State :=
  let src := s.inSource
  { s with
    inXfer := some ⟨src, s.inMessage src, s.carried src (·.gradeChanged), s.carried src (·.noteAbandoned),
      s.carried src (·.noteConflict)⟩
    lastReport := match src with
      | .report => true
      | .noData => s.lastReport
      | .settle => false
      | .replyLine => false
    resend := none }

/-- The lowest port whose CAMERA_CHANGE mark is set. -/
def State.lowestMarked (s : State) : Option PortId := allPorts.find? (fun p => (s.port p).camMark)

/-- The lowest CAMERA_CHANGE mark is served (R187). -/
def serveCamMark (s : State) : State :=
  match s.lowestMarked with
  | some p => { s.modPort p ({ · with camMark := false }) with reports := s.reports ++ [.camera p] }
  | none => s

/-- A freed place of the report queue is served by one mark: CUE_DONE, EVENTS_WAITING, CAMERA_CHANGE (R187). -/
def serveMark (s : State) : State :=
  match s.cues.find? (fun c => c.mark) with
  | some c => reportCue c.id s
  | none =>
    if s.eventsMark then
      let s := { s with eventsMark := false }
      if s.events.isEmpty then serveCamMark s else { s with reports := s.reports ++ [.events] }
    else serveCamMark s

/-- The flag and notes that a sent CAMERA_CHANGE carried are cleared (R2, R186). -/
def clearCarried (p : PortId) (x : InXfer) (s : State) : State :=
  s.modPort p (fun c => { c with
    gradeChanged := c.gradeChanged && !x.grade
    noteAbandoned := c.noteAbandoned && !x.abandoned
    noteConflict := c.noteConflict && !x.conflict })

/-- What the sent report at the head of the queue clears (R2, R186): a CAMERA_CHANGE clears what it carried. -/
def clearSent (x : InXfer) (s : State) : State :=
  match s.headCamera with
  | some p => clearCarried p x s
  | none => s

/-- The report sent leaves its queue, and the freed place is served (R186, R187). A report whose transfer is in progress when a
RESTART is taken completes so too, and one mark is served (DESIGN CHOICE, log 42: R188 does not speak of it). -/
def reportSent (x : InXfer) (s : State) : State :=
  let s' := clearSent x s
  serveMark { s' with reports := s'.reports.tail }

/-- The reply sent leaves the line: a RESTART reply brings on the reset (R188), and otherwise held transfers are taken
(R181). -/
def replySent (s : State) : State :=
  match s.line with
  | e :: rest =>
    let s := { s with line := rest }
    match s.restart with
    | some r => if r.ticket = e.ticket then takeReset r s else s
    | none => drainHeld s
  | [] => s

/-- An IN transfer completes: the message leaves its source (R183, R186). -/
def completeIn (x : InXfer) (s : State) : State :=
  let s := { s with inXfer := none }
  match x.source with
  | .settle => { s with settleReady := s.settleReady.tail }
  | .replyLine => replySent s
  | .report => reportSent x s
  | .noData => s

/-- An IN transfer is abandoned: its message is sent again at the next transfer, and nothing is cleared (R183, R186). -/
def abandonIn (x : InXfer) (s : State) : State :=
  { s with inXfer := none, resend := if x.source = .noData then none else some x.source }

end Sys2Proof.Machine
end

