-- ==== Sys2Proof/Machine/Timing.lean ====
section
/-! DEFINITION. When each timed command is due: its instant, slot boundary or expiry has been reached in the state that
gives it (R177). A timed command that is not due leaves the state as it is (log 2). -/

namespace Sys2Proof.Machine

/-- An optional expiry has been reached. -/
def State.expired (s : State) : Option Nat → Bool
  | some t => reachedMs s.clock t
  | none => false

/-! ## Ports -/

/-- An unstarted reservation's start slot has been reached (R111). -/
def State.startDue (s : State) (p : PortId) : Bool :=
  match (s.port p).resv with
  | some r => !r.started && s.slotReached r.start
  | none => false

/-- A started reservation's window has passed (R111). -/
def State.windowDue (s : State) (p : PortId) : Bool :=
  match (s.port p).resv with
  | some r => r.started && s.slotReached (addSlot r.start r.length)
  | none => false

/-- The phase of a camera in WAKING. -/
def State.phase (s : State) (p : PortId) : Option Phase := (s.port p).power.phase?

/-- RAMP has lasted its inrush slots (R10). -/
def State.rampDue (s : State) (p : PortId) : Bool :=
  match s.phase p with
  | some (.ramp e) => s.slotReached e
  | _ => false

/-- Reset-out has been held for its 5 slots and not yet released (R11). -/
def State.resetHoldDue (s : State) (p : PortId) : Bool :=
  match s.phase p with
  | some (.resetHold e false _) => s.slotReached e
  | _ => false

/-- A read mark of INIT_WAIT has been reached (R12). -/
def State.initReadDue (s : State) (p : PortId) : Bool :=
  match s.phase p with
  | some (.initWait r _) => s.slotReached r
  | _ => false

/-- The init maximum has expired (R12). -/
def State.initMaxDue (s : State) (p : PortId) : Bool :=
  match s.phase p with
  | some (.initWait _ m) => s.slotReached m
  | _ => false

/-- The wait of CALIBRATE has ended (R13). -/
def State.calibrateDue (s : State) (p : PortId) : Bool :=
  match s.phase p with
  | some (.calibrate (some e)) => s.slotReached e
  | _ => false

/-- A resume read is due (R16). -/
def State.resumeReadDue (s : State) (p : PortId) : Bool :=
  match s.phase p with
  | some (.resume t _) => s.expired t
  | _ => false

/-- The keep-warm timer has expired (R44). -/
def State.keepwarmDue (s : State) (p : PortId) : Bool := s.expired (s.port p).power.keepTimer?

/-- The doze-limit timer has expired (R26). -/
def State.dozeDue (s : State) (p : PortId) : Bool := s.expired (s.port p).power.dozeTimer?

/-- The pause-wait timer has expired (R22). -/
def State.waitDue (s : State) (p : PortId) : Bool := s.expired (s.port p).power.waitTimer?

/-- The rest timer has expired (R76). -/
def State.restDue (s : State) (p : PortId) : Bool := s.expired (s.port p).power.restTimer?

/-- The port's order has reached its expiry (R134). -/
def State.orderDue (s : State) (p : PortId) : Bool := s.expired ((s.port p).order.map (·.expiry))

/-- How long the present attempt has lasted, in whole ms. -/
def State.attemptAge (s : State) (e : Exchange) : Nat := diffMs s.clock e.started

/-- The response limit of the present attempt may have been reached: its request frame began 2 ms ago or earlier (R30,
log 9). -/
def State.limitMayBeReached (s : State) (p : PortId) : Bool :=
  match (s.port p).lane with
  | some e => decide (2 ≤ s.attemptAge e)
  | none => false

/-- The response limit has been reached for certain: the attempt began 3 ms ago or earlier (R30, log 9). -/
def State.limitDue (s : State) (p : PortId) : Bool :=
  match (s.port p).lane with
  | some e => decide (3 ≤ s.attemptAge e)
  | none => false

/-! ## Cues and the fire unit -/

/-- A cue in a state meets a condition. -/
def State.cueIn (s : State) (id : Nat) (v : CueState) (f : Cue → Bool) : Bool :=
  match s.cue? id with
  | some c => c.state == v && f c
  | none => false

/-- The horizon entry of a WAITING cue: the start of slot Ts − 6000 (R91). -/
def State.horizonDue (s : State) (id : Nat) : Bool :=
  s.cueIn id .waiting (fun c => s.slotReached (diffSlot c.slot Config.horizon))

/-- The preparation start of a PLANNED cue (R93). -/
def State.prepDue (s : State) (id : Nat) : Bool := s.cueIn id .planned (fun c => s.slotReached (s.prepSlot c))

/-- The fire request time of a PREPARING cue (R95). -/
def State.fireReqDue (s : State) (id : Nat) : Bool :=
  s.cueIn id .preparing (fun c => reachedMs s.clock (s.fireReqTime c))

/-- The slack of a cue's waiting request has run out (R150). -/
def State.slackDue (s : State) (id : Nat) : Bool :=
  s.waiting.any (fun r => r.cue == id && reachedMs s.clock r.slackAt)

/-- The confirm timer of a CONFIRMING cue has expired (R100). -/
def State.confirmDue (s : State) (id : Nat) : Bool := s.cueIn id .confirming (fun c => s.expired c.timer)

/-- The owner whose full press is due (R153). -/
def State.pressDue (s : State) : Option Owner :=
  s.owner.filter (fun o => !o.pressed && reachedMs s.clock o.pressAt)

/-- The owner whose sync pulse is due: after its full press (R154). -/
def State.syncDue (s : State) : Option Owner :=
  s.owner.filter (fun o => o.pressed && !o.synced && reachedMs s.clock o.syncAt)

/-- The owner whose release is due: after its sync pulse (R154, R155). -/
def State.releaseDue (s : State) : Option Owner :=
  s.owner.filter (fun o => o.synced && !o.released && reachedMs s.clock o.releaseAt)

/-- The owner whose freeing is due: after its release (R156). -/
def State.freeDue (s : State) : Option Owner :=
  s.owner.filter (fun o => o.released && reachedMs s.clock o.freeAt)

/-- The pulse of the studio sync output has lasted its 1 ms (R154). -/
def State.pulseDue (s : State) : Bool := s.expired s.syncEnd

/-- The fire lock has expired (R158). -/
def State.lockDue (s : State) : Bool := s.expired (s.lock.map (·.expiry))

/-! ## The link and the tables -/

/-- The RESTART whose 500 ms have run out (R188). -/
def State.restartDue (s : State) : Option Restart :=
  s.restart.filter (fun r => reachedMs s.clock (addMs r.at_ 500))

/-- The USB device attaches again (R189). -/
def State.reattachDue (s : State) : Bool := s.expired s.reattachAt

/-- The pending SETTLE of a station whose timer has expired (R105). -/
def State.settleDue (s : State) (st : StationId) : Option SettleReq :=
  (s.settleReq st).filter (fun r => reachedMs s.clock r.expiry)

/-- The entry at a position has aged out (R60). -/
def State.agingDue (s : State) (k : Position) : Bool :=
  match s.entryAt k with
  | some e => s.agedOut e
  | none => false

/-- The clear walk whose next visit is due (R63). -/
def State.visitDue (s : State) : Option Walk :=
  s.walk.filter (fun w => decide (w.next < 32) && reachedMs s.clock (addMs w.t0 (2 * w.next)))

/-- The clear walk is over: every position has been visited and 64 ms have passed (R63). -/
def State.walkEndDue (s : State) : Bool :=
  match s.walk with
  | some w => decide (32 ≤ w.next) && reachedMs s.clock (addMs w.t0 64)
  | none => false

/-- The advance entry of a port and attribute has reached its expiry (R131). -/
def State.entryDue (s : State) (p : PortId) (attr : Nat) : Bool := s.expired ((s.entryFor p attr).map (·.expiry))

end Sys2Proof.Machine
end

