-- ==== Sys2Proof/Machine/CueCommands.lean ====
section
/-! DEFINITION. The meanings of the timed commands of the cue list and the fire unit (R91, R93, R95, R100, R150, R153–R156,
R158) and of SETTLE, the identity table and the advance table (R60, R63, R105, R131). -/

namespace Sys2Proof.Machine

/-- HORIZON_ENTRY (R91). -/
def execHorizonEntry (cue : Nat) (s : State) : Result :=
  .next (if s.horizonDue cue then finish (planAndEnter cue s) else s)

/-- PREPARATION_START (R93). -/
def execPreparationStart (cue : Nat) (s : State) : Result :=
  .next (if s.prepDue cue then finish (startPreparation cue s) else s)

/-- FIRE_REQUEST_TIME (R95, R147). -/
def execFireRequestTime (cue : Nat) (s : State) : Result :=
  .next (if s.fireReqDue cue then finish (closePreparation cue s) else s)

/-- SLACK_EXPIRY (R98, R150). -/
def execSlackExpiry (cue : Nat) (s : State) : Result :=
  .next (if s.slackDue cue then finish (missCue cue s) else s)

/-- FULL_PRESS (R153). -/
def execFullPress (s : State) : Result :=
  match s.pressDue with
  | some o => .next (forEach (s.ownerPorts o) pressPort { s with owner := some { o with pressed := true } })
  | none => .next s

/-- A member of the owner's cue is ARMED (R154). -/
def State.anyArmed (s : State) (o : Owner) : Bool := (s.ownerPorts o).any (fun p => (s.port p).power.isArmed)

/-- SYNC_PULSE (R154): the output is pulsed for 1 ms when a member is ARMED. -/
def execSyncPulse (s : State) : Result :=
  match s.syncDue with
  | some o =>
    .next { s with
      owner := some { o with synced := true }
      syncEnd := if s.anyArmed o then some (addMs s.clock 1) else s.syncEnd }
  | none => .next s

/-- SYNC_PULSE_END (R154). -/
def execSyncPulseEnd (s : State) : Result := .next (if s.pulseDue then { s with syncEnd := none } else s)

/-- RELEASE (R155). -/
def execRelease (s : State) : Result :=
  match s.releaseDue with
  | some o => .next (finish (releaseSequence o s))
  | none => .next s

/-- FREEING (R156). -/
def execFreeing (s : State) : Result :=
  match s.freeDue with
  | some o => .next (finish (freeUnit o s))
  | none => .next s

/-- CONFIRM_TIMEOUT (R100). -/
def execConfirmTimeout (cue : Nat) (s : State) : Result := .next (if s.confirmDue cue then confirmExpired cue s else s)

/-- LOCK_EXPIRY (R158). -/
def execLockExpiry (s : State) : Result :=
  .next (if s.lockDue then finish (grantRule { s with lock := none }) else s)

/-- SETTLE_TIMEOUT (R105). -/
def execSettleTimeout (st : StationId) (s : State) : Result :=
  match s.settleDue st with
  | some r => .next (endSettle st r .timedOut s)
  | none => .next s

/-- ID_AGING_EXPIRY (R60). -/
def execIdAgingExpiry (k : Position) (s : State) : Result := .next (if s.agingDue k then removeEntry k s else s)

/-- The visit of a position by the clear walk: an unpinned entry is removed (R63). -/
def visitPosition (k : Position) (s : State) : State :=
  match s.entryAt k with
  | some e => if e.pinned then s else removeEntry k s
  | none => s

/-- CLEAR_WALK_VISIT (R63). -/
def execClearWalkVisit (s : State) : Result :=
  match s.visitDue with
  | some w =>
    if h : w.next < 32 then
      .next (finish (visitPosition ⟨w.next, h⟩ { s with walk := some { w with next := w.next + 1 } }))
    else .next s
  | none => .next s

/-- CLEAR_WALK_END (R63). -/
def execClearWalkEnd (s : State) : Result := .next (if s.walkEndDue then { s with walk := none } else s)

/-- ADVANCE_ENTRY_EXPIRY (R131). -/
def execAdvanceEntryExpiry (p : PortId) (attr : Nat) (s : State) : Result :=
  .next (if s.entryDue p attr then dropEntry p attr s else s)

end Sys2Proof.Machine
end

