-- ==== Sys2Proof/Machine/HostCommands.lean ====
section
/-! DEFINITION. The meanings of the commands of the host link: the 28 requests and the transfers that name none, each an OUT
transfer (R178–R181); the IN endpoint (R183, R186); RESTART's expiry (R188), the master reset (R189) and the return of the
USB device. -/

namespace Sys2Proof.Machine

/-- DESCRIBE (R185). -/
def execDescribe (r : Request) (s : State) : Result := .next (takeOut (.request .describe r) s)

/-- CLOCK (R185). -/
def execClock (r : Request) (s : State) : Result := .next (takeOut (.request .clock r) s)

/-- RESTART (R188). -/
def execRestart (r : Request) (s : State) : Result := .next (takeOut (.request .restart r) s)

/-- STATION_SET (R69). -/
def execStationSet (r : Request) (s : State) : Result := .next (takeOut (.request .stationSet r) s)

/-- STATION_GET (R72). -/
def execStationGet (r : Request) (s : State) : Result := .next (takeOut (.request .stationGet r) s)

/-- BUDGET_SET (R80). -/
def execBudgetSet (r : Request) (s : State) : Result := .next (takeOut (.request .budgetSet r) s)

/-- PORT_SET (R79). -/
def execPortSet (r : Request) (s : State) : Result := .next (takeOut (.request .portSet r) s)

/-- CAMERA_GET (R2). -/
def execCameraGet (r : Request) (s : State) : Result := .next (takeOut (.request .cameraGet r) s)

/-- CLEAR_FAULT (R9). -/
def execClearFault (r : Request) (s : State) : Result := .next (takeOut (.request .clearFault r) s)

/-- WAKE (R25). -/
def execWake (r : Request) (s : State) : Result := .next (takeOut (.request .wake r) s)

/-- PAUSE (R19). -/
def execPause (r : Request) (s : State) : Result := .next (takeOut (.request .pause r) s)

/-- ATTR_GET (R46). -/
def execAttrGet (r : Request) (s : State) : Result := .next (takeOut (.request .attrGet r) s)

/-- ATTR_SET (R47). -/
def execAttrSet (r : Request) (s : State) : Result := .next (takeOut (.request .attrSet r) s)

/-- CUE_POST (R89). -/
def execCuePost (r : Request) (s : State) : Result := .next (takeOut (.request .cuePost r) s)

/-- CUE_CANCEL (R102). -/
def execCueCancel (r : Request) (s : State) : Result := .next (takeOut (.request .cueCancel r) s)

/-- CUE_LIST (R103). -/
def execCueList (r : Request) (s : State) : Result := .next (takeOut (.request .cueList r) s)

/-- SETTLE (R104). -/
def execSettle (r : Request) (s : State) : Result := .next (takeOut (.request .settle r) s)

/-- AHEAD_WAKE (R132). -/
def execAheadWake (r : Request) (s : State) : Result := .next (takeOut (.request .aheadWake r) s)

/-- AHEAD_DROP (R137). -/
def execAheadDrop (r : Request) (s : State) : Result := .next (takeOut (.request .aheadDrop r) s)

/-- FIRE_UNLOCK (R159). -/
def execFireUnlock (r : Request) (s : State) : Result := .next (takeOut (.request .fireUnlock r) s)

/-- ID_LIST (R66). -/
def execIdList (r : Request) (s : State) : Result := .next (takeOut (.request .idList r) s)

/-- ID_PIN (R61). -/
def execIdPin (r : Request) (s : State) : Result := .next (takeOut (.request .idPin r) s)

/-- ID_UNPIN (R62). -/
def execIdUnpin (r : Request) (s : State) : Result := .next (takeOut (.request .idUnpin r) s)

/-- ID_CLEAR (R63). -/
def execIdClear (r : Request) (s : State) : Result := .next (takeOut (.request .idClear r) s)

/-- ID_AGING (R60). -/
def execIdAging (r : Request) (s : State) : Result := .next (takeOut (.request .idAging r) s)

/-- TRAP_SET (R169). -/
def execTrapSet (r : Request) (s : State) : Result := .next (takeOut (.request .trapSet r) s)

/-- TRAP_GET (R170). -/
def execTrapGet (r : Request) (s : State) : Result := .next (takeOut (.request .trapGet r) s)

/-- EVENTS_FETCH (R173). -/
def execEventsFetch (r : Request) (s : State) : Result := .next (takeOut (.request .eventsFetch r) s)

/-- The transfer that some bytes are (R178): a request where their header names one, else a transfer that names none. -/
def transferOf (bytes : List Byte) : OutXfer :=
  match bytes with
  | kind :: tag :: lo :: hi :: body =>
    match ReqKind.ofByte kind with
    | some k => .request k ⟨tag, BitVec.ofNat 16 (lo.toNat + 256 * hi.toNat), body⟩
    | none => .unknown bytes
  | _ => .unknown bytes

/-- UNKNOWN_KIND (R178, R179). Bytes that do name a request are that request's transfer (log 3). -/
def execUnknownKind (bytes : List Byte) (s : State) : Result := .next (takeOut (transferOf bytes) s)

/-- IN_TRANSFER (R183): the host asks for a transfer. One at a time is in progress, and none while the device is
detached. -/
def execInTransfer (s : State) : Result :=
  if s.attached && s.inXfer.isNone then .next (beginIn s) else .next s

/-- IN_TRANSFER_COMPLETE (R183, R186); without a transfer in progress there is none to complete. -/
def execInTransferComplete (s : State) : Result :=
  match s.inXfer with
  | some x => .next (completeIn x s)
  | none => .next s

/-- IN_TRANSFER_ABANDONED (R183, R186). -/
def execInTransferAbandoned (s : State) : Result :=
  match s.inXfer with
  | some x => .next (abandonIn x s)
  | none => .next s

/-- RESTART_EXPIRY (R188): 500 ms after a taken RESTART whose reply has not been sent. -/
def execRestartExpiry (s : State) : Result :=
  match s.restartDue with
  | some r => .next (takeReset r s)
  | none => .next s

/-- MASTER_RESET (R28, R189): the reset pin or power-on. -/
def execMasterReset (s : State) : Result := .next (masterReset s)

/-- USB_REATTACH (R189). -/
def execUsbReattach (s : State) : Result :=
  if s.reattachDue then .next { s with attached := true, reattachAt := none } else .next s

end Sys2Proof.Machine
end

