-- ==== Sys2Proof/Machine/PortCommands.lean ====
section
/-! DEFINITION. The meanings of the commands of a tether port: its pins (R4, R5, R38), its rail (R1, R6), its lane (R30), the
start and window of its reservation (R111), its wake phases (R10–R16), its timers (R22, R26, R44, R76) and its order
(R134). -/

namespace Sys2Proof.Machine

/-- PRESENCE_RISE (R4); the attention level at that moment is sampled (log 5). -/
def execPresenceRise (p : PortId) (attention : Bool) (s : State) : Result :=
  .next (finish (presenceRise p (s.modPort p ({ · with presence := true, attention := attention }))))

/-- PRESENCE_FALL (R5); on a disabled port it changes nothing but the input (R79). -/
def execPresenceFall (p : PortId) (s : State) : Result :=
  let s := s.modPort p ({ · with presence := false })
  .next (if (s.port p).enabled then finish (presenceFall p s) else s)

/-- ATTENTION_RISE (R38). -/
def execAttentionRise (p : PortId) (s : State) : Result :=
  .next (finish (s.modPort p (fun c => { c with attention := true }.testPoll)))

/-- The limit that governs at the slot boundary `now` (R79): a new limit governs from the next boundary on, so a boundary
that has been sensed keeps the limit it was sensed with. -/
def Port.limitAt (now : Nat) (c : Port) : Nat :=
  if (c.sensed.map (·.time)) = some now then c.limitInForce else c.railLimit

/-- The last sensed current, if any, lies above the limit that governs at the boundary `now` (R6, R79). -/
def Port.aboveLimit (now : Nat) (c : Port) : Bool := c.sensed.all (fun x => decide (c.limitAt now < x.current))

/-- The sensed current has been above the limit for one whole slot at a slot boundary (R6, R79, log 16). -/
def State.overcurrentDue (s : State) (p : PortId) : Bool :=
  s.clock % 10 == 0 && (s.port p).power.railOn && (s.port p).aboveLimit s.clock &&
    (s.port p).overFrom.any (fun t => decide (10 ≤ diffMs s.clock t))

/-- RAIL_OVERCURRENT (R6). -/
def execRailOvercurrent (p : PortId) (s : State) : Result :=
  .next (if s.overcurrentDue p then finish (enterFault p .railOvercurrent s) else s)

/-- The sensed current at a slot boundary (R1, R6, R79): the reading takes `shown` unless it stays VOID for want of a
successful exchange; the limit stored by now governs; a current above it goes on with the measure or starts it here, and any
other restarts it. -/
def senseRail (now current shown : Nat) (c : Port) : Port :=
  { c with
    limitInForce := c.railLimit
    sensed := some ⟨now, current⟩
    reading := if c.reading.isNone && c.run != 0 then none else some shown
    overFrom := if current ≤ c.railLimit then none else some (c.overFrom.getD now) }

/-- The rail of a port is sensed (R1): a current above the record's 8000 mA (Table 8) shows as a free value (DESIGN CHOICE,
log 37) and is compared as it is. -/
def railSensed (p : PortId) (current : Nat) (s : State) : State :=
  if current ≤ 8000 then s.modPort p (senseRail s.clock current current)
  else { s.modPort p (senseRail s.clock current (Config.overRange s.freeCount).val) with freeCount := s.freeCount + 1 }

/-- RAIL_SENSE (R1, R6): the rail is sensed at each slot boundary while it is on. -/
def execRailSense (p : PortId) (current : Nat) (s : State) : Result :=
  .next (if s.clock % 10 == 0 && (s.port p).power.railOn then railSensed p current s else s)

/-- The verdict on a response, and what follows it (R30, R31). -/
def judgeResponse (p : PortId) (e : Exchange) (status data check : Byte) (s : State) : State :=
  if attemptSucceeds e status data check then exchangeSuccess p e status data s else attemptFailed p e s

/-- LANE_RESPONSE (R30): a complete response frame. With no attempt waiting, or after the limit, it is ignored. -/
def execLaneResponse (p : PortId) (status data check : Byte) (attention : Bool) (s : State) : Result :=
  match (s.port p).lane with
  | some e =>
    if s.attemptAge e ≤ 3 then
      .next (finish (judgeResponse p e status data check (s.modPort p ({ · with attention := attention }))))
    else .next s
  | none => .next s

/-- RESPONSE_LIMIT_EXPIRY (R30). -/
def execResponseLimitExpiry (p : PortId) (attention : Bool) (s : State) : Result :=
  match (s.port p).lane with
  | some e =>
    if s.limitMayBeReached p then
      .next (finish (attemptFailed p e (s.modPort p ({ · with attention := attention }))))
    else .next s
  | none => .next s

/-- The start of a reservation (R111): the wake begins in the state it was placed from, a resume after a POWER_MODE job in
flight (R16); in any other state the reservation is released. -/
def startReservation (p : PortId) (r : Reservation) (s : State) : State :=
  let s := setResv p (some { r with started := true }) s
  if (s.port p).power.paused? = some r.from_ then
    if r.from_ = .deep then startDeepWake p r s
    else if (s.port p).queue.any (fun j => j.isPowerMode && j.started) then
      s.modPort p ({ · with resumeWait := some ⟨r.ready, r.needed⟩ })
    else startResume p ⟨r.ready, r.needed⟩ s
  else releaseResv p s

/-- RESERVATION_START (R111). -/
def execReservationStart (p : PortId) (s : State) : Result :=
  match (s.port p).resv with
  | some r => .next (if s.startDue p then finish (startReservation p r s) else s)
  | none => .next s

/-- RESERVATION_WINDOW_END (R111). -/
def execReservationWindowEnd (p : PortId) (s : State) : Result :=
  .next (if s.windowDue p then finish (releaseResv p s) else s)

/-- RAMP_END (R10, R11): the camera passes to RESET_HOLD, reset-out is asserted and the reset write is owed. -/
def execRampEnd (p : PortId) (s : State) : Result :=
  match s.phase p with
  | some (.ramp e) =>
    .next (if s.rampDue p then finish (setPhase p (.resetHold (addSlot e 5) false false) (some .resetWrite) s) else s)
  | _ => .next s

/-- The release of reset-out (R11): the camera passes to INIT_WAIT, or waits for its reset write. -/
def releaseReset (p : PortId) (e : Nat) (written : Bool) (s : State) : State :=
  if written then beginInitWait p e s
  else setPhase p (.resetHold e true false) (s.port p).power.owed? s

/-- RESET_HOLD_END (R11, R12). -/
def execResetHoldEnd (p : PortId) (s : State) : Result :=
  match s.phase p with
  | some (.resetHold e _ written) => .next (if s.resetHoldDue p then finish (releaseReset p e written s) else s)
  | _ => .next s

/-- INIT_WAIT_READ (R12): a read of attribute 0 is owed, and the next mark lies five slots on. -/
def execInitWaitRead (p : PortId) (s : State) : Result :=
  match s.phase p with
  | some (.initWait r m) =>
    .next (if s.initReadDue p then finish (setPhase p (.initWait (addSlot r 5) m) (some .initRead) s) else s)
  | _ => .next s

/-- INIT_MAX_EXPIRY (R12, R13). -/
def execInitMaxExpiry (p : PortId) (s : State) : Result :=
  .next (if s.initMaxDue p then finish (beginCalibrate p s) else s)

/-- CALIBRATE_WAIT_END (R13, R14). -/
def execCalibrateWaitEnd (p : PortId) (s : State) : Result :=
  .next (if s.calibrateDue p then finish (beginRestore p s) else s)

/-- RESUME_READ (R16). -/
def execResumeRead (p : PortId) (s : State) : Result :=
  match s.phase p with
  | some (.resume _ further) =>
    .next (if s.resumeReadDue p then finish (setPhase p (.resume none further) (some .resumeRead) s) else s)
  | _ => .next s

/-- KEEPWARM_TIMER_EXPIRY (R44): the timer is removed and a PING is owed. -/
def execKeepwarmTimerExpiry (p : PortId) (s : State) : Result :=
  .next (if s.keepwarmDue p then
    finish (s.modPort p (fun c => { c with power := .keepwarm none }.owePing)) else s)

/-- DOZE_LIMIT_EXPIRY (R26). -/
def execDozeLimitExpiry (p : PortId) (s : State) : Result :=
  .next (if s.dozeDue p then finish (takePause p ⟨.deep, .auto⟩ s) else s)

/-- PAUSE_WAIT_EXPIRY (R22): the pause is abandoned. -/
def execPauseWaitExpiry (p : PortId) (s : State) : Result :=
  .next (if s.waitDue p then finish (addAbandoned p (enterReady p true s)) else s)

/-- A station's earliest cue that still needs its cameras (R76). -/
def State.nextNeed (s : State) (st : StationId) : Option Cue :=
  s.cues.find? (fun c => c.station == st && (c.state == .waiting || c.state.planned?))

/-- The rest decision holds the camera for a cue: its required-ready slot lies behind now or within the linger (R76). -/
def State.heldFor (s : State) (f : Station) (c : Cue) : Bool :=
  let d := diffSlot (s.requiredReady c) s.nowSlot
  decide (200000000 ≤ d) || decide (d ≤ 100 * f.linger)

/-- The rest decision (R76, R78): the camera is held for its next need, or paused to the station's rest state. Where a
STATION_SET changed the linger since the timer started, R71 and R76 leave open which of the two the decision compares with: it
is the station's present one (DESIGN CHOICE, log 48). -/
def restDecision (p : PortId) (st : StationId) (s : State) : State :=
  let f := s.station st
  match (s.nextNeed st).filter (s.heldFor f) with
  | some c => s.modPort p ({ · with power := .ready none (some c.id) })
  | none => takePause p ⟨f.restState, .auto⟩ s

/-- REST_TIMER_EXPIRY (R76). -/
def execRestTimerExpiry (p : PortId) (s : State) : Result :=
  match (s.port p).station with
  | some st => .next (if s.restDue p then finish (restDecision p st s) else s)
  | none => .next s

/-- ORDER_EXPIRY (R134). -/
def execOrderExpiry (p : PortId) (s : State) : Result := .next (if s.orderDue p then dropOrder p s else s)

end Sys2Proof.Machine
end

