-- ==== Sys2Proof/Machine/Dispatch.lean ====
section
/-! DEFINITION. The effect of each command: one meaning per row of the opcode table. -/

namespace Sys2Proof.Machine

/-- The effect of a command on everything but the queue of commands. -/
def exec (i : Instr) (s : State) : Host.Outcome State Fault Refusal :=
  match i with
  | .describe r => Sys2Proof.Machine.execDescribe r s
  | .clock r => Sys2Proof.Machine.execClock r s
  | .restart r => Sys2Proof.Machine.execRestart r s
  | .stationSet r => Sys2Proof.Machine.execStationSet r s
  | .stationGet r => Sys2Proof.Machine.execStationGet r s
  | .budgetSet r => Sys2Proof.Machine.execBudgetSet r s
  | .portSet r => Sys2Proof.Machine.execPortSet r s
  | .cameraGet r => Sys2Proof.Machine.execCameraGet r s
  | .clearFault r => Sys2Proof.Machine.execClearFault r s
  | .wake r => Sys2Proof.Machine.execWake r s
  | .pause r => Sys2Proof.Machine.execPause r s
  | .attrGet r => Sys2Proof.Machine.execAttrGet r s
  | .attrSet r => Sys2Proof.Machine.execAttrSet r s
  | .cuePost r => Sys2Proof.Machine.execCuePost r s
  | .cueCancel r => Sys2Proof.Machine.execCueCancel r s
  | .cueList r => Sys2Proof.Machine.execCueList r s
  | .settle r => Sys2Proof.Machine.execSettle r s
  | .aheadWake r => Sys2Proof.Machine.execAheadWake r s
  | .aheadDrop r => Sys2Proof.Machine.execAheadDrop r s
  | .fireUnlock r => Sys2Proof.Machine.execFireUnlock r s
  | .idList r => Sys2Proof.Machine.execIdList r s
  | .idPin r => Sys2Proof.Machine.execIdPin r s
  | .idUnpin r => Sys2Proof.Machine.execIdUnpin r s
  | .idClear r => Sys2Proof.Machine.execIdClear r s
  | .idAging r => Sys2Proof.Machine.execIdAging r s
  | .trapSet r => Sys2Proof.Machine.execTrapSet r s
  | .trapGet r => Sys2Proof.Machine.execTrapGet r s
  | .eventsFetch r => Sys2Proof.Machine.execEventsFetch r s
  | .unknownKind bytes => Sys2Proof.Machine.execUnknownKind bytes s
  | .inTransfer => Sys2Proof.Machine.execInTransfer s
  | .inTransferComplete => Sys2Proof.Machine.execInTransferComplete s
  | .inTransferAbandoned => Sys2Proof.Machine.execInTransferAbandoned s
  | .restartExpiry => Sys2Proof.Machine.execRestartExpiry s
  | .masterReset => Sys2Proof.Machine.execMasterReset s
  | .usbReattach => Sys2Proof.Machine.execUsbReattach s
  | .presenceRise p attention => Sys2Proof.Machine.execPresenceRise p attention s
  | .presenceFall p => Sys2Proof.Machine.execPresenceFall p s
  | .attentionRise p => Sys2Proof.Machine.execAttentionRise p s
  | .railOvercurrent p => Sys2Proof.Machine.execRailOvercurrent p s
  | .laneResponse p status data check attention => Sys2Proof.Machine.execLaneResponse p status data check attention s
  | .responseLimitExpiry p attention => Sys2Proof.Machine.execResponseLimitExpiry p attention s
  | .reservationStart p => Sys2Proof.Machine.execReservationStart p s
  | .reservationWindowEnd p => Sys2Proof.Machine.execReservationWindowEnd p s
  | .rampEnd p => Sys2Proof.Machine.execRampEnd p s
  | .resetHoldEnd p => Sys2Proof.Machine.execResetHoldEnd p s
  | .initWaitRead p => Sys2Proof.Machine.execInitWaitRead p s
  | .initMaxExpiry p => Sys2Proof.Machine.execInitMaxExpiry p s
  | .calibrateWaitEnd p => Sys2Proof.Machine.execCalibrateWaitEnd p s
  | .resumeRead p => Sys2Proof.Machine.execResumeRead p s
  | .keepwarmTimerExpiry p => Sys2Proof.Machine.execKeepwarmTimerExpiry p s
  | .dozeLimitExpiry p => Sys2Proof.Machine.execDozeLimitExpiry p s
  | .pauseWaitExpiry p => Sys2Proof.Machine.execPauseWaitExpiry p s
  | .restTimerExpiry p => Sys2Proof.Machine.execRestTimerExpiry p s
  | .horizonEntry cue => Sys2Proof.Machine.execHorizonEntry cue s
  | .preparationStart cue => Sys2Proof.Machine.execPreparationStart cue s
  | .fireRequestTime cue => Sys2Proof.Machine.execFireRequestTime cue s
  | .slackExpiry cue => Sys2Proof.Machine.execSlackExpiry cue s
  | .fullPress => Sys2Proof.Machine.execFullPress s
  | .syncPulse => Sys2Proof.Machine.execSyncPulse s
  | .syncPulseEnd => Sys2Proof.Machine.execSyncPulseEnd s
  | .release => Sys2Proof.Machine.execRelease s
  | .freeing => Sys2Proof.Machine.execFreeing s
  | .confirmTimeout cue => Sys2Proof.Machine.execConfirmTimeout cue s
  | .lockExpiry => Sys2Proof.Machine.execLockExpiry s
  | .settleTimeout st => Sys2Proof.Machine.execSettleTimeout st s
  | .idAgingExpiry k => Sys2Proof.Machine.execIdAgingExpiry k s
  | .clearWalkVisit => Sys2Proof.Machine.execClearWalkVisit s
  | .clearWalkEnd => Sys2Proof.Machine.execClearWalkEnd s
  | .advanceEntryExpiry p attr => Sys2Proof.Machine.execAdvanceEntryExpiry p attr s
  | .orderExpiry p => Sys2Proof.Machine.execOrderExpiry p s
  | .railSense p current => Sys2Proof.Machine.execRailSense p current s

end Sys2Proof.Machine
end

