-- ==== Sys2Proof/Machine/Timebase.lean ====
section
/-! DEFINITION. The time base (R177): which timed commands are due, and what the block does when no command waits: one timed
command that is due is put into the queue, any of several at one instant (R180, log 1); when none is due, one millisecond
passes. -/

namespace Sys2Proof.Machine

/-- A command when it is due. -/
def dueIf (due : Bool) (c : Instr) : List Instr := if due then [c] else []

/-- The timed commands of a port that are due. The response limit counts as due when it has been reached for certain
(log 9); the attention level is the one last sampled (log 5). -/
def State.portDue (s : State) (p : PortId) : List Instr :=
  dueIf (s.limitDue p) (.responseLimitExpiry p (s.port p).attention) ++
  dueIf (s.startDue p) (.reservationStart p) ++ dueIf (s.windowDue p) (.reservationWindowEnd p) ++
  dueIf (s.rampDue p) (.rampEnd p) ++ dueIf (s.resetHoldDue p) (.resetHoldEnd p) ++
  dueIf (s.initReadDue p) (.initWaitRead p) ++ dueIf (s.initMaxDue p) (.initMaxExpiry p) ++
  dueIf (s.calibrateDue p) (.calibrateWaitEnd p) ++ dueIf (s.resumeReadDue p) (.resumeRead p) ++
  dueIf (s.keepwarmDue p) (.keepwarmTimerExpiry p) ++ dueIf (s.dozeDue p) (.dozeLimitExpiry p) ++
  dueIf (s.waitDue p) (.pauseWaitExpiry p) ++ dueIf (s.restDue p) (.restTimerExpiry p) ++
  dueIf (s.orderDue p) (.orderExpiry p)

/-- The timed commands of a cue that are due. -/
def State.cueDue (s : State) (id : Nat) : List Instr :=
  dueIf (s.horizonDue id) (.horizonEntry id) ++ dueIf (s.prepDue id) (.preparationStart id) ++
  dueIf (s.fireReqDue id) (.fireRequestTime id) ++ dueIf (s.slackDue id) (.slackExpiry id) ++
  dueIf (s.confirmDue id) (.confirmTimeout id)

/-- The timed commands of the fire unit that are due. -/
def State.fireDue (s : State) : List Instr :=
  dueIf s.pressDue.isSome .fullPress ++ dueIf s.syncDue.isSome .syncPulse ++ dueIf s.pulseDue .syncPulseEnd ++
  dueIf s.releaseDue.isSome .release ++ dueIf s.freeDue.isSome .freeing ++ dueIf s.lockDue .lockExpiry

/-- The timed commands of the link and the tables that are due. -/
def State.tableDue (s : State) : List Instr :=
  dueIf s.restartDue.isSome .restartExpiry ++ dueIf s.reattachDue .usbReattach ++
  dueIf s.visitDue.isSome .clearWalkVisit ++ dueIf s.walkEndDue .clearWalkEnd ++
  allStations.flatMap (fun st => dueIf (s.settleDue st).isSome (.settleTimeout st)) ++
  allPositions.flatMap (fun k => dueIf (s.agingDue k) (.idAgingExpiry k)) ++
  s.adv.flatMap (fun e => dueIf (s.entryDue e.port e.attr) (.advanceEntryExpiry e.port e.attr))

/-- Every timed command that is due. -/
def State.dueEvents (s : State) : List Instr :=
  allPorts.flatMap s.portDue ++ s.cues.flatMap (fun c => s.cueDue c.id) ++ s.fireDue ++ s.tableDue

/-- One of several due commands; which one is a free value (log 1). -/
def chooseDue (n : Nat) (c : Instr) (cs : List Instr) : Instr :=
  ((c :: cs)[Config.pick n % (cs.length + 1)]?).getD c

/-- What the block does while no command waits (log 1). -/
def idle (s : State) : State :=
  match s.dueEvents with
  | [] => { s with clock := addMs s.clock 1 }
  | [c] => { s with pending := [c] }
  | c :: d :: cs => { s with pending := [chooseDue s.freeCount c (d :: cs)], freeCount := s.freeCount + 1 }

end Sys2Proof.Machine
end

