-- ==== Sys2Proof/Safety.lean ====
section
/-! DEFINITION. What every step keeps: the capacities of Table 3, the job in flight at the head of its queue (R33), the range
of the clock, the holder of the fire unit (R146) and the uniqueness of identities and bindings (R53); and what the statements
are written with: which timed commands are due (R177), the fields of message bodies, a presence rise, a fault, a fall. -/

namespace Sys2Proof.Machine

/-- No job of a port but the head of its queue has been started: the job in flight is at the head (R33), and the jobs of the
waiting line have still to join the queue (R35). -/
def Port.OnlyHeadStarted (c : Port) : Prop := ∀ j ∈ c.queue.tail ++ c.waitLine, j.started = false

/-- A port's job queue holds at most 8 jobs (R33), its failed-exchange run is at most 3 (Table 8, R31), and no job but the head
of the queue has been started. -/
def Port.Ok (c : Port) : Prop := c.queue.length ≤ 8 ∧ c.run ≤ 3 ∧ c.OnlyHeadStarted

/-- The capacities of Table 3: job queues, cue list (R88), advance entries (R129), event queue (R171), report queue (R186);
and the reply line of at most 32 (R181). -/
def Capacities (s : State) : Prop :=
  (∀ p : PortId, (s.port p).Ok) ∧ s.cues.length ≤ 16 ∧ s.adv.length ≤ 32 ∧ s.events.length ≤ 64 ∧
    s.reports.length ≤ 16 ∧ s.line.length ≤ 32

/-- The clock counts 0 to 3,999,999,999 (R177). -/
def ClockInRange (s : State) : Prop := s.clock < 4000000000

/-- A unit that has an owner has no lock (R146). -/
def OneHolder (s : State) : Prop := s.owner.isSome = true → s.lock = none

/-- No two entries of a table have the same identity, and no two are bound to the same port (R53). -/
def TableUnique (t : Vector (Option IdEntry) 32) : Prop :=
  ∀ i j : Position, i ≠ j → ∀ a b : IdEntry, t[i] = some a → t[j] = some b →
    a.ident ≠ b.ident ∧ ∀ p : PortId, a.bound = some p → b.bound ≠ some p

/-- What every step keeps. -/
def Inv (s : State) : Prop := ClockInRange s ∧ Capacities s ∧ OneHolder s ∧ TableUnique s.table

/-- The budgets hold: the committed steady current is at most the steady budget (R83), the occupancy of every slot from
now_slot onward is at most the inrush budget (R110, R118), and no reservation's window reaches past the half of the slot range
that lies ahead (R108). -/
def WithinBudgets (s : State) : Prop :=
  s.committed ≤ s.steady ∧ (∀ x < 400000000, 0 ≤ s.offset x → s.occupancy x ≤ s.inrush) ∧
    ∀ p r, (s.port p).resv = some r → s.offset r.start + r.length ≤ 200000000 ∧ r.length ≤ 200000000

/-! ## What statements are written with -/

/-- The command that a request of a kind is. -/
def ofRequest : ReqKind → Request → Instr
  | .describe => .describe
  | .clock => .clock
  | .restart => .restart
  | .stationSet => .stationSet
  | .stationGet => .stationGet
  | .budgetSet => .budgetSet
  | .portSet => .portSet
  | .cameraGet => .cameraGet
  | .clearFault => .clearFault
  | .wake => .wake
  | .pause => .pause
  | .attrGet => .attrGet
  | .attrSet => .attrSet
  | .cuePost => .cuePost
  | .cueCancel => .cueCancel
  | .cueList => .cueList
  | .settle => .settle
  | .aheadWake => .aheadWake
  | .aheadDrop => .aheadDrop
  | .fireUnlock => .fireUnlock
  | .idList => .idList
  | .idPin => .idPin
  | .idUnpin => .idUnpin
  | .idClear => .idClear
  | .idAging => .idAging
  | .trapSet => .trapSet
  | .trapGet => .trapGet
  | .eventsFetch => .eventsFetch

/-- The link takes an OUT transfer as it completes: the device is attached, no RESTART awaits its reset, the line has room,
and the host holds no earlier transfer (R181, R188, R189). -/
abbrev Open (s : State) : Prop := s.attached = true ∧ s.restart = none ∧ s.line.length < 32 ∧ s.heldOut = []

/-- A request of a kind passes the checks of R178 and R179. -/
abbrev Framed (k : ReqKind) (r : Request) : Prop :=
  r.body.length = r.len.toNat ∧ r.body.length ≤ 508 ∧ lengthOk k r.body = true

/-- The request is handed to its owner at once. -/
abbrev Taken (k : ReqKind) (r : Request) (s : State) : Prop := Open s ∧ Framed k r

/-- The state with a reply joined to the reply line, and nothing else changed but the next ticket number. -/
def State.replied (s : State) (kind tag : Byte) (body : List Byte) : State :=
  { s with line := s.line ++ [⟨s.tickets, kind, tag, some body⟩], tickets := s.tickets + 1 }

/-- The fields that only the link, the time base, the station store and the tables' own requests write: no operation of a
port, a lane, the planner or a cue writes them. -/
def State.still (s : State) :=
  (s.clock, s.stations, s.steady, s.inrush, s.aging, s.walk, s.lastCue, s.postings, s.syncEnd, s.traps, s.lastReport,
    s.resend, s.restart, s.heldOut, s.attached, s.reattachAt, s.tickets, s.freeCount, s.pending)

/-- A window of n slots of c mA each fits at offset k from now_slot, in the half of the slot range that lies ahead (R118,
log 44). -/
abbrev Fits (s : State) (c n k : Nat) : Prop :=
  k + n ≤ 200000000 ∧ ∀ i < n, s.occupancy (addSlot s.nowSlot (k + i)) + c ≤ s.inrush

/-- The earliest fitting start, from now_slot + 1 on and within the planning window, lies at offset k (R119). -/
abbrev EarliestFit (s : State) (c n k : Nat) : Prop :=
  1 ≤ k ∧ k ≤ 6000 ∧ Fits s c n k ∧ ∀ j < k, 1 ≤ j → ¬ Fits s c n j

/-- The start of a window of n slots of c mA with latency l for a required-ready slot, with its disposition: the latest
fitting one at or below the candidate R − L is PLACED, and with none there the earliest one is LATE_PREDICTED (R118, R119). -/
abbrev StartFor (s : State) (c n l req k : Nat) (d : Disp) : Prop :=
  (d = .placed ∧ 1 ≤ k ∧ k ≤ (s.offset (diffSlot req l)).toNat ∧ Fits s c n k ∧
    ∀ j ≤ (s.offset (diffSlot req l)).toNat, k < j → ¬ Fits s c n j) ∨
  (d = .latePredicted ∧ (∀ j ≤ (s.offset (diffSlot req l)).toNat, 1 ≤ j → ¬ Fits s c n j) ∧ EarliestFit s c n k)

/-- The latency of a camera with some pairs in its shadow (R109, Table 35). -/
def wakeLatency (t : Target) (f : Profile) (pairs : Nat) : Nat :=
  match t with
  | .deep => f.inrushSlots + 5 + f.initMax + 2 + (pairs + 3) / 4
  | .doze => f.resumeLatency
  | .keepwarm => max 1 ((f.resumeLatency + 2) / 3)

/-- The current and the length of the window a camera's wake takes (R118). -/
def windowCurrent (t : Target) (f : Profile) : Nat := if t = .deep then f.deepInrush else f.resumeInrush
def windowLength (t : Target) (f : Profile) : Nat := if t = .deep then f.inrushSlots else 1

/-- The reservation a placement creates at a start slot (Table 36, R118, R120). -/
def reservationAt (t : Target) (f : Profile) (pairs start : Nat) (needed : Option Nat) : Reservation where
  kind := if t = .deep then .deep else .resume
  from_ := t
  start := start
  length := windowLength t f
  current := windowCurrent t f
  latency := wakeLatency t f pairs
  ready := addSlot start (wakeLatency t f pairs)
  needed := needed
  started := false

/-- The multiplier of Table 17 for a grade other than 7, in ms per second of the base. -/
def warmFactor (grade : Option Nat) : Nat :=
  match grade with
  | some 1 => 4000
  | some 2 => 2000
  | some 3 => 1000
  | some 4 => 500
  | _ => 250

/-- The outcome R98 gives a member of a MISSED cue. -/
def outcomeIfMissed (c : Port) (m : Member) : CamOutcome :=
  match c.power, m.disp with
  | .vacant, _ => .vacant
  | .fault _, _ => .fault
  | _, some .parked => .parked
  | _, some .thermal => .thermal
  | _, some .shed => .shed
  | _, _ => .notReady

/-- An entry that a completed IDENTIFY on a port may evict: unpinned, and unbound or just given up by that port (R57). -/
abbrev IdEntry.mayGo (e : IdEntry) (p : PortId) : Prop := (e.bound = none ∨ e.bound = some p) ∧ e.pinned = false

/-- How long such an entry has been unbound; the one that the port gives up is unbound now (R56, R57). -/
def State.unboundFor (s : State) (p : PortId) (e : IdEntry) : Nat :=
  if e.bound = some p then 0 else diffMs s.clock (e.unbind.getD s.clock)

/-- The held record of a port enters the event queue before that of another: by poll time, and between equal poll times the
lower port first (R172). -/
def State.heldBefore (s : State) (p q : PortId) : Prop :=
  ∀ e f, (s.port p).held = some e → (s.port q).held = some f →
    diffMs s.clock f.time < diffMs s.clock e.time ∨ (diffMs s.clock f.time = diffMs s.clock e.time ∧ p < q)

/-- The exchange of the job in flight at the head of the queue, the rest being `js`, succeeds by a response taken now (R30, R31,
log 9). -/
abbrev JobSucceeds (p : PortId) (e : Exchange) (j : Job) (js : List Job) (status data : Byte) (s : State) : Prop :=
  (s.port p).lane = some e ∧ e.src = .job ∧ s.attemptAge e ≤ 3 ∧
    attemptSucceeds e status data (responseCheck status data) = true ∧ (s.port p).queue = j :: js ∧ j.started = true

/-- The exchange of the job in flight fails its retry by the response limit, and the camera is not faulted by it (R31, R7,
log 9). -/
abbrev JobFails (p : PortId) (e : Exchange) (j : Job) (js : List Job) (s : State) : Prop :=
  (s.port p).lane = some e ∧ e.src = .job ∧ e.retry = true ∧ 2 ≤ s.attemptAge e ∧ (s.port p).queue = j :: js ∧
    j.started = true ∧ (s.port p).run < 2

/-- The state in which a job's successful exchange has left a port: the attention level sampled (log 5), the lane idle, the
failed-exchange run cleared, but for a run of 3 in FAULT (R31, log 12), and the queue as given. -/
def State.jobDone (s : State) (p : PortId) (attention : Bool) (queue : List Job) : State :=
  s.modPort p (fun c => { c with
    attention := attention, lane := none, run := if c.power.isFault = true ∧ c.run = 3 then 3 else 0, queue := queue })

/-- A CAMERA_CHANGE of the port is owed: in the report queue or marked (R2, R186). -/
abbrev State.marked (s : State) (p : PortId) : Prop := (s.port p).camMark = true ∨ Report.camera p ∈ s.reports

/-- A camera that enters READY with a pending pause has it taken at that moment, from s to u, as R21 takes a pause of a READY
camera: in PAUSING while an offload or a host or preparation job in flight holds it back, and else in its target, KEEPWARM with
the interval of Table 17 or, at grade 7, going on to DOZE (R17). -/
def PauseTaken (p : PortId) (ps : Pause) (s u : State) : Prop :=
  ((s.port p).offload = true ∨ (s.port p).pauseHeldByJob = true →
    (u.port p).power = .pausing ps (addMs s.clock (s.pauseWaitOf p * 1000))) ∧
  ((s.port p).offload = false → (s.port p).pauseHeldByJob = false →
    (ps.target = .doze → (u.port p).power = .doze (s.dozeTimer p) ∧
      ∃ j ∈ (u.port p).queue ++ (u.port p).waitLine, j.kind = .powerMode .doze) ∧
    (ps.target = .deep → (u.port p).power = .deep ∧ (u.port p).reading = some 0 ∧ ∀ e ∈ u.adv, e.port ≠ p) ∧
    (ps.target = .keepwarm → (s.port p).grade ≠ some 7 → (u.port p).power = .keepwarm (some (addMs s.clock
      ((match s.stationOf p with
        | some f => f.keepBase
        | none => 30) * warmFactor (s.port p).grade)))) ∧
    (ps.target = .keepwarm → (s.port p).grade = some 7 → (u.port p).power = .doze (s.dozeTimer p)))

/-- A resume has started on a port in DOZE or KEEPWARM, from s to u, with a forecast and the working profile: the phase, one
wake-line pulse, and no POWER_MODE left waiting (R16). -/
def ResumeStarted (p : PortId) (g : Forecast) (f : Profile) (s u : State) : Prop :=
  (u.port p).power = .waking ⟨.resume (some (addMs s.clock (10 *
    (if (s.port p).power.isKeepwarm then max 1 (ceilDiv f.resumeLatency 3) else f.resumeLatency)))) 0, none, g, none⟩ ∧
    (u.port p).wakePulses = (s.port p).wakePulses + 1 ∧ (u.port p).resumeWait = none ∧
    (u.port p).resv = (s.port p).resv ∧ u.marked p ∧
    (∀ i ∈ (u.port p).queue ++ (u.port p).waitLine, i.isPowerMode = true → i.started = true) ∧ u.still = s.still ∧
    ∀ q, q ≠ p → u.port q = s.port q

/-- The rest timer that starts on a port now: the linger of its station, and none on a port in no station (R74, R75). -/
def State.restFrom (s : State) (p : PortId) : Option Nat :=
  (s.stationOf p).map (fun f => addMs s.clock (f.linger * 1000))

/-- The rest timer with which a camera enters READY at the end of a wake with a forecast: none starts when the wake was made for
a cue of the list that is still in PLANNED, PREPARING or FIRE_WAIT (R75, R114). -/
def State.restAfterWake (s : State) (p : PortId) (g : Forecast) : Option Nat :=
  match g.needed.bind s.cue? with
  | some c => if c.state = .planned ∨ c.state = .preparing ∨ c.state = .fireWait then none else s.restFrom p
  | none => s.restFrom p

/-- The command is one of the time base, and its instant, slot boundary or expiry has come (R177). A response limit has come for
certain 3 ms after the start of its attempt (log 9), and is taken with the attention level last sampled (log 5); no host request,
transfer, pin or lane event falls due. -/
def State.dueNow (s : State) : Instr → Prop
  | .responseLimitExpiry p a =>
    ∃ e, (s.port p).lane = some e ∧ 3 ≤ diffMs s.clock e.started ∧ a = (s.port p).attention
  | .reservationStart p => ∃ r, (s.port p).resv = some r ∧ r.started = false ∧ s.slotReached r.start = true
  | .reservationWindowEnd p =>
    ∃ r, (s.port p).resv = some r ∧ r.started = true ∧ s.slotReached (addSlot r.start r.length) = true
  | .rampEnd p => ∃ w e, (s.port p).power = .waking w ∧ w.phase = .ramp e ∧ s.slotReached e = true
  | .resetHoldEnd p => ∃ w e v, (s.port p).power = .waking w ∧ w.phase = .resetHold e false v ∧ s.slotReached e = true
  | .initWaitRead p => ∃ w r m, (s.port p).power = .waking w ∧ w.phase = .initWait r m ∧ s.slotReached r = true
  | .initMaxExpiry p => ∃ w r m, (s.port p).power = .waking w ∧ w.phase = .initWait r m ∧ s.slotReached m = true
  | .calibrateWaitEnd p => ∃ w e, (s.port p).power = .waking w ∧ w.phase = .calibrate (some e) ∧ s.slotReached e = true
  | .resumeRead p =>
    ∃ w t n, (s.port p).power = .waking w ∧ w.phase = .resume (some t) n ∧ reachedMs s.clock t = true
  | .keepwarmTimerExpiry p => ∃ t, (s.port p).power = .keepwarm (some t) ∧ reachedMs s.clock t = true
  | .dozeLimitExpiry p => ∃ t, (s.port p).power = .doze (some t) ∧ reachedMs s.clock t = true
  | .pauseWaitExpiry p => ∃ ps t, (s.port p).power = .pausing ps t ∧ reachedMs s.clock t = true
  | .restTimerExpiry p => ∃ t hold, (s.port p).power = .ready (some t) hold ∧ reachedMs s.clock t = true
  | .orderExpiry p => ∃ o, (s.port p).order = some o ∧ reachedMs s.clock o.expiry = true
  | .horizonEntry i => ∃ c, s.cue? i = some c ∧ c.state = .waiting ∧ s.slotReached (diffSlot (c.time / 10) 6000) = true
  | .preparationStart i => ∃ c, s.cue? i = some c ∧ c.state = .planned ∧ s.slotReached (s.prepSlot c) = true
  | .fireRequestTime i => ∃ c, s.cue? i = some c ∧ c.state = .preparing ∧
    reachedMs s.clock (diffMs c.time (s.station c.station).focusLead) = true
  | .slackExpiry i => (∃ c, s.cue? i = some c) ∧ ∃ q ∈ s.waiting, q.cue = i ∧ reachedMs s.clock q.slackAt = true
  | .confirmTimeout i => ∃ c t, s.cue? i = some c ∧ c.state = .confirming ∧ c.timer = some t ∧ reachedMs s.clock t = true
  | .fullPress => ∃ o, s.owner = some o ∧ o.pressed = false ∧ reachedMs s.clock (addMs o.t0 o.focus) = true
  | .syncPulse => ∃ o, s.owner = some o ∧ o.pressed = true ∧ o.synced = false ∧
    reachedMs s.clock (addMs o.t0 (o.focus + o.strobe)) = true
  | .syncPulseEnd => ∃ t, s.syncEnd = some t ∧ reachedMs s.clock t = true
  | .release => ∃ o, s.owner = some o ∧ o.synced = true ∧ o.released = false ∧
    reachedMs s.clock (addMs o.t0 (o.focus + o.press)) = true
  | .freeing => ∃ o, s.owner = some o ∧ o.released = true ∧
    reachedMs s.clock (addMs o.t0 (o.focus + o.press + 20)) = true
  | .lockExpiry => ∃ l, s.lock = some l ∧ reachedMs s.clock l.expiry = true
  | .settleTimeout st => ∃ q, s.settleReq st = some q ∧ reachedMs s.clock q.expiry = true
  | .idAgingExpiry k => ∃ e t, s.entryAt k = some e ∧ e.bound = none ∧ e.pinned = false ∧ e.unbind = some t ∧
    s.aging * 1000 ≤ diffMs s.clock t
  | .clearWalkVisit => ∃ w, s.walk = some w ∧ w.next < 32 ∧ reachedMs s.clock (addMs w.t0 (2 * w.next)) = true
  | .clearWalkEnd => ∃ w, s.walk = some w ∧ 32 ≤ w.next ∧ reachedMs s.clock (addMs w.t0 64) = true
  | .advanceEntryExpiry p a => ∃ e, s.adv.find? (fun e => e.port == p && e.attr == a) = some e ∧
    reachedMs s.clock e.expiry = true
  | .restartExpiry => ∃ r, s.restart = some r ∧ reachedMs s.clock (addMs r.at_ 500) = true
  | .usbReattach => ∃ t, s.reattachAt = some t ∧ reachedMs s.clock t = true
  | _ => False

/-- The number that a field of four bytes carries for a clock value or slot number: all ones when it is absent (Table 64). -/
def carried (x : Option Nat) : Nat := x.elim 4294967295 (· % 4294967296)

/-- The ports that a field of four bytes at an offset of a body names are those of a set (Table 64). -/
def CarriesPorts (b : List Byte) (i : Nat) (ps : PortId → Prop) : Prop :=
  u32 b i < 16777216 ∧ ∀ p : PortId, (u32 b i).testBit p.val = true ↔ ps p

/-- The ten bytes at an offset of a body carry a profile, or are zero without one (Table 71). -/
def CarriesProfile (b : List Byte) (i : Nat) (f : Option Profile) : Prop :=
  (∀ g, f = some g → u8 b i = g.resumeLatency % 256 ∧ u16 b (i + 1) = g.initMax % 65536 ∧
    u16 b (i + 3) = g.deepInrush % 65536 ∧ u8 b (i + 5) = g.inrushSlots % 256 ∧ u16 b (i + 6) = g.awake % 65536 ∧
    u16 b (i + 8) = g.resumeInrush % 65536) ∧
  (f = none → ∀ j < 10, u8 b (i + j) = 0)

/-- The eight bytes of a member entry (Table 69). -/
def CarriesMember (b : List Byte) (i : Nat) (m : Member) : Prop :=
  u8 b i = m.port.val ∧ u8 b (i + 1) = m.disp.elim 0 Disp.code ∧ u32 b (i + 2) = carried m.ready ∧
    u8 b (i + 6) = m.prep.code ∧ u8 b (i + 7) = m.outcome.elim 0 CamOutcome.code

/-- The camera of a port has come to DEEP by a presence rise, from s to u (R4): its record begins as R4 gives it, no advance
entry of the port is left, a CAMERA_CHANGE and an IDENTIFY are owed, R38 has been tested with the attention level of u, and
nothing else of the machine changes. -/
def PresenceRisen (p : PortId) (s u : State) : Prop :=
  (u.port p).power = .deep ∧ (u.port p).reading = some 0 ∧ (u.port p).hostPause = false ∧ (u.port p).offload = false ∧
    (u.port p).mediaFull = false ∧ (u.port p).run = 0 ∧ (u.port p).grade = none ∧ (u.port p).pollBit = false ∧
    (u.port p).resync = true ∧ (u.port p).station = (s.port p).station ∧ (u.port p).profile = (s.port p).profile ∧
    (∀ e ∈ u.adv, e.port ≠ p) ∧ u.marked p ∧
    (∃ j ∈ (u.port p).queue ++ (u.port p).waitLine, j.isIdentify = true) ∧
    ((u.port p).attention = true → (u.port p).held = none →
      (u.port p).markPoll = true ∨ ∃ j ∈ (u.port p).queue, j.isPoll = true) ∧
    u.table = s.table ∧ (∀ q, q ≠ p → u.port q = s.port q) ∧ u.still = s.still

/-- A host job of the request that a ticket numbers. -/
def Job.answers (t : Nat) (j : Job) : Bool :=
  match j.kind with
  | .hostRead k _ => k == t
  | .hostWrite k _ _ => k == t
  | _ => false

/-- A reply line after the waiting requests of some host jobs have been answered BAD_STATE. -/
def answeredBadState (js : List Job) (line : List ReplyEntry) : List ReplyEntry :=
  line.map (fun y => if y.body = none ∧ js.any (Job.answers y.ticket) = true then { y with body := some [0x05#8] } else y)

/-- A cue that is complete has been reported: it has left the list with its CUE_DONE, or is DONE with its mark set (R101). -/
def CueReported (c : Cue) (s : State) : Prop :=
  ((∀ x ∈ s.cues, x.id ≠ c.id) ∧ Report.cueDone c.doneBody ∈ s.reports) ∨
    { c with state := .done, timer := none, confirm := [], mark := true } ∈ s.cues

/-- A cue whose member camera on a port has an outcome and is no longer awaited (R92, R160). -/
def Cue.withOutcome (c : Cue) (p : PortId) (o : CamOutcome) : Cue :=
  { c.modMember p ({ · with outcome := some o }) with confirm := c.confirm.filter (· != p) }

/-- Every cue of s that includes a port records the loss of its camera in u, by its state, and every other cue stays as it was
(R92). The statuses of a PREPARING or waiting cue with an empty profile stay as they are (log 15). -/
def LossRecorded (p : PortId) (d : Disp) (o : CamOutcome) (s u : State) : Prop :=
  (∀ x ∈ u.cues, ∃ c ∈ s.cues, c.id = x.id) ∧
  ∀ c ∈ s.cues, (∀ x ∈ s.cues, x.id = c.id → x = c) →
    ((∀ m ∈ c.members, m.port ≠ p) ∨ c.state = .waiting ∨ c.state = .done → c ∈ u.cues) ∧
    ((∃ m ∈ c.members, m.port = p) →
      (c.state = .planned → c.modMember p ({ · with disp := some d, ready := none, prep := .notStarted }) ∈ u.cues) ∧
      (c.state = .preparing ∨ c.state = .fireWait → c.modMember p (fun m => { m with
        disp := some d, ready := none, prep := if c.profile = [] then m.prep else .notStarted }) ∈ u.cues) ∧
      (c.state = .firing → c.withOutcome p o ∈ u.cues) ∧
      (c.state = .confirming → p ∉ c.confirm → c ∈ u.cues) ∧
      (c.state = .confirming → p ∈ c.confirm →
        ((c.withOutcome p o).confirm ≠ [] → c.withOutcome p o ∈ u.cues) ∧
        ((c.withOutcome p o).confirm = [] → CueReported (c.withOutcome p o) u)))

/-- The outcome that R97 gives a member which is not armed at the grant, with its status after the close of the preparation. -/
def outcomeIfUnarmed (c : Port) (m : Member) : CamOutcome :=
  match c.power with
  | .vacant => .vacant
  | .fault _ => .fault
  | .ready _ _ =>
    match m.prep with
    | .failed => .prepFailed
    | .complete => .mediaFull
    | _ => .prepLate
  | _ =>
    match m.disp with
    | some .parked => .parked
    | some .thermal => .thermal
    | some .shed => .shed
    | _ => .notReady

/-- The camera of a port has entered FAULT, from s to u, with what R8 and R92 have done at that transition. -/
def FaultEntered (p : PortId) (cause : FaultCause) (s u : State) : Prop :=
  (u.port p).power = .fault cause ∧ (u.port p).reading = some 0 ∧ (u.port p).overFrom = none ∧
    (u.port p).resv = none ∧ (u.port p).commitment = none ∧ (u.port p).offload = false ∧
    (u.port p).waitLine = [] ∧ (u.port p).markThermal = false ∧ (u.port p).markPing = false ∧
    (∀ j ∈ (u.port p).queue, j.isPoll = true ∨ j.started = true) ∧
    (∀ e ∈ u.adv, e.port ≠ p) ∧ u.marked p ∧ u.table = s.table ∧ (∀ q, q ≠ p → u.port q = s.port q) ∧
    u.still = s.still ∧ LossRecorded p .fault .fault s u

/-- The camera of a port has entered VACANT, from s to u, with what R5, R9 and R92 do at that transition; the exchange
in progress, if any, runs out on the lane with its result discarded (log 14). -/
def VacantEntered (p : PortId) (s u : State) : Prop :=
  (u.port p).power = .vacant ∧ (u.port p).reading = some 0 ∧ (u.port p).queue = [] ∧ (u.port p).waitLine = [] ∧
    (u.port p).markPoll = false ∧ (u.port p).markThermal = false ∧ (u.port p).markPing = false ∧
    (u.port p).held = none ∧ (u.port p).resv = none ∧ (u.port p).profile = none ∧ (u.port p).hostPause = false ∧
    (u.port p).offload = false ∧ (u.port p).mediaFull = false ∧ (u.port p).grade = none ∧ (u.port p).run = 0 ∧
    (∀ e ∈ u.adv, e.port ≠ p) ∧ u.marked p ∧ (∀ q, q ≠ p → u.port q = s.port q) ∧ u.still = s.still ∧
    (u.port p).order = none ∧ (u.port p).conflict = false ∧ (u.port p).rescan = false ∧
    (u.port p).lane = (s.port p).lane.map ({ · with src := .discarded }) ∧
    u.line = answeredBadState (s.port p).queue s.line ∧ LossRecorded p .vacant .vacant s u

end Sys2Proof.Machine
end

