-- ==== Sys2Proof/Certificates/Slice0/Obligations.lean ====
section
/-! DEFINITION. The statements for the provers: what the commands do, by the rules of the spec. -/

section Statements

open Sys2Proof Sys2Proof.Machine

/-! ## The machine, its queue and its reset -/

/-- A step with a command at the front of the queue is that command's effect on the state with the rest of the queue. -/
def Obligations.StepRunsFrontCommand : Prop :=
  ∀ (c : Instr) (rest : List Instr) (s : State),
    step { s with pending := c :: rest } = exec c { s with pending := rest }

/-- The model's choice (log 1): with an empty queue, a millisecond passes when nothing is due, and otherwise one of the
timed commands that are due is put into the queue. Those are the commands of the time base whose instant, slot boundary or
expiry has come, each of them and no other command (`State.dueNow`; the response limit by the attempt's age, log 9, with the
attention level last sampled, log 5). -/
def Obligations.EmptyQueueLetsTimePass : Prop :=
  (∀ (s : State) (c : Instr), c ∈ s.dueEvents ↔ s.dueNow c) ∧
  ∀ s : State, s.pending = [] →
    (s.dueEvents = [] → step s = .next { s with clock := (s.clock + 1) % 4000000000 }) ∧
    (∀ c, s.dueEvents = [c] → step s = .next { s with pending := [c] }) ∧
    (∀ c d cs, s.dueEvents = c :: d :: cs →
      ∃ e ∈ c :: d :: cs, step s = .next { s with pending := [e], freeCount := s.freeCount + 1 })

/-- The model's choice (log 2): a timed command, or a sensed overcurrent, whose instant has not come leaves the state as
it is. A response limit can have come from 2 ms after the start of its attempt on (the model's choice, log 9), and a
lane without an attempt has none. -/
def Obligations.CommandNotDueChangesNothing : Prop :=
  ∀ (s : State) (p : PortId) (a : Bool) (cue attr : Nat) (st : StationId) (k : Position),
    (s.restartDue = none → exec .restartExpiry s = .next s) ∧
    (s.reattachDue = false → exec .usbReattach s = .next s) ∧
    (s.overcurrentDue p = false → exec (.railOvercurrent p) s = .next s) ∧
    (s.limitMayBeReached p = false → exec (.responseLimitExpiry p a) s = .next s) ∧
    (s.startDue p = false → exec (.reservationStart p) s = .next s) ∧
    (s.windowDue p = false → exec (.reservationWindowEnd p) s = .next s) ∧
    (s.rampDue p = false → exec (.rampEnd p) s = .next s) ∧
    (s.resetHoldDue p = false → exec (.resetHoldEnd p) s = .next s) ∧
    (s.initReadDue p = false → exec (.initWaitRead p) s = .next s) ∧
    (s.initMaxDue p = false → exec (.initMaxExpiry p) s = .next s) ∧
    (s.calibrateDue p = false → exec (.calibrateWaitEnd p) s = .next s) ∧
    (s.resumeReadDue p = false → exec (.resumeRead p) s = .next s) ∧
    (s.keepwarmDue p = false → exec (.keepwarmTimerExpiry p) s = .next s) ∧
    (s.dozeDue p = false → exec (.dozeLimitExpiry p) s = .next s) ∧
    (s.waitDue p = false → exec (.pauseWaitExpiry p) s = .next s) ∧
    (s.restDue p = false → exec (.restTimerExpiry p) s = .next s) ∧
    (s.horizonDue cue = false → exec (.horizonEntry cue) s = .next s) ∧
    (s.prepDue cue = false → exec (.preparationStart cue) s = .next s) ∧
    (s.fireReqDue cue = false → exec (.fireRequestTime cue) s = .next s) ∧
    (s.slackDue cue = false → exec (.slackExpiry cue) s = .next s) ∧
    (s.pressDue = none → exec .fullPress s = .next s) ∧
    (s.syncDue = none → exec .syncPulse s = .next s) ∧
    (s.pulseDue = false → exec .syncPulseEnd s = .next s) ∧
    (s.releaseDue = none → exec .release s = .next s) ∧
    (s.freeDue = none → exec .freeing s = .next s) ∧
    (s.confirmDue cue = false → exec (.confirmTimeout cue) s = .next s) ∧
    (s.lockDue = false → exec .lockExpiry s = .next s) ∧
    (s.settleDue st = none → exec (.settleTimeout st) s = .next s) ∧
    (s.agingDue k = false → exec (.idAgingExpiry k) s = .next s) ∧
    (s.visitDue = none → exec .clearWalkVisit s = .next s) ∧
    (s.walkEndDue = false → exec .clearWalkEnd s = .next s) ∧
    (s.entryDue p attr = false → exec (.advanceEntryExpiry p attr) s = .next s) ∧
    (s.orderDue p = false → exec (.orderExpiry p) s = .next s)

/-- Every command runs in every state: none ends in a fault or a refusal. Bytes of an UNKNOWN_KIND that do name a request
are that request (the model's choice, log 3). -/
def Obligations.EveryCommandRuns : Prop :=
  (∀ (c : Instr) (s : State), ∃ t, exec c s = .next t) ∧
  (∀ (k : ReqKind) (kind tag lo hi : Byte) (body : List Byte) (s : State), ReqKind.ofByte kind = some k →
    exec (.unknownKind (kind :: tag :: lo :: hi :: body)) s =
      exec (ofRequest k ⟨tag, BitVec.ofNat 16 (lo.toNat + 256 * hi.toNat), body⟩) s)

/-- The machine right after a master reset: the values the reset rules of every block give. -/
def Obligations.ResetState : Prop :=
  State.reset.clock = 0 ∧ State.reset.steady = 12000 ∧ State.reset.inrush = 3000 ∧ State.reset.aging = 300 ∧
  State.reset.walk = none ∧ State.reset.cues = [] ∧ State.reset.nextId = 1 ∧ State.reset.owner = none ∧
  State.reset.lock = none ∧ State.reset.waiting = [] ∧ State.reset.syncEnd = none ∧ State.reset.adv = [] ∧
  State.reset.events = [] ∧ State.reset.line = [] ∧ State.reset.settleReady = [] ∧ State.reset.reports = [] ∧
  State.reset.eventsMark = false ∧ State.reset.lastReport = true ∧ State.reset.restart = none ∧
  State.reset.attached = false ∧ State.reset.reattachAt = some 100 ∧ State.reset.pending = [] ∧
  (∀ k : Position, State.reset.entryAt k = none) ∧
  (∀ st : StationId, State.reset.settleReq st = none ∧ State.reset.station st = Station.reset ∧
    State.reset.membersOf st = []) ∧
  (∀ i : Fin 16, State.reset.traps[i] =
    { enabled := false, kinds := 0, ports := 0, ident := 0, mask := 0, forward := true }) ∧
  (∀ p : PortId, (State.reset.port p).power = .vacant ∧ (State.reset.port p).railLimit = 2500 ∧
    (State.reset.port p).enabled = true ∧ (State.reset.port p).grade = none ∧ (State.reset.port p).reading = some 0 ∧
    (State.reset.port p).run = 0 ∧ (State.reset.port p).profile = none ∧ (State.reset.port p).hostPause = false ∧
    (State.reset.port p).offload = false ∧ (State.reset.port p).mediaFull = false ∧
    (State.reset.port p).gradeChanged = false ∧ (State.reset.port p).noteAbandoned = false ∧
    (State.reset.port p).noteConflict = false ∧ (State.reset.port p).resv = none ∧
    (State.reset.port p).commitment = none ∧ (State.reset.port p).queue = [] ∧ (State.reset.port p).waitLine = [] ∧
    (State.reset.port p).markPoll = false ∧ (State.reset.port p).markThermal = false ∧
    (State.reset.port p).markPing = false ∧ (State.reset.port p).lane = none ∧ (State.reset.port p).pollBit = false ∧
    (State.reset.port p).held = none ∧ (State.reset.port p).conflict = false ∧ (State.reset.port p).rescan = false ∧
    (State.reset.port p).order = none ∧ (State.reset.port p).camMark = false)

/-- MASTER_RESET: before the lanes choose, every field has its value at reset, but for what the presence inputs, which are
sampled, bring about: a port that finds it high has taken a presence rise. Every field of such a port but its inputs,
DEEP, the resync need, the queue with its IDENTIFY and, where the attention input is high, its POLL, and the mark of
its CAMERA_CHANGE is the one at reset; that its IDENTIFY stands ahead of the POLL is the model's choice (log 47). The
queue of commands and the counter of free values are the model's own and stand. -/
def Obligations.MasterResetState : Prop :=
  ∀ s : State, ∃ u : State, exec .masterReset s = .next (finish u) ∧
    u = { State.reset with
      ports := u.ports, reports := u.reports, freeCount := s.freeCount, pending := s.pending } ∧
    u.eventsMark = false ∧
    u.still = { State.reset with freeCount := s.freeCount, pending := s.pending }.still ∧
    u.cues = [] ∧ u.owner = none ∧ u.lock = none ∧ u.waiting = [] ∧ u.adv = [] ∧ u.events = [] ∧ u.line = [] ∧
    u.settleReady = [] ∧ u.inXfer = none ∧ u.table = State.reset.table ∧ u.settles = State.reset.settles ∧
    (∀ q ∈ u.reports, ∃ p, (s.port p).presence = true ∧ q = .camera p) ∧
    (∀ p, (s.port p).presence = false →
      u.port p = { Port.reset with presence := false, attention := (s.port p).attention }) ∧
    (∀ p, (s.port p).presence = true →
      u.port p = { Port.reset with
        presence := true
        attention := (s.port p).attention
        power := .deep
        resync := true
        queue := ⟨.identify [], false, false, false⟩ ::
          (if (s.port p).attention then [⟨.poll, false, false, false⟩] else [])
        camMark := (u.port p).camMark } ∧ u.marked p ∧
      (u.port p).enabled = true ∧ (u.port p).profile = none ∧ (u.port p).held = none ∧ (u.port p).resv = none ∧
      (u.port p).commitment = none ∧ (u.port p).hostPause = false ∧ (u.port p).offload = false ∧
      (u.port p).mediaFull = false ∧ (u.port p).gradeChanged = false ∧ (u.port p).noteAbandoned = false ∧
      (u.port p).noteConflict = false ∧ (u.port p).grade = none ∧ (u.port p).run = 0 ∧ (u.port p).reading = some 0 ∧
      (u.port p).power = .deep ∧ (u.port p).station = none ∧ (u.port p).railLimit = 2500 ∧ (u.port p).order = none ∧
      (u.port p).conflict = false ∧ (u.port p).rescan = false)

/-- The invariant holds at reset, and so do the budgets. -/
def Obligations.InvAtReset : Prop :=
  Inv State.reset ∧ WithinBudgets State.reset

/-- Every step keeps the invariant: the clock's range, the capacities of Table 3, that no job of a port but the head of
its queue has been started, one holder of the fire unit, the uniqueness of identities and bindings. -/
def Obligations.InvKeptByStep : Prop :=
  ∀ s t : State, Inv s → step s = .next t → Inv t

/-! ## The link: framing, replies, the IN endpoint, the resets -/

/-- A transfer that names no request, or is too short to carry a header: nothing for 0 bytes, BAD_LENGTH for a wrong
length, UNKNOWN_KIND otherwise; the reply's kind has the top bit set and the tag is echoed.

A request whose transfer fails the framing, or whose body has not the length its kind requires, is answered BAD_LENGTH
and changes nothing else. -/
def Obligations.MalformedTransferAnswered : Prop :=
  (∀ (s : State) (bytes : List Byte), Open s → namesNoRequest bytes = true →
     (bytes = [] → exec (.unknownKind bytes) s = .next s) ∧
     (∀ k rest, bytes = k :: rest →
       exec (.unknownKind bytes) s = .next (s.replied (k ||| 0x80#8) (rest.getD 0 0#8)
         [if bytes.length < 4 ∨ 512 < bytes.length ∨ bytes.length ≠ 4 + u16 bytes 2 then 0x02#8 else 0x03#8]))) ∧
  (∀ (k : ReqKind) (r : Request) (s : State), Open s → ¬ Framed k r →
     exec (ofRequest k r) s = .next (s.replied (replyKind k) r.tag [0x02#8]))

/-- While the line is full or a RESTART awaits its reset, an OUT transfer waits in the host, behind earlier ones (the
model's choice, log 4, keeps them in heldOut); while the device is detached it is lost. -/
def Obligations.TransferHeldOff : Prop :=
  ∀ (k : ReqKind) (r : Request) (s : State),
    (s.attached = false → exec (ofRequest k r) s = .next s) ∧
    (s.attached = true → ¬ Open s →
      exec (ofRequest k r) s = .next { s with heldOut := s.heldOut ++ [.request k r] })

/-- A request answered at once (all but ATTR_GET and ATTR_SET, which have a statement of their own) and refused with any
status but OK and OK_CLAMPED leaves every state as it was, except the reply line. -/
def Obligations.RefusalLeavesState : Prop :=
  ∀ (k : ReqKind) (r : Request) (s t : State) (code : Byte) (rest : List Byte),
    k ≠ .attrGet → k ≠ .attrSet → Taken k r s → exec (ofRequest k r) s = .next t →
    t.line = s.line ++ [⟨s.tickets, replyKind k, r.tag, some (code :: rest)⟩] → code ≠ 0x00#8 → code ≠ 0x01#8 →
    t = s.replied (replyKind k) r.tag (code :: rest)

/-- DESCRIBE and CLOCK. -/
def Obligations.DescribeAndClock : Prop :=
  ∀ (r : Request) (s : State),
    (Taken .describe r s → exec (.describe r) s = .next (s.replied 0x81#8 r.tag
      ([0x00#8] ++ le16 424 ++ [toByte Config.revision] ++
        [24, 4, 8, 32, 8, 16, 8, 24, 32, 16, 64, 1, 16, 4, 512, 64].flatMap le16 ++ le16 s.steady ++ le16 s.inrush ++
        [toByte (allStations.filter (fun st => allPorts.any (fun p => (s.port p).station == some st))).length]))) ∧
    (1 ≤ Config.revision ∧ Config.revision ≤ 255) ∧
    (Taken .clock r s → exec (.clock r) s = .next (s.replied 0x82#8 r.tag
      ([0x00#8] ++ le32 s.clock ++ le32 (s.clock / 10)))) ∧
    (Open s → r.body.length = r.len.toNat → r.body.length ≤ 508 → r.body ≠ [] →
      exec (.describe r) s = .next (s.replied 0x81#8 r.tag [0x02#8]) ∧
      exec (.clock r) s = .next (s.replied 0x82#8 r.tag [0x02#8]))

/-- RESTART: an unknown form is refused; a taken one drops the entries that wait and the pending SETTLEs, and sets the
restart state. -/
def Obligations.RestartTaken : Prop :=
  ∀ (r : Request) (s : State), Taken .restart r s →
    (u8 r.body 0 ≠ 1 → u8 r.body 0 ≠ 2 → exec (.restart r) s = .next (s.replied 0x83#8 r.tag [0x04#8])) ∧
    (u8 r.body 0 = 1 ∨ u8 r.body 0 = 2 → exec (.restart r) s = .next
      { s with
        line := s.line.filter (fun e => e.body.isSome) ++ [⟨s.tickets, 0x83#8, r.tag, some [0x00#8]⟩]
        settles := Vector.replicate 4 none
        restart := some ⟨decide (u8 r.body 0 = 2), s.clock, s.tickets⟩
        tickets := s.tickets + 1 })

/-- RESTART_EXPIRY: 500 ms after the taking of a RESTART, a FULL form takes a master reset; a WARM form, with no transfer
held by the host, empties the link, the cue list, the fire unit, the advance table and the event queue, and leaves the
clock, the identity table, the stations, the budgets and the trap rules. That an IN transfer in progress is dropped is
the model's choice (log 30).

What the WARM form does to each port before the lanes choose: an unstarted reservation is released, with the
commitment of a paused camera, and a started one stays.

The host, preparation and advance jobs that are not in flight leave the queue and the waiting line; the other jobs
stay, in their order. A host job in flight runs on, and a preparation or advance write in flight makes no further
write and no entry (the model's choice, log 25). A paused camera that goes on from KEEPWARM drops its PINGs.

A READY camera loses its rest hold and, in a station, has its rest timer started anew. An ARMED one returns to READY,
where a pending pause is taken. A PAUSING one with an offload waits on, and the camera of any other state stays in it.
(Within a port the test of R38 comes last: the model's choice, log 50.)

USB_REATTACH: the device attaches again. -/
def Obligations.RestartExpiryAndReattach : Prop :=
  (∀ (s : State) (r : Restart), s.restart = some r → reachedMs s.clock (addMs r.at_ 500) = true →
     (r.full = true → exec .restartExpiry s = exec .masterReset s) ∧
     (r.full = false → s.heldOut = [] → ∃ u : State, exec .restartExpiry s = .next u ∧
       u.line = [] ∧ u.settles = Vector.replicate 4 none ∧ u.settleReady = [] ∧ u.eventsMark = false ∧
       u.lastReport = true ∧ u.inXfer = none ∧ u.restart = none ∧ u.attached = s.attached ∧ u.clock = s.clock ∧
       u.cues = [] ∧ u.owner = none ∧ u.lock = none ∧ u.waiting = [] ∧ u.syncEnd = none ∧ u.adv = [] ∧ u.events = [] ∧
       u.table = s.table ∧ u.aging = s.aging ∧ u.walk = s.walk ∧ u.stations = s.stations ∧ u.steady = s.steady ∧
       u.inrush = s.inrush ∧ u.traps = s.traps ∧
       (∀ p, (u.port p).station = (s.port p).station ∧ (u.port p).railLimit = (s.port p).railLimit ∧
         (u.port p).enabled = (s.port p).enabled ∧ (u.port p).hostPause = (s.port p).hostPause ∧
         (u.port p).conflict = (s.port p).conflict ∧ (u.port p).profile = (s.port p).profile ∧
         (u.port p).held = none ∧ (u.port p).power.isArmed = false))) ∧
  (∀ (s : State) (r : Restart), s.restart = some r → reachedMs s.clock (addMs r.at_ 500) = true → r.full = false →
     s.heldOut = [] → ∃ v : State, exec .restartExpiry s = .next (finish v) ∧ ∀ p,
       ((s.port p).unstarted = true → (v.port p).resv = none ∧
         ((s.port p).power.paused?.isSome = true → (v.port p).commitment = none)) ∧
       ((s.port p).unstarted = false → (v.port p).resv = (s.port p).resv) ∧
       (v.port p).lane = (s.port p).lane ∧
       (∀ j ∈ (v.port p).queue ++ (v.port p).waitLine,
         j.isHost = true ∨ j.isPrep = true ∨ j.isAhead = true → j.started = true) ∧
       (∀ j ∈ (s.port p).queue ++ (s.port p).waitLine, j.isHost = false → j.isPrep = false → j.isAhead = false →
         j.isPing = false → j ∈ (v.port p).queue ++ (v.port p).waitLine) ∧
       ((s.port p).power.isArmed = false → (s.port p).power.isPausing = false →
         ((s.port p).queue.filter (fun j => !j.isHost && !j.isPrep && !j.isAhead)) <+:
           ((v.port p).queue.filter (fun j => !j.isHost && !j.isPrep && !j.isAhead))) ∧
       (∀ j js, (s.port p).queue = j :: js → j.started = true →
         (j.isHost = true → (v.port p).queue.head? = some j) ∧
         (j.isPrep = true ∨ j.isAhead = true → (s.port p).laneHasJob = true →
           (v.port p).queue.head? = some { j with cut := true, noEntry := true })) ∧
       (∀ rest hold, (s.port p).power = .ready rest hold → (v.port p).power =
         .ready ((s.stationOf p).elim rest (fun f => some (addMs s.clock (f.linger * 1000)))) none) ∧
       (∀ full, (s.port p).power = .armed none full → (v.port p).power =
         .ready ((s.stationOf p).map (fun f => addMs s.clock (f.linger * 1000))) none) ∧
       (∀ ps full, (s.port p).power = .armed (some ps) full → (s.port p).pauseHeldByJob = false → PauseTaken p ps s v) ∧
       (∀ ps w, (s.port p).power = .pausing ps w → (s.port p).offload = true → (v.port p).power = .pausing ps w) ∧
       ((s.port p).power.isReady = false → (s.port p).power.isArmed = false → (s.port p).power.isPausing = false →
         (v.port p).power = (s.port p).power)) ∧
  (∀ (s : State) (t : Nat), s.reattachAt = some t → reachedMs s.clock t = true →
     exec .usbReattach s = .next { s with attached := true, reattachAt := none })

/-- IN_TRANSFER: the settle replies come first, then the head of the reply line when it is ready; replies and reports
alternate, beginning with the source not served at the previous transfer; replies alone while a RESTART awaits its
reset; no data when there is no message. That the source counts as served from the start of its transfer, and that a
transfer with no data leaves the count (`lastReport`), is the model's choice (log 20); so is the form in which an
abandoned message is sent again (`resend`). -/
def Obligations.InTransferChooses : Prop :=
  ∀ s : State, s.attached = true → s.inXfer = none → s.resend = none →
    (∀ q qs, s.settleReady = q :: qs → (s.reports = [] ∨ s.restart.isSome = true ∨ s.lastReport = true) →
      exec .inTransfer s = .next { s with
        inXfer := some ⟨.settle, message 0x90#8 q.tag q.body, false, false, false⟩, lastReport := false }) ∧
    (∀ e es b, s.settleReady = [] → s.line = e :: es → e.body = some b →
      (s.reports = [] ∨ s.restart.isSome = true ∨ s.lastReport = true) →
      exec .inTransfer s = .next { s with
        inXfer := some ⟨.replyLine, message e.kind e.tag b, false, false, false⟩, lastReport := false }) ∧
    (∀ q qs, s.reports = q :: qs → s.restart = none →
      (s.lastReport = false ∨ (s.settleReady = [] ∧ ∀ e es, s.line = e :: es → e.body = none)) →
      ∃ x, exec .inTransfer s = .next { s with inXfer := some x, lastReport := true } ∧ x.source = .report ∧
        (∀ p, q = .camera p → x = ⟨.report, message 0x40#8 0#8 (cameraBytes p s), (s.port p).gradeChanged,
          (s.port p).noteAbandoned, (s.port p).noteConflict⟩) ∧
        (∀ b, q = .cueDone b → x = ⟨.report, message 0x41#8 0#8 b, false, false, false⟩) ∧
        (q = .events → x = ⟨.report, message 0x42#8 0#8 [toByte s.events.length], false, false, false⟩)) ∧
    (s.settleReady = [] → (∀ e es, s.line = e :: es → e.body = none) →
      (s.reports = [] ∨ s.restart.isSome = true) →
      exec .inTransfer s = .next { s with inXfer := some ⟨.noData, [], false, false, false⟩ })

/-- IN_TRANSFER_COMPLETE: the message leaves its source; a CAMERA_CHANGE clears what its body carried; the sent RESTART
reply brings on the reset. That a report whose transfer is in progress while a RESTART awaits its reset completes like
any other is the model's choice (log 42).

IN_TRANSFER_ABANDONED: nothing is cleared, and the message is sent again (log 20).

A place freed in the report queue is served by one mark: CUE_DONE marks in list order, then EVENTS_WAITING unless the
event queue is empty, then CAMERA_CHANGE marks, the lowest port first. That this holds also while a RESTART awaits its
reset is the model's choice (log 42). -/
def Obligations.InTransferEnds : Prop :=
  (∀ (s : State) (x : InXfer), s.inXfer = some x →
     (x.source = .settle →
       exec .inTransferComplete s = .next { s with inXfer := none, settleReady := s.settleReady.tail }) ∧
     (x.source = .noData → exec .inTransferComplete s = .next { s with inXfer := none }) ∧
     (∀ e es, x.source = .replyLine → s.line = e :: es → s.restart = none → s.heldOut = [] →
       exec .inTransferComplete s = .next { s with inXfer := none, line := es }) ∧
     (∀ e es r, x.source = .replyLine → s.line = e :: es → s.restart = some r →
       exec .inTransferComplete s = .next
         (if r.ticket = e.ticket then
           (if r.full = true then masterReset { s with inXfer := none, line := es }
             else warmReset { s with inXfer := none, line := es })
         else { s with inXfer := none, line := es })) ∧
     (∀ (p : PortId) (qs : List Report), x.source = .report → s.reports = .camera p :: qs → (∀ c ∈ s.cues, c.mark = false) →
       s.eventsMark = false → (∀ q, (s.port q).camMark = false) →
       exec .inTransferComplete s = .next
         ({ s with inXfer := none, reports := qs }.modPort p (fun c => { c with
           gradeChanged := c.gradeChanged && !x.grade
           noteAbandoned := c.noteAbandoned && !x.abandoned
           noteConflict := c.noteConflict && !x.conflict })))) ∧
  (∀ (s : State) (x : InXfer), s.inXfer = some x →
     exec .inTransferAbandoned s = .next { s with
       inXfer := none, resend := if x.source = .noData then none else some x.source } ∧
     (∀ (t : State) (q : SettleReply) (qs : List SettleReply), x.source = .settle → s.settleReady = q :: qs →
       s.attached = true → exec .inTransferAbandoned s = .next t →
       exec .inTransfer t = .next { s with
         inXfer := some ⟨.settle, message 0x90#8 q.tag q.body, false, false, false⟩, lastReport := false, resend := none })) ∧
  (∀ (s : State) (x : InXfer) (q : Report) (qs : List Report), s.inXfer = some x → x.source = .report →
     s.reports = q :: qs → s.reports.length ≤ 16 → (∀ p : PortId, q ≠ Report.camera p) →
     (∀ c, s.cues.find? (fun c => c.mark) = some c → (∀ d ∈ s.cues, d.id = c.id → d = c) →
       exec .inTransferComplete s = .next { s with
         inXfer := none, reports := qs ++ [Report.cueDone c.doneBody], cues := s.cues.filter (fun d => d.id != c.id) }) ∧
     ((∀ c ∈ s.cues, c.mark = false) → s.eventsMark = true → s.events ≠ [] →
       exec .inTransferComplete s = .next { s with inXfer := none, reports := qs ++ [Report.events], eventsMark := false }) ∧
     (∀ p, (∀ c ∈ s.cues, c.mark = false) → (s.eventsMark = false ∨ s.events = []) → (s.port p).camMark = true →
       (∀ p' : PortId, p' < p → (s.port p').camMark = false) →
       exec .inTransferComplete s = .next ({ s with
         inXfer := none, reports := qs ++ [Report.camera p], eventsMark := false }.modPort p ({ · with camMark := false }))))

/-! ## Lane frames and exchanges -/

/-- The check byte: shifted once per covered bit in transmission order, combined with 0x07 after the shift when the bit
shifted out differs from the incoming bit; a READ of attribute 0 covers 001 000000 00000000 and carries 0x5B. -/
def Obligations.CheckByte : Prop :=
  (∀ (bits : List Bool) (b : Bool), crc8 [] = 0x00#8 ∧
    crc8 (bits ++ [b]) = if (crc8 bits).getLsbD 7 != b then (crc8 bits <<< 1) ^^^ 0x07#8 else crc8 bits <<< 1) ∧
  (∀ (op : LaneOp) (a : Nat) (d : Byte), requestBits op a d = bitsMsb 3 op.code ++ bitsMsb 6 a ++ bitsMsb 8 d.toNat ∧
    requestCheck op a d = crc8 (requestBits op a d)) ∧
  (∀ st d : Byte, responseCheck st d = crc8 (bitsMsb 8 st.toNat ++ bitsMsb 8 d.toNat)) ∧
  requestBits .read 0 0x00#8 = [false, false, true, false, false, false, false, false, false, false, false, false, false,
    false, false, false, false] ∧
  requestCheck .read 0 0x00#8 = 0x5B#8 ∧
  (∀ (e : Exchange) (st d ch : Byte), ch ≠ responseCheck st d → attemptSucceeds e st d ch = false)

/-- The reading of a response whose check byte is correct: ACK alone succeeds, a WRITE must be echoed, a POLL must carry 0
or an event of 1–9; bit 5 is ignored; a failed POLL is retried with the same poll sequence bit. (That a response is
taken up to 3 ms after the attempt began is the model's choice, log 9.) -/
def Obligations.ResponseVerdict : Prop :=
  (∀ (e : Exchange) (st d : Byte), attemptSucceeds e st d (responseCheck st d) = true ↔
    st.toNat / 64 = 1 ∧ (e.op = .write → d = e.data) ∧ (e.op = .poll → st.toNat % 16 ≤ 9)) ∧
  (∀ (e : Exchange) (st d : Byte), attemptSucceeds e (st ^^^ 0x20#8) d (responseCheck (st ^^^ 0x20#8) d) =
    attemptSucceeds e st d (responseCheck st d)) ∧
  (∀ st : Byte, (st.toNat % 16 = 0 ↔ eventCode st = 0) ∧ (EventKind.ofCode (eventCode st) = none ↔
    st.toNat % 16 = 0 ∨ 10 ≤ st.toNat % 16) ∧ sequenceBit st = st.toNat.testBit 4) ∧
  (∀ (p : PortId) (s : State) (e : Exchange) (st d : Byte) (a : Bool), (s.port p).lane = some e → e.op = .poll →
    e.retry = false → s.attemptAge e ≤ 3 → attemptSucceeds e st d (responseCheck st d) = false →
    ∃ (u : State) (e' : Exchange), exec (.laneResponse p st d (responseCheck st d) a) s = .next (finish u) ∧
      (u.port p).lane = some e' ∧
      e'.op = .poll ∧ e'.data = e.data ∧ e'.retry = true)

/-- A first attempt that fails, by its response or by the response limit, is repeated at once with the same frame; nothing
else of the machine changes but the sampled attention level (log 5), before the lanes choose. (The ages of an attempt
at which a response counts, up to 3 ms, and the limit, from 2 ms, are the model's choice, log 9.)

A response with no exchange on the lane, or after its limit, is ignored. (That the limit has passed when more than 3
ms have is the model's choice, log 9.) -/
def Obligations.AttemptFailure : Prop :=
  (∀ (p : PortId) (s : State) (e : Exchange) (a : Bool), (s.port p).lane = some e → e.retry = false →
     (∀ st d ch : Byte, s.attemptAge e ≤ 3 → attemptSucceeds e st d ch = false →
       exec (.laneResponse p st d ch a) s = .next (finish (s.modPort p (fun c => { c with
         attention := a, lane := some { e with retry := true, started := s.clock } })))) ∧
     (2 ≤ s.attemptAge e →
       exec (.responseLimitExpiry p a) s = .next (finish (s.modPort p (fun c => { c with
         attention := a, lane := some { e with retry := true, started := s.clock } })))) ∧
     ({ e with retry := true, started := s.clock } : Exchange).frame = e.frame) ∧
  (∀ (p : PortId) (s : State) (st d ch : Byte) (a : Bool),
     (∀ e, (s.port p).lane = some e → 3 < s.attemptAge e) → exec (.laneResponse p st d ch a) s = .next s)

/-- The lane's choice at the end of a step: an owed wake-phase exchange first, else the job at the head of the queue when
its start check passes, and for a job in flight that is not cut short its next exchange; a lane that carries an
exchange, or whose camera is VACANT, is left as it is.

The start check of each kind of job by the camera's state. A job at the head that fails it ends without an exchange:
it leaves the queue, a HOST_READ or HOST_WRITE is answered BAD_STATE, a PREP_WRITE makes the PREPARING cue's member
that is WRITING FAILED, an AHEAD_WRITE gives its pairs back as an order, and any other job has no result. The freed
entry is then served, the end of a host or preparation job is an event for a camera in PAUSING, that of a POLL has R38
tested (in that order by the model's choice, log 45), and the choice is made again.

The end of a step runs this choice: `finish`, with which a command that reaches ports ends, is every lane's choice in port
order, and then the test of the pending SETTLE of every station. That both are done once, there, and in this order is the
model's choice (log 10). A lane's choice leaves the records of the other ports. -/
def Obligations.LaneChooses : Prop :=
  ((∀ s : State, finish s =
     allStations.foldl (fun u st => testSettle st u) (allPorts.foldl (fun u p => kick p u) s)) ∧
   (∀ p : PortId, p ∈ allPorts) ∧ allPorts.Pairwise (· < ·) ∧
   (∀ st : StationId, st ∈ allStations) ∧ allStations.Pairwise (· < ·) ∧
   (∀ (p q : PortId) (s : State), q ≠ p → (kick p s).port q = s.port q)) ∧
  (∀ (p : PortId) (s : State),
     ((s.port p).lane.isSome = true ∨ (s.port p).power = .vacant → kick p s = s) ∧
     (∀ w e, (s.port p).lane = none → (s.port p).power = .waking w → w.owed = some e →
       kick p s = s.modPort p (fun c => { c with
         power := .waking { w with owed := none }, lane := some (e.exchange s.clock) })) ∧
     (∀ j js, (s.port p).lane = none → (s.port p).power ≠ .vacant → (s.port p).power.owed? = none →
       (s.port p).queue = j :: js → j.started = false → j.mayStart (s.port p) = true →
       kick p s = s.modPort p (fun c => { c with
         queue := { j with started := true } :: js, lane := j.exchange (s.port p) s.clock })) ∧
     (∀ j js, (s.port p).lane = none → (s.port p).power ≠ .vacant → (s.port p).power.owed? = none →
       (s.port p).queue = j :: js → j.started = true → j.cut = false →
       kick p s = s.modPort p (fun c => { c with lane := j.exchange (s.port p) s.clock })) ∧
     ((s.port p).lane = none → (s.port p).power.owed? = none → (s.port p).queue = [] → kick p s = s)) ∧
  ((∀ (j : Job) (c : Port), j.mayStart c = true ↔ (match j.kind with
     | .hostRead _ a => c.power.isLost = false ∧ (16 ≤ a ∧ a ≤ 23 → c.power ≠ .deep ∧ c.power.isWaking = false)
     | .hostWrite _ a _ =>
       c.power.isLost = false ∧ (a = 13 ∨ 16 ≤ a ∧ a ≤ 23 → c.power ≠ .deep ∧ c.power.isWaking = false)
     | .prepWrite _ _ _ => c.power.isReady = true ∨ c.power.isPausing = true
     | .aheadWrite _ _ _ _ => c.power.isReady = true ∨ c.power.isPausing = true
     | .identify _ => c.power.isLost = false
     | .poll => c.power ≠ .vacant ∧ c.held = none
     | .thermalRead => c.power.isLost = false
     | .ping => c.power.isKeepwarm = true
     | .powerMode t => c.power.paused? = some t)) ∧
   (∀ (p : PortId) (s : State), kick p s = chooseNext p ((s.port p).queue.length + (s.port p).waitLine.length + 16) s) ∧
   (∀ (p : PortId) (s v : State) (j : Job) (js : List Job) (n : Nat), (s.port p).lane = none →
     (s.port p).power ≠ .vacant → (s.port p).power.owed? = none → (s.port p).queue = j :: js → j.started = false →
     j.mayStart (s.port p) = false → v = s.modPort p ({ · with queue := js }) →
     (∀ t a, j.kind = .hostRead t a → chooseNext p (n + 1) s = chooseNext p n (pausingEvent p
       ({ v with line := v.line.map (fun y : ReplyEntry =>
         if y.ticket = t ∧ y.body = none then { y with body := some [0x05#8] } else y) }.modPort p Port.serveRoom))) ∧
     (∀ t a x, j.kind = .hostWrite t a x → chooseNext p (n + 1) s = chooseNext p n (pausingEvent p
       ({ v with line := v.line.map (fun y : ReplyEntry =>
         if y.ticket = t ∧ y.body = none then { y with body := some [0x05#8] } else y) }.modPort p Port.serveRoom))) ∧
     (∀ cue keep pairs, j.kind = .prepWrite cue keep pairs →
       (∀ c m, s.cue? cue = some c → c.state = .preparing → c.members.find? (fun m => m.port == p) = some m →
         m.prep = .writing → chooseNext p (n + 1) s = chooseNext p n (pausingEvent p
           ({ v with cues := v.cues.map (fun x : Cue =>
             if x.id = cue then x.modMember p ({ · with prep := .failed }) else x) }.modPort p Port.serveRoom))) ∧
       ((∀ c, s.cue? cue = some c → c.state = .preparing →
           ∀ m, c.members.find? (fun m => m.port == p) = some m → m.prep ≠ .writing) →
         chooseNext p (n + 1) s = chooseNext p n (pausingEvent p (v.modPort p Port.serveRoom)))) ∧
     (∀ pairs life expiry seq, j.kind = .aheadWrite pairs life expiry seq →
       chooseNext p (n + 1) s = chooseNext p n ((returnOrder p ⟨pairs, life, expiry, seq⟩ v).modPort p Port.serveRoom)) ∧
     (j.kind = .poll →
       chooseNext p (n + 1) s = chooseNext p n ((v.modPort p Port.serveRoom).modPort p Port.testPoll)) ∧
     (j.isHost = false → j.isPrep = false → j.isAhead = false → j.isPoll = false →
       chooseNext p (n + 1) s = chooseNext p n (v.modPort p Port.serveRoom))))

/-- A HOST_READ that succeeds, in every state: its job leaves the queue, the value of attribute 12 is a thermal read, its
request is answered OK with the value, the freed entry is served, and its end is an event for a camera in PAUSING, before
the lanes choose. The failed-exchange run is 0, but a run of 3 in FAULT stays (the model's choice, log 12).

The room of a queue is served by the marks of the jobs still owed, in the order POLL, THERMAL_READ, PING, and then by the
waiting line from its front, until the queue holds 8 jobs; a mark that meets room is cleared, owed or not.

The event for PAUSING: with the offload-busy flag clear and no host or preparation job in flight the pause's action is
taken, and otherwise, and in any other state, nothing happens.

A HOST_READ of an attribute but 12 that succeeds, outside FAULT and PAUSING and with nothing waiting for its entry of the
queue: its request is answered OK with the value, the job leaves the queue, the failed-exchange run is 0 and the lane is
idle before it chooses again. That a response 2 or 3 ms after the start of its attempt still counts is the model's choice
(log 9). (That the attention level is sampled at the response is the model's choice, log 5.) -/
def Obligations.HostReadAnswered : Prop :=
  (∀ (p : PortId) (s v w : State) (e : Exchange) (j : Job) (js : List Job) (t a : Nat) (st d : Byte) (at_ : Bool),
    JobSucceeds p e j js st d s → e.op = .read → j.kind = .hostRead t a → v = s.jobDone p at_ js →
    w = (if a = 12 then thermalRead p d v else v) →
    exec (.laneResponse p st d (responseCheck st d) at_) s = .next (finish (pausingEvent p
      (({ w with line := w.line.map (fun x : ReplyEntry =>
          if x.ticket = t ∧ x.body = none then { x with body := some [0x00#8, 0x01#8, d] } else x) }).modPort p
        Port.serveRoom)))) ∧
  (∀ (c : Port) (polls thermals pings : List Job),
    polls = (if c.markPoll = true ∧ c.attention = true ∧ c.held = none ∧ (∀ j ∈ c.queue, j.isPoll = false) ∧
      c.power ≠ .vacant then [⟨.poll, false, false, false⟩] else []) →
    thermals = (if c.markThermal = true ∧ c.power.isLost = false then [⟨.thermalRead, false, false, false⟩] else []) →
    pings = (if c.markPing = true ∧ c.power.isKeepwarm = true then [⟨.ping, false, false, false⟩] else []) →
    c.serveRoom = { c with
      queue := c.queue ++ (polls ++ thermals ++ pings ++ c.waitLine).take (8 - c.queue.length)
      waitLine := c.waitLine.drop (8 - c.queue.length - (polls ++ thermals ++ pings).length)
      markPoll := c.markPoll && decide (8 ≤ c.queue.length)
      markThermal := c.markThermal && decide (8 ≤ c.queue.length + polls.length)
      markPing := c.markPing && decide (8 ≤ c.queue.length + polls.length + thermals.length) }) ∧
  (∀ (p : PortId) (s : State),
    ((s.port p).power.isPausing = false → pausingEvent p s = s) ∧
    (∀ ps t, (s.port p).power = .pausing ps t →
      ((s.port p).offload = true ∨ (s.port p).pauseHeldByJob = true → pausingEvent p s = s) ∧
      ((s.port p).offload = false → (s.port p).pauseHeldByJob = false → PauseTaken p ps s (pausingEvent p s) ∧
        (pausingEvent p s).marked p ∧ (pausingEvent p s).table = s.table ∧ (pausingEvent p s).line = s.line ∧
        (pausingEvent p s).still = s.still ∧ (∀ q, q ≠ p → (pausingEvent p s).port q = s.port q)))) ∧
  ∀ (p : PortId) (s : State) (e : Exchange) (j : Job) (js : List Job) (t a : Nat) (st d : Byte) (at_ : Bool),
    (s.port p).lane = some e → e.src = .job → e.op = .read → s.attemptAge e ≤ 3 →
    attemptSucceeds e st d (responseCheck st d) = true → (s.port p).queue = j :: js → j.started = true →
    j.kind = .hostRead t a → a ≠ 12 → (s.port p).power.isFault = false → (s.port p).power.isPausing = false →
    (s.port p).waitLine = [] → (s.port p).markPoll = false → (s.port p).markThermal = false →
    (s.port p).markPing = false →
    exec (.laneResponse p st d (responseCheck st d) at_) s = .next (finish
      ({ s with line := s.line.map (fun x : ReplyEntry =>
          if x.ticket = t ∧ x.body = none then { x with body := some [0x00#8, 0x01#8, d] } else x) }.modPort p
        (fun c => { c with attention := at_, lane := none, run := 0, queue := js })))

/-- A thermal read (attribute 12) of a grade below 7, on a port whose grade was not 7 and not VOID: the grade is bits 0–2,
and the grade changed flag is set when the grade differs or bit 7 is set.

A THERMAL_READ job whose exchange succeeds hands its value to the thermal read. That a response 2 or 3 ms after the
start of its attempt still counts is the model's choice (log 9).

A thermal read of grade 7: the camera's entry in every planned cue becomes THERMAL without a predicted ready slot, an
unstarted reservation is released and a started one kept, and the camera is paused to DOZE as its state has it: at
once, waiting in PAUSING, as a pending pause, or as the new target of a pause to KEEPWARM; no other port changes. That
the entry of a camera in FAULT becomes THERMAL too is the model's choice (log 33, DEDUCED).

A thermal read of grade 0–6 after a grade of 7 or VOID: the grade is stored, the grade changed flag is set, and the
camera is replanned. -/
def Obligations.ThermalRead : Prop :=
  (∀ (p : PortId) (s : State) (v : Byte) (g : Nat), (s.port p).grade = some g → g ≠ 7 → v.toNat % 8 ≠ 7 →
     ((thermalRead p v s).port p).grade = some (v.toNat % 8) ∧
     ((g ≠ v.toNat % 8 ∨ v.toNat.testBit 7 = true) →
       ((thermalRead p v s).port p).gradeChanged = true ∧ (thermalRead p v s).marked p) ∧
     (g = v.toNat % 8 → v.toNat.testBit 7 = false → thermalRead p v s = s)) ∧
  (∀ (p : PortId) (s : State) (e : Exchange) (j : Job) (js : List Job) (st d : Byte) (at_ : Bool) (g : Nat),
     (s.port p).lane = some e → e.src = .job → e.op = .read → s.attemptAge e ≤ 3 →
     attemptSucceeds e st d (responseCheck st d) = true → (s.port p).queue = j :: js → j.started = true →
     j.kind = .thermalRead → (s.port p).power.isFault = false → (s.port p).grade = some g → g ≠ 7 → d.toNat % 8 ≠ 7 →
     ∃ u : State, exec (.laneResponse p st d (responseCheck st d) at_) s = .next (finish u) ∧
       (u.port p).grade = some (d.toNat % 8) ∧ (u.port p).run = 0 ∧ (u.port p).lane = none ∧
       u.table = s.table ∧ u.line = s.line ∧ (∀ q, q ≠ p → u.port q = s.port q)) ∧
  (∀ (p : PortId) (s : State) (v : Byte), v.toNat % 8 = 7 →
     ((thermalRead p v s).port p).grade = some 7 ∧
     ((s.port p).grade ≠ some 7 ∨ v.toNat.testBit 7 = true →
       ((thermalRead p v s).port p).gradeChanged = true ∧ (thermalRead p v s).marked p) ∧
     ((thermalRead p v s).port p).resv = (if (s.port p).startedResv then (s.port p).resv else none) ∧
     (∀ c ∈ (thermalRead p v s).cues, c.state.planned? = true → ∀ m ∈ c.members, m.port = p →
       m.disp = some .thermal ∧ m.ready = none) ∧
     (∀ rest hold, (s.port p).power = .ready rest hold →
       ((s.port p).offload = true ∨ (s.port p).pauseHeldByJob = true → ((thermalRead p v s).port p).power =
         .pausing ⟨.doze, .auto⟩ (addMs s.clock (s.pauseWaitOf p * 1000))) ∧
       ((s.port p).offload = false → (s.port p).pauseHeldByJob = false →
         ((thermalRead p v s).port p).power = .doze (s.dozeTimer p))) ∧
     (∀ k, (s.port p).power = .keepwarm k → ((thermalRead p v s).port p).power = .doze (s.dozeTimer p)) ∧
     (∀ w, (s.port p).power = .waking w → ((thermalRead p v s).port p).power = .waking { w with
       pending := some ⟨.doze, if w.pending.map (·.origin) = some .host then .host else .auto⟩ }) ∧
     (∀ ps full, (s.port p).power = .armed ps full → ((thermalRead p v s).port p).power =
       .armed (some ⟨.doze, if ps.map (·.origin) = some .host then .host else .auto⟩) full) ∧
     (∀ ps w, (s.port p).power = .pausing ps w → ((thermalRead p v s).port p).power =
       .pausing (if ps.target = .keepwarm then ⟨.doze, ps.origin⟩ else ps) w) ∧
     ((∃ t, (s.port p).power = .doze t) ∨ (s.port p).power = .deep →
       ((thermalRead p v s).port p).power = (s.port p).power) ∧
     (thermalRead p v s).table = s.table ∧ (thermalRead p v s).still = s.still ∧
     (∀ q, q ≠ p → (thermalRead p v s).port q = s.port q)) ∧
  (∀ (p : PortId) (s : State) (v : Byte), v.toNat % 8 ≠ 7 → (s.port p).grade = some 7 ∨ (s.port p).grade = none →
     ∃ u : State, thermalRead p v s = replan p u ∧ (u.port p).grade = some (v.toNat % 8) ∧
       (u.port p).gradeChanged = true ∧ u.marked p ∧ (u.port p).power = (s.port p).power ∧
       (u.port p).resv = (s.port p).resv ∧ u.cues = s.cues ∧ u.table = s.table ∧ u.still = s.still ∧
       (∀ q, q ≠ p → u.port q = s.port q))

/-- The read of a THERMAL_READ job that fails its retry by the response limit adds 1 to the failed-exchange run, and the
grade and the reading of a powered camera become VOID; at a run of 3 the camera enters FAULT with cause LANE_LOST.

The wake-phase exchanges that succeed, each in its phase: the reset write ends RESET_HOLD once reset-out is released, a read
with the ready bit ends INIT_WAIT, the calibration write starts the 2-slot wait, each restore write is followed by the next
and the last by READY, and a resume read with the ready bit ends the wake, one without is repeated at the next slot boundary
up to three times and then faults the camera. At the entry to READY a pending pause is taken; without one the rest timer of
a station member starts, unless the wake was made for a cue that is still planned (`State.restAfterWake`). The run becomes
0. (The init maximum of a camera without a profile is the model's choice, log 27.)

The wake-phase exchanges that fail after their retry: at a run of 3 the camera faults with LANE_LOST whatever the phase;
below it, in RESET_HOLD, CALIBRATE and RESTORE it faults with WAKE_FAILED, a failed read of INIT_WAIT leaves the phase, and
a failed resume read counts as one without the ready bit. At a fault each cue that includes the port records it. (That the
statuses of a cue with an empty profile stay is the model's choice, log 15.)

A HOST_READ or HOST_WRITE whose exchange fails after its retry is answered TIMED_OUT, a read without a value. That this
holds also for the job in flight when its camera enters FAULT is the model's choice (log 13, DEDUCED).

A POWER_MODE job that fails after its retry while its camera is in the state it was enqueued for: with a reservation, or
admitted by R83, the camera returns to READY with the note PAUSE_ABANDONED, its rest timer started in a station; not
admitted, it enters DEEP. A camera that has left that state stays as it is. (The age at which the limit may be taken is the
model's choice, log 9.) -/
def Obligations.FailedExchangeCounts : Prop :=
  (∀ (p : PortId) (s : State) (e : Exchange) (j : Job) (js : List Job) (at_ : Bool),
     (s.port p).lane = some e → e.retry = true → e.src = .job → e.op = .read → 2 ≤ s.attemptAge e →
     (s.port p).queue = j :: js → j.started = true → j.kind = .thermalRead → (s.port p).power.railOn = true →
     ∃ u : State, exec (.responseLimitExpiry p at_) s = .next (finish u) ∧ (u.port p).grade = none ∧ (u.port p).lane = none ∧
       u.table = s.table ∧ (∀ q, q ≠ p → u.port q = s.port q) ∧ u.still = s.still ∧
       ((s.port p).run < 2 → (u.port p).run = (s.port p).run + 1 ∧ (u.port p).reading = none ∧
         (u.port p).power = (s.port p).power) ∧
       ((s.port p).run = 2 → (u.port p).run = 3 ∧ (u.port p).power = .fault .laneLost ∧
         (u.port p).reading = some 0 ∧ (u.port p).resv = none ∧ u.marked p)) ∧
  (∀ (p : PortId) (s : State) (w : Wake) (e : Exchange) (x : WakeEx) (st d : Byte) (at_ : Bool),
     (s.port p).power = .waking w → (s.port p).lane = some e → e.src = .wake x → s.attemptAge e < 2 →
     attemptSucceeds e st d (responseCheck st d) = true → e.throughPart = (match x with
       | .restoreWrite _ => true
       | _ => false) →
     (∀ ph owed, ((∃ k written, x = .resetWrite ∧ w.phase = .resetHold k true written ∧ owed = none ∧
           ph = .initWait (addSlot k 5) (addSlot k ((s.port p).profile.elim 10 (·.initMax)))) ∨
         (∃ k written, x = .resetWrite ∧ w.phase = .resetHold k false written ∧ owed = w.owed ∧
           ph = .resetHold k false true) ∨
         (∃ r m, x = .initRead ∧ w.phase = .initWait r m ∧ d.toNat % 2 = 1 ∧ owed = some .calWrite ∧
           ph = .calibrate none) ∨
         (∃ r m, x = .initRead ∧ w.phase = .initWait r m ∧ d.toNat % 2 = 0 ∧ owed = w.owed ∧ ph = w.phase) ∨
         (∃ k, x = .calWrite ∧ w.phase = .calibrate k ∧ owed = none ∧ ph = .calibrate (some (addSlot s.nowSlot 3))) ∨
         (∃ t n, x = .resumeRead ∧ w.phase = .resume t n ∧ d.toNat % 2 = 0 ∧ n < 3 ∧ owed = none ∧
           ph = .resume (some (addSlot s.nowSlot 1 * 10)) (n + 1))) →
       exec (.laneResponse p st d (responseCheck st d) at_) s = .next (finish (s.modPort p (fun c => { c with
         attention := at_, lane := none, run := 0, power := .waking { w with phase := ph, owed := owed } })))) ∧
     (∀ pr pr' rest, x = .restoreWrite pr → w.phase = .restore (pr :: pr' :: rest) →
       ∃ u : State, exec (.laneResponse p st d (responseCheck st d) at_) s = .next (finish u) ∧
         u.port p = { s.port p with
           attention := at_, lane := none, run := 0
           power := .waking { w with phase := .restore (pr' :: rest), owed := some (.restoreWrite pr') } } ∧
         u.adv = s.adv.filter (fun a => !(a.port == p && a.attr == e.attr)) ∧ u.still = s.still ∧
         (∀ q, q ≠ p → u.port q = s.port q)) ∧
     ((∃ pr, x = .restoreWrite pr ∧ w.phase = .restore [pr]) ∨
         (∃ t n, x = .resumeRead ∧ w.phase = .resume t n ∧ d.toNat % 2 = 1) → w.pending = none →
       ∃ u : State, exec (.laneResponse p st d (responseCheck st d) at_) s = .next (finish u) ∧
         (u.port p).power.isReady = true ∧ (u.port p).power = .ready (s.restAfterWake p w.forecast) none ∧
         (u.port p).run = 0 ∧ u.marked p ∧ u.still = s.still ∧ (∀ q, q ≠ p → u.port q = s.port q)) ∧
     (∀ ps, (∃ pr, x = .restoreWrite pr ∧ w.phase = .restore [pr]) ∨
         (∃ t n, x = .resumeRead ∧ w.phase = .resume t n ∧ d.toNat % 2 = 1) → w.pending = some ps →
       ∃ u : State, exec (.laneResponse p st d (responseCheck st d) at_) s = .next (finish u) ∧
         PauseTaken p ps s u ∧ (u.port p).run = 0 ∧ u.marked p ∧ u.still = s.still ∧
         (∀ q, q ≠ p → u.port q = s.port q)) ∧
     (∀ t, x = .resumeRead → w.phase = .resume t 3 → d.toNat % 2 = 0 →
       ∃ u : State, exec (.laneResponse p st d (responseCheck st d) at_) s = .next (finish u) ∧
         FaultEntered p .wakeFailed s u ∧ (u.port p).run = 0)) ∧
  (∀ (p : PortId) (s : State) (w : Wake) (e : Exchange) (x : WakeEx) (at_ : Bool),
     (s.port p).power = .waking w → (s.port p).lane = some e → e.src = .wake x → e.retry = true → 2 ≤ s.attemptAge e →
     ((s.port p).run = 2 → ∃ u : State, exec (.responseLimitExpiry p at_) s = .next (finish u) ∧
       FaultEntered p .laneLost s u ∧ (u.port p).run = 3 ∧ (u.port p).grade = none) ∧
     ((s.port p).run < 2 →
       ((∃ k rel written, x = .resetWrite ∧ w.phase = .resetHold k rel written) ∨
           (∃ k, x = .calWrite ∧ w.phase = .calibrate k) ∨ (∃ pr l, x = .restoreWrite pr ∧ w.phase = .restore l) ∨
           (∃ t, x = .resumeRead ∧ w.phase = .resume t 3) →
         ∃ u : State, exec (.responseLimitExpiry p at_) s = .next (finish u) ∧ FaultEntered p .wakeFailed s u ∧
           (u.port p).run = (s.port p).run + 1 ∧ (u.port p).grade = none) ∧
       (∀ ph owed, ((∃ r m, x = .initRead ∧ w.phase = .initWait r m ∧ ph = w.phase ∧ owed = w.owed) ∨
           (∃ t n, x = .resumeRead ∧ w.phase = .resume t n ∧ n < 3 ∧ owed = none ∧
             ph = .resume (some (addSlot s.nowSlot 1 * 10)) (n + 1))) →
         ∃ u : State, exec (.responseLimitExpiry p at_) s = .next (finish u) ∧
           (u.port p).power = .waking { w with phase := ph, owed := owed } ∧ (u.port p).lane = none ∧
           (u.port p).run = (s.port p).run + 1 ∧ (u.port p).grade = none ∧ (u.port p).reading = none ∧
           u.still = s.still ∧ (∀ q, q ≠ p → u.port q = s.port q)))) ∧
  (∀ (p : PortId) (s : State) (e : Exchange) (j : Job) (js : List Job) (t a : Nat) (v : Byte) (body : List Byte) (at_ : Bool),
     (s.port p).lane = some e → e.retry = true → e.src = .job → 2 ≤ s.attemptAge e → (s.port p).queue = j :: js →
     j.started = true → (s.port p).run < 2 →
     (j.kind = .hostRead t a ∧ body = [0x0C#8, 0x00#8, 0x00#8]) ∨ (j.kind = .hostWrite t a v ∧ body = [0x0C#8]) →
     ∃ u : State, exec (.responseLimitExpiry p at_) s = .next (finish u) ∧
       u.line = s.line.map (fun x : ReplyEntry =>
         if x.ticket = t ∧ x.body = none then { x with body := some body } else x) ∧
       (u.port p).run = (s.port p).run + 1 ∧ (u.port p).grade = none ∧ (u.port p).lane = none ∧ u.still = s.still ∧
       (∀ q, q ≠ p → u.port q = s.port q)) ∧
  (∀ (p : PortId) (s : State) (e : Exchange) (j : Job) (js : List Job) (t : Target) (f : Profile) (at_ : Bool),
     (s.port p).lane = some e → e.retry = true → e.src = .job → e.throughPart = false → 2 ≤ s.attemptAge e →
     (s.port p).queue = j :: js → j.started = true → j.kind = .powerMode t → t ≠ .deep → (s.port p).run < 2 →
     (s.port p).profile = some f → (s.port p).resumeWait = none →
     ∃ u : State, exec (.responseLimitExpiry p at_) s = .next (finish u) ∧ u.still = s.still ∧
       (∀ q, q ≠ p → u.port q = s.port q) ∧
       ((s.port p).power.paused? = some t → (s.port p).resv.isSome = true →
         (u.port p).power = .ready (s.restFrom p) none ∧
         (u.port p).power.isReady = true ∧ (u.port p).noteAbandoned = true ∧ u.marked p ∧
         (u.port p).resv = (if (s.port p).startedResv then (s.port p).resv else none)) ∧
       ((s.port p).power.paused? = some t → (s.port p).resv = none → s.committed + f.awake ≤ s.steady →
         (u.port p).power = .ready (s.restFrom p) none ∧ (u.port p).power.isReady = true ∧
           (u.port p).noteAbandoned = true ∧ u.marked p ∧
         (u.port p).commitment = some f.awake) ∧
       ((s.port p).power.paused? = some t → (s.port p).resv = none → s.steady < s.committed + f.awake →
         (u.port p).power = .deep ∧ (u.port p).reading = some 0 ∧ u.marked p ∧ (u.port p).commitment = none ∧
         (∀ a ∈ u.adv, a.port ≠ p)) ∧
       ((s.port p).power.paused? ≠ some t → (s.port p).power.isPausing = false → (u.port p).power = (s.port p).power))

/-! ## Pins, rail and camera requests -/

/-- PRESENCE_RISE: an enabled port whose camera is VACANT has it in DEEP, with its flags clear, its grade VOID, its run 0,
an IDENTIFY owed, and R38 tested; on any other port only the inputs change.

PRESENCE_FALL: the camera of an enabled port enters VACANT, with the effects of R5; its identity entry becomes unbound
and begins to age unless it is pinned; a disabled port, or one already VACANT, changes nothing but the input. Each
waiting host request of the port is answered BAD_STATE at once, the exchange in progress runs out with its result
discarded (the model's choice, log 14), and each cue that includes the port records VACANT. (That the statuses of a
cue with an empty profile stay is the model's choice, log 15.)

ATTENTION_RISE: a POLL is enqueued, or marked when the queue is full, unless one is queued or marked, the held slot is
occupied or the camera is VACANT. (That the attention level is sampled at these inputs is the model's choice, log 5.) -/
def Obligations.InputEdges : Prop :=
  (∀ (p : PortId) (a : Bool) (s : State),
     ((s.port p).enabled = true → (s.port p).power = .vacant →
       ∃ u : State, exec (.presenceRise p a) s = .next (finish u) ∧ PresenceRisen p s u ∧ (u.port p).presence = true ∧
         (u.port p).attention = a ∧ (u.port p).held = (s.port p).held) ∧
     ((s.port p).enabled = false ∨ (s.port p).power ≠ .vacant →
       exec (.presenceRise p a) s = .next (finish (s.modPort p (fun c => { c with presence := true, attention := a }))))) ∧
  (∀ (p : PortId) (s : State),
     ((s.port p).enabled = true → (s.port p).power ≠ .vacant → TableUnique s.table →
       ∃ u : State, exec (.presenceFall p) s = .next (finish u) ∧ VacantEntered p s u ∧ (u.port p).presence = false ∧
         (∀ k e, s.entryAt k = some e → e.bound = some p →
           u.entryAt k = some { e with bound := none, unbind := if e.pinned then none else some s.clock }) ∧
         (∀ k e, s.entryAt k = some e → e.bound ≠ some p → u.entryAt k = some e)) ∧
     ((s.port p).enabled = true → (s.port p).power = .vacant →
       exec (.presenceFall p) s = .next (finish (s.modPort p (fun c => { c with presence := false })))) ∧
     ((s.port p).enabled = false →
       exec (.presenceFall p) s = .next (s.modPort p (fun c => { c with presence := false })))) ∧
  (∀ (p : PortId) (s : State),
     ∃ u : State, exec (.attentionRise p) s = .next (finish u) ∧
       ((s.port p).held = none → (s.port p).power.isVacant = false → (s.port p).markPoll = false →
         (∀ j ∈ (s.port p).queue, j.isPoll = false) →
         ((s.port p).queue.length < 8 → u = s.modPort p (fun c => { c with
           attention := true, queue := c.queue ++ [⟨.poll, false, false, false⟩] })) ∧
         (8 ≤ (s.port p).queue.length → u = s.modPort p (fun c => { c with attention := true, markPoll := true }))) ∧
       ((s.port p).held ≠ none ∨ (s.port p).power.isVacant = true ∨ (s.port p).markPoll = true ∨
           (∃ j ∈ (s.port p).queue, j.isPoll = true) →
         u = s.modPort p (fun c => { c with attention := true })))

/-- RAIL_SENSE: at a slot boundary while the rail is on, the reading takes the sensed current, unless it stays VOID for
want of a successful exchange; the stored limit governs from this boundary on, a current above it goes on with the
overcurrent measure or starts it here, and any other restarts it (DEDUCED, log 16). What the reading takes of a
current above its 8000 mA is free (the model's choice, log 37).

RAIL_OVERCURRENT: the sensed current has stayed above the limit for one whole slot while the rail is on, and the
camera enters FAULT with cause RAIL_OVERCURRENT. The limit is the one that governs at this boundary: a new limit
governs from the next boundary on, and a last sensed current not above it starts no fault (DEDUCED, log 16). Each cue
that includes the port records FAULT. (That the statuses of a cue with an empty profile stay is the model's choice,
log 15.)

A camera entering FAULT answers every host request whose job had not started with BAD_STATE. -/
def Obligations.RailCurrent : Prop :=
  (∀ (p : PortId) (m : Nat) (s : State),
     (s.clock % 10 = 0 → (s.port p).power.railOn = true →
       (m ≤ 8000 → exec (.railSense p m) s = .next (s.modPort p (fun c => { c with
         limitInForce := c.railLimit
         sensed := some ⟨s.clock, m⟩
         reading := if c.reading = none ∧ c.run ≠ 0 then none else some m
         overFrom := if m ≤ c.railLimit then none else some (c.overFrom.getD s.clock) }))) ∧
       (8000 < m → ∃ x, x ≤ 8000 ∧ exec (.railSense p m) s = .next { s.modPort p (fun c => { c with
         limitInForce := c.railLimit
         sensed := some ⟨s.clock, m⟩
         reading := if c.reading = none ∧ c.run ≠ 0 then none else some x
         overFrom := if m ≤ c.railLimit then none else some (c.overFrom.getD s.clock) }) with
           freeCount := s.freeCount + 1 })) ∧
     (s.clock % 10 ≠ 0 ∨ (s.port p).power.railOn = false → exec (.railSense p m) s = .next s)) ∧
  (∀ (p : PortId) (s : State),
     (∀ t, s.clock % 10 = 0 → (s.port p).power.railOn = true → (s.port p).overFrom = some t → 10 ≤ diffMs s.clock t →
       (∀ x, (s.port p).sensed = some x →
         (if x.time = s.clock then (s.port p).limitInForce else (s.port p).railLimit) < x.current) →
       ∃ u : State, exec (.railOvercurrent p) s = .next (finish u) ∧ FaultEntered p .railOvercurrent s u) ∧
     (∀ x, (s.port p).sensed = some x →
       x.current ≤ (if x.time = s.clock then (s.port p).limitInForce else (s.port p).railLimit) →
       exec (.railOvercurrent p) s = .next s) ∧
     ((s.port p).overFrom = none → exec (.railOvercurrent p) s = .next s)) ∧
  (∀ (p : PortId) (cause : FaultCause) (s : State) (e : ReplyEntry) (j : Job), e ∈ s.line → e.body = none →
     j ∈ (s.port p).queue → j.started = false → (∃ a, j.kind = .hostRead e.ticket a) ∨
       (∃ a v, j.kind = .hostWrite e.ticket a v) →
     ({ e with body := some [0x05#8] } : ReplyEntry) ∈ (enterFault p cause s).line)

/-- CAMERA_GET: the reply carries the camera record, and clears the grade changed flag and the change notes; a port above
23 is refused.

The 66 bytes of the record, by Table 71: each field of the port's record at its offset and in its encoding, the enumerations in
the codes of Table 67, an absent or VOID value by its marker. The bound identity is that of the entry bound to the port. -/
def Obligations.CameraGet : Prop :=
  (∀ (p : PortId) (s : State) (b : List Byte) (c : Port), b = cameraBytes p s → c = s.port p →
    b.length = 66 ∧ u8 b 0 = p.val ∧
    u8 b 1 = (match c.power with
      | .vacant => 1
      | .deep => 2
      | .waking _ => 3
      | .ready _ _ => 4
      | .armed _ _ => 5
      | .doze _ => 6
      | .keepwarm _ => 7
      | .pausing _ _ => 8
      | .fault _ => 9) ∧
    (∀ w, c.power = .waking w → u8 b 2 = (match w.phase with
      | .ramp _ => 1
      | .resetHold _ _ _ => 2
      | .initWait _ _ => 3
      | .calibrate _ => 4
      | .restore _ => 5
      | .resume _ _ => 6) ∧
      u32 b 61 = carried (some w.forecast.ready) ∧ u8 b 65 = w.forecast.needed.elim 0 (· % 256)) ∧
    (c.power.isWaking = false → u8 b 2 = 0 ∧ u32 b 61 = carried none ∧ u8 b 65 = 0) ∧
    (∀ ps : Pause, ((∃ w, c.power = .waking w ∧ w.pending = some ps) ∨ (∃ full, c.power = .armed (some ps) full) →
        u8 b 3 = ps.target.code ∧ u8 b 4 = ps.origin.code) ∧
      (∀ t, c.power = .pausing ps t → u8 b 5 = ps.target.code ∧ u8 b 6 = ps.origin.code)) ∧
    (c.power.pending? = none → u8 b 3 = 0 ∧ u8 b 4 = 0) ∧ (c.power.isPausing = false → u8 b 5 = 0 ∧ u8 b 6 = 0) ∧
    (Target.doze.code = 1 ∧ Target.keepwarm.code = 2 ∧ Target.deep.code = 3 ∧ Origin.host.code = 1 ∧
      Origin.auto.code = 2) ∧
    ((u8 b 7).testBit 0 = c.hostPause ∧ (u8 b 7).testBit 1 = c.offload ∧ (u8 b 7).testBit 2 = c.mediaFull ∧
      (u8 b 7).testBit 3 = c.gradeChanged ∧ (u8 b 7).testBit 4 = (s.boundIdent p).isSome ∧
      (u8 b 7).testBit 5 = c.profile.isSome ∧ (u8 b 7).testBit 6 = c.resv.isSome ∧
      (u8 b 7).testBit 7 = c.power.isWaking) ∧
    u8 b 8 = (match c.power with
      | .fault .railOvercurrent => 1
      | .fault .laneLost => 2
      | .fault .wakeFailed => 3
      | _ => 0) ∧
    identAt b 9 = (s.boundIdent p).getD 0 ∧ CarriesProfile b 15 c.profile ∧
    u8 b 25 = c.grade.elim 255 (· % 256) ∧ u16 b 26 = c.reading.elim 65535 (· % 65536) ∧ u8 b 28 = c.run % 256 ∧
    u32 b 29 = carried (match c.power with
      | .ready rest _ => rest
      | _ => none) ∧
    u32 b 33 = carried (match c.power with
      | .doze limit => limit
      | _ => none) ∧
    u32 b 37 = carried (match c.power with
      | .keepwarm timer => timer
      | _ => none) ∧
    u32 b 41 = carried (match c.power with
      | .pausing _ wait => some wait
      | _ => none) ∧
    u8 b 45 = c.station.elim 255 (·.val) ∧
    (u8 b 46 < 4 ∧ (u8 b 46).testBit 0 = c.noteAbandoned ∧ (u8 b 46).testBit 1 = c.noteConflict) ∧
    (c.resv = none → u8 b 47 = 0 ∧ u32 b 48 = carried none ∧ u8 b 52 = 0 ∧ u16 b 53 = 0 ∧ u32 b 55 = carried none ∧
      u8 b 59 = 0 ∧ u8 b 60 = 0) ∧
    (∀ v, c.resv = some v → u8 b 47 = (match v.kind with
        | .deep => 1
        | .resume => 2) ∧
      u32 b 48 = carried (some v.start) ∧ u8 b 52 = v.length % 256 ∧ u16 b 53 = v.current % 65536 ∧
      u32 b 55 = carried (some v.ready) ∧ u8 b 59 = v.needed.elim 0 (· % 256) ∧
      u8 b 60 = (if v.started then 1 else 0))) ∧
  (∀ (p : PortId) (s : State),
    (s.boundIdent p = none ↔ ∀ k e, s.entryAt k = some e → e.bound ≠ some p) ∧
    (∀ k e, TableUnique s.table → s.entryAt k = some e → e.bound = some p → s.boundIdent p = some e.ident)) ∧
  ∀ (r : Request) (s : State), Taken .cameraGet r s →
    (∀ h : u8 r.body 0 < 24, exec (.cameraGet r) s = .next
      ((s.replied 0x88#8 r.tag (0x00#8 :: cameraBytes ⟨u8 r.body 0, h⟩ s)).modPort ⟨u8 r.body 0, h⟩ (fun c => { c with
        gradeChanged := false, noteAbandoned := false, noteConflict := false }))) ∧
    (24 ≤ u8 r.body 0 → exec (.cameraGet r) s = .next (s.replied 0x88#8 r.tag [0x04#8]))

/-- CLEAR_FAULT: the run becomes 0, and the camera enters DEEP when the port is enabled and its presence input high,
keeping its identity and working profile, and is replanned there (R123), and an IDENTIFY is owed where it has no working
profile or its rescan note is set; else VACANT; in any other state BAD_STATE, and a port above 23 BAD_ARG. At
an entry to VACANT what R5 does is done: host requests answered, and the cues record it. (That the statuses of a cue
with an empty profile stay is the model's choice, log 15.) (Its kind code is free, log 31.) -/
def Obligations.ClearFault : Prop :=
  (∀ (r : Request) (s : State), Taken .clearFault r s → 24 ≤ u8 r.body 0 →
    exec (.clearFault r) s = .next (s.replied (replyKind .clearFault) r.tag [0x04#8])) ∧
  ∀ (r : Request) (s : State) (h : u8 r.body 0 < 24), Taken .clearFault r s →
    (∀ cause, (s.port ⟨u8 r.body 0, h⟩).power = .fault cause →
      ((s.port ⟨u8 r.body 0, h⟩).enabled = true → (s.port ⟨u8 r.body 0, h⟩).presence = true →
        ∃ u v : State, exec (.clearFault r) s = .next (finish (u.replied (replyKind .clearFault) r.tag [0x00#8])) ∧
          (v.port ⟨u8 r.body 0, h⟩).power = .deep ∧ (v.port ⟨u8 r.body 0, h⟩).run = 0 ∧
          (v.port ⟨u8 r.body 0, h⟩).profile = (s.port ⟨u8 r.body 0, h⟩).profile ∧
          (v.port ⟨u8 r.body 0, h⟩).resv = (s.port ⟨u8 r.body 0, h⟩).resv ∧
          (v.port ⟨u8 r.body 0, h⟩).grade = (s.port ⟨u8 r.body 0, h⟩).grade ∧
          (v.port ⟨u8 r.body 0, h⟩).hostPause = (s.port ⟨u8 r.body 0, h⟩).hostPause ∧
          v.table = s.table ∧ v.still = s.still ∧ (∀ q, q ≠ ⟨u8 r.body 0, h⟩ → v.port q = s.port q) ∧
          ((s.port ⟨u8 r.body 0, h⟩).profile ≠ none → (s.port ⟨u8 r.body 0, h⟩).rescan = false →
            u = replan ⟨u8 r.body 0, h⟩ v) ∧
          ((s.port ⟨u8 r.body 0, h⟩).profile = none ∨ (s.port ⟨u8 r.body 0, h⟩).rescan = true →
            u = (replan ⟨u8 r.body 0, h⟩ v).modPort ⟨u8 r.body 0, h⟩ (fun c => { c with rescan := false }.oweIdentify)) ∧
          (u.port ⟨u8 r.body 0, h⟩).power = .deep ∧ (u.port ⟨u8 r.body 0, h⟩).run = 0 ∧
          (u.port ⟨u8 r.body 0, h⟩).profile = (s.port ⟨u8 r.body 0, h⟩).profile ∧ u.table = s.table ∧
          u.marked ⟨u8 r.body 0, h⟩ ∧ (∀ q, q ≠ ⟨u8 r.body 0, h⟩ → u.port q = s.port q) ∧ u.still = s.still ∧
          ((s.port ⟨u8 r.body 0, h⟩).profile = none ∨ (s.port ⟨u8 r.body 0, h⟩).rescan = true →
            ∃ j ∈ (u.port ⟨u8 r.body 0, h⟩).queue ++ (u.port ⟨u8 r.body 0, h⟩).waitLine, j.isIdentify = true)) ∧
      ((s.port ⟨u8 r.body 0, h⟩).enabled = false ∨ (s.port ⟨u8 r.body 0, h⟩).presence = false →
        ∃ u : State, exec (.clearFault r) s = .next (finish (u.replied (replyKind .clearFault) r.tag [0x00#8])) ∧
          VacantEntered ⟨u8 r.body 0, h⟩ s u)) ∧
    ((s.port ⟨u8 r.body 0, h⟩).power.isFault = false →
      exec (.clearFault r) s = .next (s.replied (replyKind .clearFault) r.tag [0x05#8]))

/-- WAKE by the camera's state: it cancels a pause (the rest timer of a station member starts), leaves READY (the rest
timer of a station member starts anew; that a rest hold then stays is the model's choice, log 26, DEDUCED), removes a
pending pause, answers OK with no new placement for a started reservation, places a paused camera that the budget
admits at the earliest fitting start for no cue, and is otherwise refused; a port above 23 is refused BAD_ARG. The
admission leaves out an unstarted reservation, which is then released. (That a camera of grade 7, or without a profile, is
refused also when it holds a started reservation is the model's choice, log 52.) -/
def Obligations.WakeByState : Prop :=
  ∀ (r : Request) (s : State), Taken .wake r s →
    (24 ≤ u8 r.body 0 → exec (.wake r) s = .next (s.replied 0x89#8 r.tag [0x04#8])) ∧
    ∀ p : PortId, u8 r.body 0 = p.val →
    (∀ ps w, (s.port p).power = .pausing ps w →
      ∃ u : State, exec (.wake r) s = .next (finish (u.replied 0x89#8 r.tag [0x00#8])) ∧
        (u.port p).power = .ready ((s.stationOf p).map (fun f => addMs s.clock (f.linger * 1000))) none ∧
        (u.port p).hostPause = false ∧ u.marked p ∧ (∀ q, q ≠ p → u.port q = s.port q)) ∧
    (∀ rest hold, (s.port p).power = .ready rest hold →
      ∃ u : State, exec (.wake r) s = .next (finish (u.replied 0x89#8 r.tag [0x00#8])) ∧
        (u.port p).power = .ready (match s.stationOf p with
          | some f => some (addMs s.clock (f.linger * 1000))
          | none => rest) hold ∧
        (u.port p).hostPause = false ∧ u.still = s.still ∧ (∀ q, q ≠ p → u.port q = s.port q)) ∧
    ((s.port p).power.isArmed = true ∨ (s.port p).power.isWaking = true →
      ∃ u : State, exec (.wake r) s = .next (finish (u.replied 0x89#8 r.tag [0x00#8])) ∧
        (u.port p).power.pending? = none ∧ (u.port p).power.code = (s.port p).power.code ∧
        (u.port p).hostPause = false ∧ (∀ q, q ≠ p → u.port q = s.port q)) ∧
    (∀ t f, (s.port p).power.paused? = some t → (s.port p).grade ≠ some 7 → (s.port p).profile = some f →
      ((s.port p).startedResv = true →
        ∃ u : State, exec (.wake r) s = .next (finish (u.replied 0x89#8 r.tag [0x00#8])) ∧
          u.port p = { s.port p with hostPause := false, camMark := (u.port p).camMark } ∧
          (∀ q, q ≠ p → u.port q = s.port q)) ∧
      ((s.port p).startedResv = false →
        (∀ k, s.committed - (s.port p).unstartedFigure + f.awake ≤ s.steady →
          EarliestFit (releaseUnstarted p s) (windowCurrent t f) (windowLength t f) k →
          ∃ u : State, exec (.wake r) s = .next (finish (u.replied 0x89#8 r.tag [0x00#8])) ∧
            (u.port p).resv = some (reservationAt t f (s.shadowOf p).length (addSlot s.nowSlot k) none) ∧
            (u.port p).power = (s.port p).power ∧ (u.port p).hostPause = false ∧
            (u.port p).commitment = some f.awake ∧ (∀ q, q ≠ p → u.port q = s.port q)) ∧
        (s.steady < s.committed - (s.port p).unstartedFigure + f.awake →
          exec (.wake r) s = .next (s.replied 0x89#8 r.tag [0x0B#8])))) ∧
    ((s.port p).power.paused?.isSome = true → (s.port p).grade = some 7 ∨ (s.port p).profile = none →
      exec (.wake r) s = .next (s.replied 0x89#8 r.tag [0x05#8])) ∧
    ((s.port p).power.isLost = true → exec (.wake r) s = .next (s.replied 0x89#8 r.tag [0x05#8]))

/-- PAUSE of a READY camera with no offload and no host or preparation job in flight: DOZE and DEEP at once, KEEPWARM at
once with a keep-warm timer of the interval of Table 17 (at grade 7 it goes on to DOZE); with an offload it waits in
PAUSING. The host-pause flag is set.

PAUSE is refused BAD_STATE in FAULT and VACANT, for a target lighter than DEEP in DEEP and for KEEPWARM in DOZE;
BAD_ARG for a port above 23 or an unknown target; and is recorded as pending in WAKING and ARMED, the origin staying
HOST. In PAUSING it is the new target, with the wait as it was. DOZE and KEEPWARM go to DEEP, and KEEPWARM to DOZE, at
once; the target the camera is in changes no state. A taken PAUSE sets the host-pause flag, releases an unstarted
reservation, with the commitment of a paused camera, keeps a started one, and makes the camera's entry in every
planned cue PARKED. -/
def Obligations.PauseRequest : Prop :=
  (∀ (r : Request) (s : State) (p : PortId) (t : Target) (rest hold : Option Nat), Taken .pause r s →
     u8 r.body 0 = p.val → Target.ofCode (u8 r.body 1) = some t → (s.port p).power = .ready rest hold →
     ∃ u : State, exec (.pause r) s = .next (finish (u.replied 0x8A#8 r.tag [0x00#8])) ∧ (u.port p).hostPause = true ∧
       u.table = s.table ∧ (∀ q, q ≠ p → u.port q = s.port q) ∧ u.still = s.still ∧ u.marked p ∧
       ((s.port p).offload = true ∨ (s.port p).pauseHeldByJob = true →
         (u.port p).power = .pausing ⟨t, .host⟩ (addMs s.clock (s.pauseWaitOf p * 1000))) ∧
       ((s.port p).offload = false → (s.port p).pauseHeldByJob = false →
         (t = .doze → (u.port p).power = .doze (s.dozeTimer p) ∧
           ∃ j ∈ (u.port p).queue ++ (u.port p).waitLine, j.kind = .powerMode .doze) ∧
         (t = .deep → (u.port p).power = .deep ∧ (u.port p).reading = some 0 ∧ (∀ e ∈ u.adv, e.port ≠ p)) ∧
         (t = .keepwarm → (s.port p).grade ≠ some 7 → (u.port p).power = .keepwarm (some (addMs s.clock
           ((match s.stationOf p with
             | some f => f.keepBase
             | none => 30) * warmFactor (s.port p).grade)))) ∧
         (t = .keepwarm → (s.port p).grade = some 7 → (u.port p).power = .doze (s.dozeTimer p)))) ∧
  (∀ (r : Request) (s : State), Taken .pause r s →
     (24 ≤ u8 r.body 0 ∨ Target.ofCode (u8 r.body 1) = none →
       exec (.pause r) s = .next (s.replied 0x8A#8 r.tag [0x04#8])) ∧
     (∀ (p : PortId) (t : Target), u8 r.body 0 = p.val → Target.ofCode (u8 r.body 1) = some t →
       ((s.port p).power.isLost = true ∨ ((s.port p).power = .deep ∧ t ≠ .deep) ∨
           ((s.port p).power.paused? = some .doze ∧ t = .keepwarm) →
         exec (.pause r) s = .next (s.replied 0x8A#8 r.tag [0x05#8])) ∧
       (∀ w, (s.port p).power = .waking w → ∃ u : State, exec (.pause r) s =
           .next (finish (u.replied 0x8A#8 r.tag [0x00#8])) ∧ (u.port p).hostPause = true ∧
           (u.port p).power = .waking { w with pending := some ⟨t, .host⟩ }) ∧
       (∀ ps full, (s.port p).power = .armed ps full → ∃ u : State, exec (.pause r) s =
           .next (finish (u.replied 0x8A#8 r.tag [0x00#8])) ∧ (u.port p).hostPause = true ∧
           (u.port p).power = .armed (some ⟨t, .host⟩) full) ∧
       (∀ ps w, (s.port p).power = .pausing ps w → ∃ u : State, exec (.pause r) s =
           .next (finish (u.replied 0x8A#8 r.tag [0x00#8])) ∧ (u.port p).hostPause = true ∧
           (u.port p).power = .pausing ⟨t, .host⟩ w) ∧
       (t = .deep → (s.port p).power.paused? = some .doze ∨ (s.port p).power.paused? = some .keepwarm →
         ∃ u : State, exec (.pause r) s = .next (finish (u.replied 0x8A#8 r.tag [0x00#8])) ∧
           (u.port p).hostPause = true ∧ (u.port p).power = .deep ∧ (u.port p).reading = some 0 ∧ u.marked p ∧
           (u.port p).offload = false ∧ (∀ e ∈ u.adv, e.port ≠ p)) ∧
       (t = .doze → (s.port p).power.paused? = some .keepwarm →
         ∃ u : State, exec (.pause r) s = .next (finish (u.replied 0x8A#8 r.tag [0x00#8])) ∧
           (u.port p).hostPause = true ∧ (u.port p).power = .doze (s.dozeTimer p) ∧ u.marked p ∧
           ∃ j ∈ (u.port p).queue ++ (u.port p).waitLine, j.kind = .powerMode .doze) ∧
       ((s.port p).power.paused? = some t →
         ∃ u : State, exec (.pause r) s = .next (finish (u.replied 0x8A#8 r.tag [0x00#8])) ∧
           (u.port p).hostPause = true ∧ (u.port p).power = (s.port p).power ∧ (u.port p).queue = (s.port p).queue ∧
           u.adv = s.adv) ∧
       ((s.port p).power.isLost = false → ((s.port p).power = .deep → t = .deep) →
         ((s.port p).power.paused? = some .doze → t ≠ .keepwarm) →
         ∃ u : State, exec (.pause r) s = .next (finish (u.replied 0x8A#8 r.tag [0x00#8])) ∧
           (u.port p).hostPause = true ∧
           (u.port p).resv = (if (s.port p).startedResv then (s.port p).resv else none) ∧
           ((s.port p).unstarted = true → (s.port p).power.paused?.isSome = true → (u.port p).commitment = none) ∧
           (∀ c ∈ u.cues, c.state.planned? = true → ∀ m ∈ c.members, m.port = p → m.disp = some .parked ∧ m.ready = none) ∧
           u.table = s.table ∧ u.still = s.still ∧ (∀ q, q ≠ p → u.port q = s.port q))))

/-- ATTR_GET and ATTR_SET: the checks in order, a port above 23 being BAD_ARG; a taken one enqueues its job and waits in
the reply line for its answer; a write-only number is answered VOID without an exchange. -/
def Obligations.AttrRequests : Prop :=
  (∀ (r : Request) (s : State), 24 ≤ u8 r.body 0 →
    (Taken .attrGet r s → exec (.attrGet r) s = .next (s.replied 0x8B#8 r.tag [0x04#8])) ∧
    (Taken .attrSet r s → exec (.attrSet r) s = .next (s.replied 0x8C#8 r.tag [0x04#8]))) ∧
  ∀ (r : Request) (s : State) (p : PortId), u8 r.body 0 = p.val →
    (Taken .attrGet r s →
      (63 < u8 r.body 1 ∨ (25 ≤ u8 r.body 1 ∧ u8 r.body 1 ≤ 31) →
        exec (.attrGet r) s = .next (s.replied 0x8B#8 r.tag [0x04#8])) ∧
      (13 ≤ u8 r.body 1 ∧ u8 r.body 1 ≤ 15 →
        exec (.attrGet r) s = .next (s.replied 0x8B#8 r.tag [0x00#8, 0x00#8, 0x00#8])) ∧
      (badReadAttr (u8 r.body 1) = false → writeOnlyAttr (u8 r.body 1) = false →
        ((s.port p).power.admitsRead (u8 r.body 1) = false →
          exec (.attrGet r) s = .next (s.replied 0x8B#8 r.tag [0x05#8])) ∧
        ((s.port p).power.admitsRead (u8 r.body 1) = true → 8 ≤ (s.port p).queue.length →
          exec (.attrGet r) s = .next (s.replied 0x8B#8 r.tag [0x06#8])) ∧
        ((s.port p).power.admitsRead (u8 r.body 1) = true → (s.port p).queue.length < 8 →
          exec (.attrGet r) s = .next (finish (({ s with
            line := s.line ++ [⟨s.tickets, 0x8B#8, r.tag, none⟩],
              tickets := s.tickets + 1 } : State).modPort p (fun c => { c with
              queue := c.queue ++ [⟨.hostRead s.tickets (u8 r.body 1), false, false, false⟩] })))))) ∧
    (Taken .attrSet r s →
      (badWriteAttr (u8 r.body 1) = true → exec (.attrSet r) s = .next (s.replied 0x8C#8 r.tag [0x04#8])) ∧
      (badWriteAttr (u8 r.body 1) = false →
        ((s.port p).power.admitsWrite (u8 r.body 1) = false →
          exec (.attrSet r) s = .next (s.replied 0x8C#8 r.tag [0x05#8])) ∧
        ((s.port p).power.admitsWrite (u8 r.body 1) = true → 8 ≤ (s.port p).queue.length →
          exec (.attrSet r) s = .next (s.replied 0x8C#8 r.tag [0x06#8])) ∧
        ((s.port p).power.admitsWrite (u8 r.body 1) = true → (s.port p).queue.length < 8 →
          exec (.attrSet r) s = .next (finish (({ s with
            line := s.line ++ [⟨s.tickets, 0x8C#8, r.tag, none⟩],
              tickets := s.tickets + 1 } : State).modPort p (fun c => { c with
              queue := c.queue ++
                [⟨.hostWrite s.tickets (u8 r.body 1) (r.body.getD 2 0#8), false, false, false⟩] })))))) ∧
    (∀ a, badWriteAttr a = true ↔ (63 < a ∨ (24 ≤ a ∧ a ≤ 31) ∨ a ≤ 12 ∨ a = 14 ∨ a = 15)) ∧
    (∀ (w : Power) (a : Nat), w.admitsRead a = true ↔
      w.isLost = false ∧ ¬ ((16 ≤ a ∧ a ≤ 23) ∧ (w.isDeep = true ∨ w.isWaking = true))) ∧
    (∀ (w : Power) (a : Nat), w.admitsWrite a = true ↔
      w.isLost = false ∧ ¬ ((a = 13 ∨ (16 ≤ a ∧ a ≤ 23)) ∧ (w.isDeep = true ∨ w.isWaking = true)))

/-! ## Wakes, reservations, timers -/

/-- RAMP_END: after its inrush slots a deep wake passes to RESET_HOLD, which asserts reset-out, lasts five slots and owes
the write of 0x01 to attribute 14.

RESET_HOLD_END: reset-out is released on time; the camera passes to INIT_WAIT, with read marks at every fifth slot and
the init maximum from the release, when its reset write has been made, and else waits for it.

INIT_WAIT_READ owes a read of attribute 0 and sets the next mark five slots on; INIT_MAX_EXPIRY passes the camera to
CALIBRATE, which owes the write of 0xA5 to attribute 13.

RESUME_READ: at the expiry of the resume latency, and at each of the further marks, a read of attribute 0 is owed. -/
def Obligations.WakePhaseTimers : Prop :=
  (∀ (p : PortId) (s : State) (w : Wake) (e : Nat), (s.port p).power = .waking w → w.phase = .ramp e →
     s.slotReached e = true →
     exec (.rampEnd p) s = .next (finish (s.modPort p (fun c => { c with
       power := .waking { w with phase := .resetHold (addSlot e 5) false false, owed := some .resetWrite } }))) ∧
     (∀ now, (WakeEx.resetWrite.exchange now).op = .write ∧ (WakeEx.resetWrite.exchange now).attr = 14 ∧
       (WakeEx.resetWrite.exchange now).data = 0x01#8) ∧
     (Power.waking { w with phase := .resetHold (addSlot e 5) false false, owed := some .resetWrite }).resetOut = true) ∧
  (∀ (p : PortId) (s : State) (w : Wake) (e : Nat) (written : Bool) (f : Profile), (s.port p).power = .waking w →
     w.phase = .resetHold e false written → s.slotReached e = true → (s.port p).profile = some f →
     (written = true → exec (.resetHoldEnd p) s = .next (finish (s.modPort p (fun c => { c with
       power := .waking { w with phase := .initWait (addSlot e 5) (addSlot e f.initMax), owed := none } })))) ∧
     (written = false → exec (.resetHoldEnd p) s = .next (finish (s.modPort p (fun c => { c with
       power := .waking { w with phase := .resetHold e true false } })))) ∧
     (Power.waking { w with phase := .resetHold e true false }).resetOut = false) ∧
  (∀ (p : PortId) (s : State) (w : Wake) (r m : Nat), (s.port p).power = .waking w → w.phase = .initWait r m →
     (s.slotReached r = true → exec (.initWaitRead p) s = .next (finish (s.modPort p (fun c => { c with
       power := .waking { w with phase := .initWait (addSlot r 5) m, owed := some .initRead } })))) ∧
     (s.slotReached m = true → exec (.initMaxExpiry p) s = .next (finish (s.modPort p (fun c => { c with
       power := .waking { w with phase := .calibrate none, owed := some .calWrite } })))) ∧
     (∀ now, (WakeEx.initRead.exchange now).op = .read ∧ (WakeEx.initRead.exchange now).attr = 0 ∧
       (WakeEx.calWrite.exchange now).op = .write ∧ (WakeEx.calWrite.exchange now).attr = 13 ∧
       (WakeEx.calWrite.exchange now).data = 0xA5#8)) ∧
  (∀ (p : PortId) (s : State) (w : Wake) (t n : Nat), (s.port p).power = .waking w →
     w.phase = .resume (some t) n → reachedMs s.clock t = true →
     exec (.resumeRead p) s = .next (finish (s.modPort p (fun c => { c with
       power := .waking { w with phase := .resume none n, owed := some .resumeRead } }))) ∧
     (∀ now, (WakeEx.resumeRead.exchange now).op = .read ∧ (WakeEx.resumeRead.exchange now).attr = 0))

/-- CALIBRATE_WAIT_END: the camera passes to RESTORE, which owes the write of the shadow's first pair; with an empty
shadow, or no listed identity, the camera enters READY, and a pending pause is taken at that entry; without one the rest timer
of a station member starts, unless the wake was made for a cue that is still planned. -/
def Obligations.CalibrateWaitEnd : Prop :=
  ∀ (p : PortId) (s : State) (w : Wake) (e : Nat), (s.port p).power = .waking w → w.phase = .calibrate (some e) →
    s.slotReached e = true →
    (∀ pr rest, s.shadowOf p = pr :: rest →
      exec (.calibrateWaitEnd p) s = .next (finish (s.modPort p (fun c => { c with
        power := .waking { w with phase := .restore (pr :: rest), owed := some (.restoreWrite pr) } })))) ∧
    (s.shadowOf p = [] → w.pending = none →
      ∃ u : State, exec (.calibrateWaitEnd p) s = .next (finish u) ∧ (u.port p).power.isReady = true ∧
        (u.port p).power = .ready (s.restAfterWake p w.forecast) none ∧ u.marked p ∧
        u.table = s.table ∧ u.still = s.still ∧ (∀ q, q ≠ p → u.port q = s.port q)) ∧
    (∀ ps, s.shadowOf p = [] → w.pending = some ps →
      ∃ u : State, exec (.calibrateWaitEnd p) s = .next (finish u) ∧ PauseTaken p ps s u ∧ u.marked p ∧
        u.table = s.table ∧ u.still = s.still ∧ (∀ q, q ≠ p → u.port q = s.port q))

/-- KEEPWARM_TIMER_EXPIRY: the timer stops and a PING is owed: enqueued, or marked when the queue is full. The timer
starts again, at the end of the PING and at each entry to KEEPWARM, with the interval of Table 17: the base of the
port's station, 30 s in none, times the multiplier of the grade; at grade 7 the camera goes on to DOZE.

A PING that succeeds is a thermal read, and its end then starts the keep-warm timer anew; one that fails its retry
makes the grade VOID, and its end starts the timer too. A camera that has left KEEPWARM gets no timer. The freed entry
is then served. (The ages of an attempt at which a response or the limit counts are the model's choice, log 9, and so
is the run of 3 that stays in FAULT, log 12.)

DOZE_LIMIT_EXPIRY: an automatic pause to DEEP: the rail goes off, every advance entry of the port is invalidated, the
identity entry keeps its shadow; the host-pause flag is as it was.

PAUSE_WAIT_EXPIRY: the pause is abandoned: the camera returns to READY with the change note PAUSE_ABANDONED, and the rest timer
of a station member starts. -/
def Obligations.RestStateTimers : Prop :=
  (∀ (p : PortId) (s : State),
     (∀ t : Nat, (s.port p).power = .keepwarm (some t) → reachedMs s.clock t = true →
       (s.port p).markPing = false → (∀ j ∈ (s.port p).queue, j.isPing = false) →
       ((s.port p).queue.length < 8 → exec (.keepwarmTimerExpiry p) s = .next (finish (s.modPort p (fun c => { c with
         power := .keepwarm none, queue := c.queue ++ [⟨.ping, false, false, false⟩] })))) ∧
       (8 ≤ (s.port p).queue.length → exec (.keepwarmTimerExpiry p) s = .next (finish (s.modPort p (fun c => { c with
         power := .keepwarm none, markPing := true }))))) ∧
     (∀ k, (s.port p).power = .keepwarm k →
       ((s.port p).grade ≠ some 7 → pingEnd p s = s.modPort p (fun c => { c with
         power := .keepwarm (some (addMs s.clock ((match s.stationOf p with
           | some f => f.keepBase
           | none => 30) * warmFactor c.grade))) })) ∧
       ((s.port p).grade = some 7 → (s.port p).unstarted = false →
         ((pingEnd p s).port p).power = .doze (s.dozeTimer p)))) ∧
  ((∀ (p : PortId) (s : State) (e : Exchange) (j : Job) (js : List Job) (st d : Byte) (a : Bool),
     JobSucceeds p e j js st d s → e.op = .ping → j.kind = .ping →
     exec (.laneResponse p st d (responseCheck st d) a) s = .next (finish
       ((pingEnd p (thermalRead p d (s.jobDone p a js))).modPort p Port.serveRoom))) ∧
   (∀ (p : PortId) (s : State) (e : Exchange) (j : Job) (js : List Job) (a : Bool),
     JobFails p e j js s → e.op = .ping → j.kind = .ping →
     ∃ v : State, exec (.responseLimitExpiry p a) s = .next (finish ((pingEnd p v).modPort p Port.serveRoom)) ∧
       (v.port p).power = (s.port p).power ∧ (v.port p).grade = none ∧ (v.port p).run = (s.port p).run + 1 ∧
       (v.port p).lane = none ∧ v.adv = s.adv ∧ v.cues = s.cues ∧ v.table = s.table ∧ v.still = s.still ∧
       (∀ q, q ≠ p → v.port q = s.port q)) ∧
   (∀ (p : PortId) (s : State), (s.port p).power.isKeepwarm = false → pingEnd p s = s)) ∧
  (∀ (p : PortId) (s : State) (t : Nat), (s.port p).power = .doze (some t) → reachedMs s.clock t = true →
     ∃ u : State, exec (.dozeLimitExpiry p) s = .next (finish u) ∧ (u.port p).power = .deep ∧
       (u.port p).reading = some 0 ∧ (∀ e ∈ u.adv, e.port ≠ p) ∧ u.table = s.table ∧
       (u.port p).hostPause = (s.port p).hostPause ∧ u.marked p ∧ u.still = s.still ∧
       (∀ q, q ≠ p → u.port q = s.port q)) ∧
  (∀ (p : PortId) (s : State) (ps : Pause) (t : Nat), (s.port p).power = .pausing ps t → reachedMs s.clock t = true →
     ∃ u : State, exec (.pauseWaitExpiry p) s = .next (finish u) ∧ (u.port p).power.isReady = true ∧
       (u.port p).power = .ready (s.restFrom p) none ∧
       (u.port p).noteAbandoned = true ∧ u.marked p ∧ u.table = s.table ∧ u.still = s.still ∧
       (∀ q, q ≠ p → u.port q = s.port q))

/-- REST_TIMER_EXPIRY: a camera whose station's next needy cue has its required-ready slot within the linger, or behind
now, is held for it; otherwise an automatic pause to the station's rest state is taken, KEEPWARM with a keep-warm
timer of the interval of Table 17. (That the linger is the station's present one, when a STATION_SET has changed it
since the timer started, is the model's choice, log 48.)

The next need is the first cue of the list that belongs to the station and is WAITING, PLANNED, PREPARING or in FIRE_WAIT, and
there is none exactly when no cue of the list is such. The required-ready slot of a cue lies F + p + g slots before its slot
T ÷ 10, modulo 400,000,000, where F is the focus lead in slots, rounded up, and p and g are the preparation time and the
guard of its station. -/
def Obligations.RestTimerExpiry : Prop :=
  (∀ (s : State) (st : StationId) (needs : Cue → Prop),
    (∀ d, needs d ↔ d.station = st ∧
      (d.state = .waiting ∨ d.state = .planned ∨ d.state = .preparing ∨ d.state = .fireWait)) →
    (s.nextNeed st = none ↔ ∀ d ∈ s.cues, ¬ needs d) ∧
    ∀ c, s.nextNeed st = some c ↔
      ∃ pre post, s.cues = pre ++ c :: post ∧ needs c ∧ ∀ d ∈ pre, ¬ needs d) ∧
  (∀ (s : State) (c : Cue) (f : Station), f = s.station c.station →
    s.requiredReady c < 400000000 ∧
    (s.requiredReady c + ((f.focusLead + 9) / 10 + f.prepTime + f.guardSlots)) % 400000000 = c.time / 10 % 400000000) ∧
  ∀ (p : PortId) (s : State) (st : StationId) (t : Nat) (hold : Option Nat),
    (s.port p).power = .ready (some t) hold → (s.port p).station = some st → reachedMs s.clock t = true →
    (∀ c, s.nextNeed st = some c →
      (200000000 ≤ diffSlot (s.requiredReady c) s.nowSlot ∨
        diffSlot (s.requiredReady c) s.nowSlot ≤ 100 * (s.station st).linger) →
      exec (.restTimerExpiry p) s = .next (finish (s.modPort p (fun d => { d with power := .ready none (some c.id) })))) ∧
    ((∀ c, s.nextNeed st = some c → 100 * (s.station st).linger < diffSlot (s.requiredReady c) s.nowSlot ∧
        diffSlot (s.requiredReady c) s.nowSlot < 200000000) →
      ∃ u : State, exec (.restTimerExpiry p) s = .next (finish u) ∧
        (u.port p).hostPause = (s.port p).hostPause ∧ u.table = s.table ∧ u.still = s.still ∧
        (∀ q, q ≠ p → u.port q = s.port q) ∧ u.marked p ∧
        ((s.port p).offload = true ∨ (s.port p).pauseHeldByJob = true →
          (u.port p).power = .pausing ⟨(s.station st).restState, .auto⟩ (addMs s.clock (s.pauseWaitOf p * 1000))) ∧
        ((s.port p).offload = false → (s.port p).pauseHeldByJob = false →
          ((s.station st).restState = .doze → (u.port p).power = .doze (s.dozeTimer p)) ∧
          ((s.station st).restState = .deep → (u.port p).power = .deep ∧ (u.port p).reading = some 0 ∧
            (∀ e ∈ u.adv, e.port ≠ p)) ∧
          ((s.station st).restState = .keepwarm → (s.port p).grade ≠ some 7 →
            (u.port p).power = .keepwarm (some (addMs s.clock ((s.station st).keepBase *
              warmFactor (s.port p).grade)))) ∧
          ((s.station st).restState = .keepwarm → (s.port p).grade = some 7 →
            (u.port p).power = .doze (s.dozeTimer p))))

/-- RESERVATION_START: a deep wake starts in DEEP (phase RAMP for the profile's inrush slots), a resume in DOZE and KEEPWARM
(one wake-line pulse, the latency from the pulse), each in the state it was placed from; in any other state it is released.
(That the first read of a resume falls due at the clock value of its start plus its latency, within a slot or not, is the
model's choice, log 11.)

A resume whose start slot is reached while a POWER_MODE job of the port is in flight waits for that job's end, the
reservation started and the camera in its state. It starts when the job completes, and also when the job fails after the
camera has left the state the job was enqueued for. When the job fails and the camera is still in that state, the camera
returns to READY with the note PAUSE_ABANDONED and its rest timer started, no resume is made or left waiting, and the
started reservation is kept. (The ages of an attempt at which a response or the limit counts are the model's choice, log 9.)
(That the first read of a resume delayed so is counted from that clock value, which may lie within a slot, is the model's
choice, log 11.)

RESERVATION_WINDOW_END: the reservation is released when its last slot has passed; the commitment ends when the camera is in
none of the committed states. -/
def Obligations.ReservationWindow : Prop :=
  (∀ (p : PortId) (s : State) (r : Reservation) (f : Profile), (s.port p).resv = some r → r.started = false →
     s.slotReached r.start = true → (s.port p).profile = some f →
     (r.from_ = .deep → (s.port p).power = .deep →
       ∃ u : State, exec (.reservationStart p) s = .next (finish u) ∧
         (u.port p).power = .waking ⟨.ramp (addSlot r.start f.inrushSlots), none, ⟨r.ready, r.needed⟩, none⟩ ∧
         (u.port p).resv = some { r with started := true } ∧ u.marked p ∧
         (∀ j ∈ (u.port p).queue, j.isPowerMode = false ∨ j.started = true) ∧ (u.port p).overFrom = some s.clock ∧
         u.still = s.still ∧ (∀ q, q ≠ p → u.port q = s.port q)) ∧
     (r.from_ ≠ .deep → (s.port p).power.paused? = some r.from_ →
       (∀ j ∈ (s.port p).queue, j.isPowerMode = true → j.started = false) →
       ∃ u : State, exec (.reservationStart p) s = .next (finish u) ∧
         (u.port p).power = .waking ⟨.resume (some (addMs s.clock (10 *
           (if r.from_ = .keepwarm then max 1 (ceilDiv f.resumeLatency 3) else f.resumeLatency)))) 0, none,
           ⟨r.ready, r.needed⟩, none⟩ ∧
         (u.port p).wakePulses = (s.port p).wakePulses + 1 ∧ (u.port p).resv = some { r with started := true } ∧
         u.marked p ∧ u.still = s.still ∧ (∀ q, q ≠ p → u.port q = s.port q)) ∧
     ((s.port p).power.paused? ≠ some r.from_ →
       ∃ u : State, exec (.reservationStart p) s = .next (finish u) ∧ (u.port p).resv = none ∧
         (u.port p).power = (s.port p).power ∧ u.still = s.still ∧ (∀ q, q ≠ p → u.port q = s.port q))) ∧
  ((∀ (p : PortId) (s : State) (r : Reservation), (s.port p).resv = some r → r.started = false →
     s.slotReached r.start = true → r.from_ ≠ .deep → (s.port p).power.paused? = some r.from_ →
     (∃ j ∈ (s.port p).queue, j.isPowerMode = true ∧ j.started = true) →
     exec (.reservationStart p) s = .next (finish (s.modPort p (fun c => { c with
       resv := some { r with started := true }, resumeWait := some ⟨r.ready, r.needed⟩ })))) ∧
   (∀ (p : PortId) (s : State) (e : Exchange) (j : Job) (js : List Job) (t : Target) (g : Forecast) (f : Profile)
       (st d : Byte) (a : Bool), JobSucceeds p e j js st d s → e.op = .write → e.attr = 15 → j.kind = .powerMode t →
     (s.port p).resumeWait = some g → ((∃ k, (s.port p).power = .doze k) ∨ (s.port p).power.isKeepwarm = true) →
     (s.port p).profile = some f → ∃ u : State,
       exec (.laneResponse p st d (responseCheck st d) a) s = .next (finish u) ∧ ResumeStarted p g f s u ∧
       (u.port p).run = 0) ∧
   (∀ (p : PortId) (s : State) (e : Exchange) (j : Job) (js : List Job) (t : Target) (g : Forecast) (f : Profile)
       (a : Bool), JobFails p e j js s → e.op = .write → e.attr = 15 → j.kind = .powerMode t →
     (s.port p).resumeWait = some g → ((∃ k, (s.port p).power = .doze k) ∨ (s.port p).power.isKeepwarm = true) →
     (s.port p).profile = some f →
     ((s.port p).power.paused? ≠ some t → ∃ u : State, exec (.responseLimitExpiry p a) s = .next (finish u) ∧
       ResumeStarted p g f s u ∧ (u.port p).run = (s.port p).run + 1) ∧
     ((s.port p).power.paused? = some t → (s.port p).startedResv = true → ∃ u : State,
       exec (.responseLimitExpiry p a) s = .next (finish u) ∧ (u.port p).power.isReady = true ∧
       (u.port p).power = .ready (s.restFrom p) none ∧ (u.port p).resumeWait = none ∧ (u.port p).noteAbandoned = true ∧
         (u.port p).resv = (s.port p).resv ∧
       (u.port p).wakePulses = (s.port p).wakePulses ∧ (u.port p).run = (s.port p).run + 1 ∧ u.marked p ∧
       u.still = s.still ∧ (∀ q, q ≠ p → u.port q = s.port q)))) ∧
  (∀ (p : PortId) (s : State) (r : Reservation), (s.port p).resv = some r → r.started = true →
     s.slotReached (addSlot r.start r.length) = true →
     exec (.reservationWindowEnd p) s = .next (finish (s.modPort p (fun c => { c with
       resv := none, commitment := if c.power.awakeState then c.commitment else none }))))

/-! ## Cues and the fire unit -/

/-- HORIZON_ENTRY: a WAITING cue within 6000 slots of its slot is planned, each member by the checks of Table 37; it is
then PLANNED, or PREPARING when its preparation start has come.

PREPARATION_START: the cue is PREPARING; with an empty profile every member is COMPLETE; otherwise each READY member
with pairs its check misses has a PREP_WRITE of them and the status WRITING, one with none is COMPLETE, and the others
keep theirs; CHECK_CLEAR removes the entries it hits and the VOID ones it meets, and the other forms leave the advance
table.

The planning of one camera for a cue, by the checks of Table 37 in order: FAULT, VACANT, PARKED, THERMAL; COVERED when
awake, or in an automatic PAUSING, which is cancelled; COVERED or LATE_PREDICTED by a wake under way, a started
reservation or, when it is early enough, an unstarted one; no disposition without a profile; SHED when the steady
budget does not admit it; else committed and placed: the latest fitting start that makes the cue (PLACED), or the
earliest (LATE_PREDICTED). (That a window of which a slot lies beyond the half of the slot range ahead does not fit is
the model's reading, log 44.)

A camera whose unstarted reservation is too late for a cue is placed anew for it, over its own former window and
without admission; its commitment is kept, and the entries of other planned cues that held the old predicted ready
slot are rewritten.

A cue is planned member by member, the longest latency first and equal latencies in ascending port order; a camera is
replanned for every planned cue that includes it, in list order; a reservation whose cue no longer needs it passes its
need to the first other planned cue of its camera, for which the camera is replanned, and is released when there is
none; a started one, and one of another need, stays. -/
def Obligations.CuePlanning : Prop :=
  (∀ (s : State) (c : Cue), s.cue? c.id = some c → c.state = .waiting →
     s.slotReached (diffSlot c.slot 6000) = true →
     ∃ (u : State) (d : Cue), exec (.horizonEntry c.id) s = .next (finish u) ∧ u.cue? c.id = some d ∧
       (s.slotReached (s.prepSlot c) = false → d.state = .planned ∧
         u = modCue c.id ({ · with state := .planned }) (planCue c.id s)) ∧
       (s.slotReached (s.prepSlot c) = true → d.state = .preparing ∧
         u = startPreparation c.id (modCue c.id ({ · with state := .planned }) (planCue c.id s))) ∧
       d.station = c.station ∧ d.time = c.time ∧ d.profile = c.profile ∧ u.still = s.still ∧ u.table = s.table) ∧
  (∀ (s : State) (c : Cue), s.cue? c.id = some c → c.state = .planned → s.slotReached (s.prepSlot c) = true →
     (∀ d ∈ s.cues, d.id = c.id → d = c) →
     (c.profile = [] → exec (.preparationStart c.id) s = .next (finish { s with
       cues := s.cues.map (fun d => if d.id = c.id then { d with
         state := .preparing, members := d.members.map (fun m => { m with prep := .complete }) } else d) })) ∧
     (c.profile ≠ [] → (c.members.map (·.port)).Nodup →
       ∃ (u : State) (d : Cue), exec (.preparationStart c.id) s = .next (finish u) ∧ u.cue? c.id = some d ∧
         d.state = .preparing ∧ u.still = s.still ∧ u.table = s.table ∧ (c.form ≠ .clear → u.adv = s.adv) ∧
         (c.form = .clear → ∀ e, e ∈ u.adv ↔ e ∈ s.adv ∧ ¬ ((∃ m ∈ c.members, m.port = e.port) ∧
           (s.port e.port).power.isReady = true ∧
           ∃ pr ∈ c.profile, pr.attr = e.attr ∧ (e.valid = false ∨ e.value = pr.value))) ∧
         (∀ m ∈ c.members, (s.port m.port).power.isReady = true →
           (s.missedPairs m.port c.form c.profile ≠ [] → (∃ m' ∈ d.members, m'.port = m.port ∧ m'.prep = .writing) ∧
             ∃ j ∈ (u.port m.port).queue ++ (u.port m.port).waitLine,
               j.kind = .prepWrite c.id (c.form == .keep) (s.missedPairs m.port c.form c.profile)) ∧
           (s.missedPairs m.port c.form c.profile = [] → ∃ m' ∈ d.members, m'.port = m.port ∧ m'.prep = .complete)) ∧
         (∀ m ∈ c.members, (s.port m.port).power.isReady = false →
           m ∈ d.members ∧ u.port m.port = s.port m.port))) ∧
  ((∀ (cue : Nat) (p : PortId) (d : Option Disp) (ready : Option Nat) (s : State), setDisp cue p d ready s = { s with
     cues := s.cues.map (fun x => if x.id = cue then { x with members := x.members.map (fun m =>
       if m.port = p then { m with disp := d, ready := ready } else m) } else x) }) ∧
   (∀ (p : PortId) (c : Cue) (s : State), s.cue? c.id = some c →
     ((s.port p).power.isFault = true → planOne p c.id s = setDisp c.id p (some .fault) none s) ∧
     ((s.port p).power = .vacant → planOne p c.id s = setDisp c.id p (some .vacant) none s) ∧
     ((s.port p).power.isLost = false → (s.port p).hostPause = true →
       planOne p c.id s = setDisp c.id p (some .parked) none s) ∧
     ((s.port p).power.isLost = false → (s.port p).hostPause = false → (s.port p).grade = some 7 →
       planOne p c.id s = setDisp c.id p (some .thermal) none s) ∧
     ((s.port p).hostPause = false → (s.port p).grade ≠ some 7 →
       ((s.port p).power.isReady = true ∨ (s.port p).power.isArmed = true →
         planOne p c.id s = setDisp c.id p (some .covered) none s) ∧
       (∀ t w, (s.port p).power = .pausing ⟨t, .auto⟩ w →
         planOne p c.id s = enterReady p false (setDisp c.id p (some .covered) none s)) ∧
       (∀ x, ((∃ w, (s.port p).power = .waking w ∧ x = w.forecast.ready) ∨
           ((s.port p).power.paused?.isSome = true ∧ ∃ v, (s.port p).resv = some v ∧ v.started = true ∧ x = v.ready)) →
         planOne p c.id s = setDisp c.id p
           (some (if s.offset x ≤ s.offset (s.requiredReady c) then .covered else .latePredicted)) (some x) s) ∧
       (∀ v, (s.port p).power.paused?.isSome = true → (s.port p).resv = some v → v.started = false →
         s.offset v.ready ≤ s.offset (s.requiredReady c) →
         planOne p c.id s = setDisp c.id p (some .covered) (some v.ready) s) ∧
       ((s.port p).power.paused?.isSome = true → (s.port p).resv = none → (s.port p).profile = none →
         planOne p c.id s = setDisp c.id p none none s) ∧
       (∀ t f, (s.port p).power.paused? = some t → (s.port p).resv = none → (s.port p).commitment = none →
         (s.port p).profile = some f →
         (s.steady < s.committed + f.awake → planOne p c.id s = setDisp c.id p (some .shed) none s) ∧
         (∀ k d, s.committed + f.awake ≤ s.steady →
           StartFor s (windowCurrent t f) (windowLength t f) (wakeLatency t f (s.shadowOf p).length)
             (s.requiredReady c) k d →
           planOne p c.id s = setDisp c.id p (some d)
             (some (addSlot (addSlot s.nowSlot k) (wakeLatency t f (s.shadowOf p).length)))
             (s.modPort p (fun q => { q with
               commitment := some f.awake
               resv := some (reservationAt t f (s.shadowOf p).length (addSlot s.nowSlot k) (some c.id)) }))))))) ∧
  (∀ (p : PortId) (c : Cue) (s : State) (v : Reservation) (t : Target) (f : Profile) (k : Nat) (d : Disp),
     s.cue? c.id = some c → (s.cues.map (·.id)).Nodup → (s.port p).hostPause = false → (s.port p).grade ≠ some 7 →
     (s.port p).power.paused? = some t → (s.port p).profile = some f → (s.port p).resv = some v → v.started = false →
     s.offset (s.requiredReady c) < s.offset v.ready →
     StartFor (s.modPort p ({ · with resv := none })) (windowCurrent t f) (windowLength t f)
       (wakeLatency t f (s.shadowOf p).length) (s.requiredReady c) k d →
     ∃ v' : Reservation, v' = reservationAt t f (s.shadowOf p).length (addSlot s.nowSlot k) (some c.id) ∧
       (planOne p c.id s).ports = (s.modPort p ({ · with resv := some v' })).ports ∧
       (planOne p c.id s).cues = s.cues.map (fun x =>
         if x.id = c.id then x.modMember p ({ · with disp := some d, ready := some v'.ready })
         else if x.state.planned? && x.members.any (fun m => m.port == p && m.ready == some v.ready) then
           x.modMember p ({ · with
             disp := some (if s.offset v'.ready ≤ s.offset (s.requiredReady x) then .covered else .latePredicted)
             ready := some v'.ready })
         else x)) ∧
  ((∀ (s : State) (c : Cue), s.cue? c.id = some c →
     planCue c.id s = (s.planOrder c).foldl (fun u p => planOne p c.id u) s ∧
     (s.planOrder c).Perm (c.members.map (·.port)) ∧
     ((c.members.map (·.port)).Pairwise (· < ·) → (s.planOrder c).Pairwise (fun p q =>
       (s.latency q).getD 0 < (s.latency p).getD 0 ∨ ((s.latency p).getD 0 = (s.latency q).getD 0 ∧ p < q)))) ∧
   (∀ (p : PortId) (s : State),
     s.latency p = (match (s.port p).power.paused?, (s.port p).profile with
       | some t, some f => some (wakeLatency t f (s.shadowOf p).length)
       | _, _ => none) ∧
     replan p s = (s.cues.filter (fun c => c.state.planned? && c.members.any (fun m => m.port == p))).foldl
       (fun u c => planOne p c.id u) s) ∧
   (∀ (p : PortId) (cue : Nat) (s : State) (v : Reservation), (s.port p).resv = some v →
     (v.started = true ∨ v.needed ≠ some cue → reneed cue p s = s) ∧
     (v.started = false → v.needed = some cue →
       (∀ first rest, (s.cues.filter (fun c => c.state.planned? && c.members.any (fun m => m.port == p) &&
           c.id != cue)).map (·.id) = first :: rest →
         reneed cue p s = replan p (s.modPort p ({ · with resv := some { v with needed := some first } }))) ∧
       ((∀ c ∈ s.cues, c.state.planned? = true → (∃ m ∈ c.members, m.port = p) → c.id = cue) →
         reneed cue p s = s.modPort p (fun q => { q with
           resv := none, commitment := if q.power.awakeState then q.commitment else none })))))

/-- FIRE_REQUEST_TIME: the preparation closes, WRITING and NOT_STARTED become LATE, and the request joins the waiting set
when it is not eligible: the unit has an owner, or is locked to another station.

A fire request granted at its arrival: the cue owns the unit, unlocked, and is FIRING; its READY, prepared, not media-
full members are ARMED and form its confirm list; the grant records its time, its delay and the actual fire time, and
the unit takes the station's values, the lock timeout among them. Its other members take the outcomes of R97, by the
camera, the status after the close of the preparation (WRITING and NOT_STARTED have become LATE) and the disposition.

SLACK_EXPIRY: the waiting request leaves the set, and its cue is MISSED, with no grant: each member takes the outcome
of R98, and the cue leaves the list with the CUE_DONE that says so, or is DONE with its mark set and that body to
report. -/
def Obligations.FireRequest : Prop :=
  (∀ (s : State) (c : Cue), s.cue? c.id = some c → (∀ d ∈ s.cues, d.id = c.id → d = c) → c.state = .preparing →
     reachedMs s.clock (s.fireReqTime c) = true →
     (s.owner.isSome = true ∨ ∃ l, s.lock = some l ∧ l.station ≠ c.station) →
     ∃ u : State, exec (.fireRequestTime c.id) s = .next (finish u) ∧
       u.waiting = s.waiting ++ [⟨c.id, c.station, c.time, s.fireReqTime c,
         addMs (s.fireReqTime c) (s.station c.station).slack⟩] ∧
       u.owner = s.owner ∧ u.lock = s.lock ∧ u.still = s.still ∧
       (∃ d, u.cue? c.id = some d ∧ d.state = .fireWait ∧
         ∀ m ∈ d.members, m.prep ≠ .writing ∧ m.prep ≠ .notStarted)) ∧
  (∀ (s : State) (c : Cue), s.cue? c.id = some c → (∀ d ∈ s.cues, d.id = c.id → d = c) → c.state = .preparing →
     reachedMs s.clock (s.fireReqTime c) = true → s.owner = none → s.lock = none → s.waiting = [] →
     (∀ m ∈ c.members, (s.port m.port).queue = [] ∧ (s.port m.port).waitLine = [] ∧ (s.port m.port).markPoll = false ∧
       (s.port m.port).markThermal = false ∧ (s.port m.port).markPing = false) → (c.members.map (·.port)).Nodup →
     ∃ (u : State) (d : Cue), exec (.fireRequestTime c.id) s = .next (finish u) ∧ u.cue? c.id = some d ∧
       d.state = .firing ∧
       d.grant = some ⟨s.clock, diffMs s.clock (s.fireReqTime c), addMs s.clock (s.station c.station).focusLead⟩ ∧
       d.confirm = (c.members.filter (fun m => (s.port m.port).power.isReady && m.prep == .complete &&
         !(s.port m.port).mediaFull)).map (·.port) ∧
       d.members = c.members.map (fun m =>
         if (s.port m.port).power.isReady && m.prep == .complete && !(s.port m.port).mediaFull then m
         else { m with
           prep := if m.prep = .writing ∨ m.prep = .notStarted then .late else m.prep
           outcome := some (outcomeIfUnarmed (s.port m.port) m) }) ∧
       (∀ p ∈ d.confirm, (u.port p).power = .armed none false) ∧
       u.owner = some ⟨c.id, c.station, s.clock, (s.station c.station).focusLead, (s.station c.station).strobe,
         (s.station c.station).press, (s.station c.station).lockOn, (s.station c.station).lockTimeout, false, false,
         false⟩ ∧
       u.lock = none ∧ u.waiting = [] ∧ u.still = s.still) ∧
  (∀ (s : State) (c : Cue) (q : FireReq), s.cue? c.id = some c → (∀ d ∈ s.cues, d.id = c.id → d = c) →
     q ∈ s.waiting → q.cue = c.id → reachedMs s.clock q.slackAt = true → c.grant = none →
     ∃ (u : State) (b : List Byte), exec (.slackExpiry c.id) s = .next (finish u) ∧
       b = [toByte c.id, toByte c.station.val] ++ le32 c.time ++ [0x03#8] ++ le32 0xFFFFFFFF ++ le16 0 ++
         [toByte c.members.length] ++
         c.members.flatMap (fun m => [toByte m.port.val, toByte (outcomeIfMissed (s.port m.port) m).code]) ∧
       u.waiting = s.waiting.filter (fun x => x.cue != c.id) ∧ u.owner = s.owner ∧ u.lock = s.lock ∧
       u.still = s.still ∧
       (((∀ x ∈ u.cues, x.id ≠ c.id) ∧ Report.cueDone b ∈ u.reports) ∨
         ∃ x ∈ u.cues, x.id = c.id ∧ x.state = .done ∧ x.mark = true ∧ x.doneBody = b))

/-- FULL_PRESS: at t0 + f the full-press line of each ARMED member is asserted, and nothing else changes but the record
that the instant has passed.

SYNC_PULSE: at t0 + f + s the studio sync output is pulsed for 1 ms when a member is ARMED; SYNC_PULSE_END ends it. -/
def Obligations.PressAndSync : Prop :=
  (∀ (s : State) (o : Owner), s.owner = some o → o.pressed = false → reachedMs s.clock (addMs o.t0 o.focus) = true →
     ∃ u : State, exec .fullPress s = .next u ∧ u.owner = some { o with pressed := true } ∧ u.still = s.still ∧
       u.cues = s.cues ∧ u.adv = s.adv ∧ u.table = s.table ∧ u.line = s.line ∧ u.reports = s.reports ∧
       u.events = s.events ∧ u.waiting = s.waiting ∧ u.lock = s.lock ∧
       (∀ p, p ∈ s.ownerPorts o → ∀ ps full, (s.port p).power = .armed ps full →
         u.port p = { s.port p with power := .armed ps true }) ∧
       (∀ p, p ∉ s.ownerPorts o ∨ (s.port p).power.isArmed = false → u.port p = s.port p)) ∧
  (∀ s : State,
     (∀ o, s.owner = some o → o.pressed = true → o.synced = false →
       reachedMs s.clock (addMs o.t0 (o.focus + o.strobe)) = true →
       ((∃ p ∈ s.ownerPorts o, (s.port p).power.isArmed = true) →
         exec .syncPulse s = .next { s with
           owner := some { o with synced := true }, syncEnd := some ((s.clock + 1) % 4000000000) }) ∧
       ((∀ p ∈ s.ownerPorts o, (s.port p).power.isArmed = false) →
         exec .syncPulse s = .next { s with owner := some { o with synced := true } })) ∧
     (∀ t, s.syncEnd = some t → reachedMs s.clock t = true →
       exec .syncPulseEnd s = .next { s with syncEnd := none }))

/-- RELEASE: at t0 + f + h the ARMED members without a pending pause return to READY, and the cue is CONFIRMING until its
confirm timer expires, or DONE when it has nothing to confirm, with the report of the outcomes it holds. The rest
timer of every member of a station that is READY after the release starts with the linger, whether it was armed or
not, and no member stays held for the cue; one with a pending pause is no longer READY and gets no timer; any other
camera keeps its state.

CONFIRM_TIMEOUT: the ports still in the confirm list are recorded NO_CONFIRM and the cue is DONE: with room its
CUE_DONE joins the report queue and it leaves the list, and otherwise its mark is set. -/
def Obligations.ReleaseAndConfirm : Prop :=
  (∀ (s : State) (o : Owner) (c : Cue), s.owner = some o → o.synced = true → o.released = false →
     reachedMs s.clock (addMs o.t0 (o.focus + o.press)) = true → s.cue? o.cue = some c → c.state = .firing →
     (∀ d ∈ s.cues, d.id = o.cue → d = c) →
     ∃ u : State, exec .release s = .next (finish u) ∧ u.owner = some { o with released := true } ∧ u.still = s.still ∧
       (∀ p ∈ c.members.map (·.port), ∀ full, (s.port p).power = .armed none full → (u.port p).power.isReady = true) ∧
       (∀ p ∈ c.members.map (·.port),
         (∀ full, (s.port p).power = .armed none full → (u.port p).power =
           .ready ((s.stationOf p).map (fun f => addMs s.clock (f.linger * 1000))) none) ∧
         (∀ ps full, (s.port p).power = .armed (some ps) full → (u.port p).power.isReady = false) ∧
         (∀ rest hold, (s.port p).power = .ready rest hold → ∃ rest' hold', (u.port p).power = .ready rest' hold' ∧
           hold' ≠ some o.cue ∧ (hold = some o.cue → hold' = none) ∧
           (∀ f, s.stationOf p = some f → rest' = some (addMs s.clock (f.linger * 1000))) ∧
           (s.stationOf p = none → rest' = rest)) ∧
         ((s.port p).power.isArmed = false → (s.port p).power.isReady = false →
           (u.port p).power = (s.port p).power)) ∧
       (∀ p, p ∉ c.members.map (·.port) → (u.port p).power = (s.port p).power) ∧
       (c.confirm ≠ [] → ∃ d, u.cue? o.cue = some d ∧ d.state = .confirming ∧ d.confirm = c.confirm ∧
         d.members = c.members ∧ d.timer = some (addMs s.clock (s.station o.station).confirm)) ∧
       (c.confirm = [] → ((∀ x ∈ u.cues, x.id ≠ o.cue) ∧ Report.cueDone c.doneBody ∈ u.reports) ∨
         ∃ x ∈ u.cues, x.id = o.cue ∧ x.state = .done ∧ x.mark = true ∧ x.doneBody = c.doneBody)) ∧
  (∀ (s : State) (c : Cue) (t : Nat), s.cue? c.id = some c → (∀ d ∈ s.cues, d.id = c.id → d = c) →
     c.state = .confirming → c.timer = some t → reachedMs s.clock t = true →
     (s.reports.length < 16 → exec (.confirmTimeout c.id) s = .next { s with
       cues := s.cues.filter (fun d => d.id != c.id)
       reports := s.reports ++ [.cueDone ({ c with
         state := .done, timer := none, confirm := []
         members := c.members.map (fun m =>
           if c.confirm.contains m.port then { m with outcome := some .noConfirm } else m) } : Cue).doneBody] }) ∧
     (16 ≤ s.reports.length → exec (.confirmTimeout c.id) s = .next { s with
       cues := s.cues.map (fun d => if d.id = c.id then { c with
         state := .done, timer := none, confirm := [], mark := true
         members := c.members.map (fun m =>
           if c.confirm.contains m.port then { m with outcome := some .noConfirm } else m) } else d) }))

/-- FREEING: at t0 + f + h + 20 the unit has no owner, is locked to the station when its lock was ON at the grant, for the
lock timeout taken at the grant, and the grant rule is applied, whatever requests wait; with none nothing else changes.

LOCK_EXPIRY and FIRE_UNLOCK: the lock is removed and the grant rule is applied, whatever requests wait (that the reply of a
FIRE_UNLOCK carries the unit after the grant rule is the model's choice, log 19, DEDUCED); with none nothing else
changes; a FIRE_UNLOCK whose station does not hold the lock is refused with the state of the unit, and so is one that
finds no lock, or the unit owned; a station above 3 is BAD_ARG.

The grant rule: the first of the eligible waiting requests, by cue time and then by station, is granted; a locked unit
admits its own station's alone, an owned unit none.

The grant of a waiting request: its cue is FIRING and owns the unit, which is unlocked and takes the station's values; the
request leaves the waiting set; the READY, prepared members that are not media-full are ARMED and form the confirm list, and
the others take the outcomes of R97; the grant records its time, its delay since the fire request time, and the actual fire
time. -/
def Obligations.FreeingAndLock : Prop :=
  (∀ (s : State) (o : Owner), s.owner = some o → o.released = true →
     reachedMs s.clock (addMs o.t0 (o.focus + o.press + 20)) = true →
     exec .freeing s = .next (finish (grantRule { s with
       owner := none
       lock := if o.lockOn then some ⟨o.station, addMs s.clock (o.lockTimeout * 1000)⟩ else none }))) ∧
  (∀ (s : State) (l : Lock), s.lock = some l →
     (reachedMs s.clock l.expiry = true → exec .lockExpiry s = .next (finish (grantRule { s with lock := none }))) ∧
     (∀ (r : Request) (v : State), Taken .fireUnlock r s → u8 r.body 0 = l.station.val → s.owner = none →
       v = grantRule { s with lock := none } →
       exec (.fireUnlock r) s = .next (finish (v.replied 0x93#8 r.tag (0x00#8 :: fireUnitBytes v))))) ∧
  (∀ (s u : State) (r : FireReq) (c : Cue), u = grantReq r s → s.cue? r.cue = some c →
     (∀ d ∈ s.cues, d.id = r.cue → d = c) →
     ∃ d : Cue, u.cue? r.cue = some d ∧ d.state = .firing ∧
       d.grant = some ⟨s.clock, diffMs s.clock r.reqTime, addMs s.clock (s.station r.station).focusLead⟩ ∧
       d.confirm = (c.members.filter (fun m => (s.port m.port).power.isReady && m.prep == .complete &&
         !(s.port m.port).mediaFull)).map (·.port) ∧
       d.members.map (·.port) = c.members.map (·.port) ∧
       (∀ m ∈ c.members, (s.port m.port).power.isReady = true → m.prep = .complete → (s.port m.port).mediaFull = false →
         m ∈ d.members ∧ (u.port m.port).power = .armed none false) ∧
       (∀ m ∈ c.members, (s.port m.port).power.isReady = false ∨ m.prep ≠ .complete ∨ (s.port m.port).mediaFull = true →
         m.prep ≠ .writing → { m with outcome := some (outcomeIfUnarmed (s.port m.port) m) } ∈ d.members) ∧
       u.owner = some ⟨r.cue, r.station, s.clock, (s.station r.station).focusLead, (s.station r.station).strobe,
         (s.station r.station).press, (s.station r.station).lockOn, (s.station r.station).lockTimeout, false, false,
         false⟩ ∧
       u.lock = none ∧ u.waiting = s.waiting.filter (fun x => x.cue != r.cue) ∧ u.line = s.line ∧ u.table = s.table ∧
       u.still = s.still) ∧
  (∀ (s : State) (o : Owner), s.owner = some o → o.released = true →
     reachedMs s.clock (addMs o.t0 (o.focus + o.press + 20)) = true → s.waiting = [] →
     exec .freeing s = .next (finish { s with
       owner := none
       lock := if o.lockOn then some ⟨o.station, addMs s.clock (o.lockTimeout * 1000)⟩ else none })) ∧
  ((∀ (r : Request) (s : State), Taken .fireUnlock r s →
     (4 ≤ u8 r.body 0 → exec (.fireUnlock r) s = .next (s.replied 0x93#8 r.tag [0x04#8])) ∧
     (u8 r.body 0 < 4 → s.lock = none ∨ s.owner.isSome = true →
       exec (.fireUnlock r) s = .next (s.replied 0x93#8 r.tag (0x05#8 :: fireUnitBytes s)))) ∧
   ∀ (s : State) (l : Lock), s.lock = some l → s.waiting = [] →
     (reachedMs s.clock l.expiry = true → exec .lockExpiry s = .next (finish { s with lock := none })) ∧
     (∀ r : Request, Taken .fireUnlock r s → u8 r.body 0 = l.station.val → s.owner = none →
       exec (.fireUnlock r) s = .next (finish (({ s with lock := none } : State).replied 0x93#8 r.tag
         (0x00#8 :: fireUnitBytes { s with lock := none })))) ∧
     (∀ r : Request, Taken .fireUnlock r s → u8 r.body 0 < 4 → u8 r.body 0 ≠ l.station.val →
       exec (.fireUnlock r) s = .next (s.replied 0x93#8 r.tag (0x05#8 :: fireUnitBytes s)))) ∧
  (∀ s : State,
     ((∀ q ∈ s.waiting, s.eligible q = false) → grantRule s = s) ∧
     (s.owner.isSome = true → ∀ q, s.eligible q = false) ∧
     (∀ l q, s.owner = none → s.lock = some l → (s.eligible q = true ↔ l.station = q.station)) ∧
     (∀ q ∈ s.waiting, s.eligible q = true → ∃ r ∈ s.waiting, s.eligible r = true ∧ grantRule s = grantReq r s ∧
       ∀ x ∈ s.waiting, s.eligible x = true → s.timeOffset r.time < s.timeOffset x.time ∨
         (s.timeOffset r.time = s.timeOffset x.time ∧ r.station ≤ x.station)))

/-- CUE_POST: a post that passes the checks creates a cue with the first free id after the last one given, the next
posting number, the profile in ascending attribute order and the station's members; it is WAITING beyond the horizon
of 6000 slots and planned within it, each member by the checks of Table 37. (That the first post takes the number 1,
each adding one before, is the model's choice, log 21.)

The first free id is the first, counting 1 to 255 and then 1 again from the one after the last given, that no cue of a list
of at most 16 holds. The cue's place is after every cue of the list's front whose time has passed or whose difference from now
is no greater than its own, and before the first that is neither; in an ordered list no cue behind it is such, and the list
stays ordered. The profile as stored has the pairs of the body, in ascending attribute number.

CUE_POST's refusals, each after the ones before it: BAD_ARG for a station above 3, an unknown check form, more than 8 pairs, a
pair outside 16–23, two pairs of one number, or a time of 4,000,000,000 or more, BAD_STATE for an undefined
station, TOO_LATE for a time passed or nearer than the station's minimum lead, BAD_ARG for one more than 86,400,000 ms
ahead, CONFLICT for a listed cue of the same station and time, NO_ROOM for a list of 16 cues; with none of them the
post is taken. -/
def Obligations.CuePosting : Prop :=
  ((∀ s : State, s.cues.length ≤ 16 → ∃ n < 255, s.nextId = (s.lastCue + n) % 255 + 1 ∧
      (∀ c ∈ s.cues, c.id ≠ s.nextId) ∧ ∀ m < n, ∃ c ∈ s.cues, c.id = (s.lastCue + m) % 255 + 1) ∧
   (∀ (now : Nat) (c : Cue) (l : List Cue) (passed : Cue → Prop), (∀ d, passed d ↔ 2000000000 ≤ diffMs d.time now) →
     ∃ pre post, l = pre ++ post ∧ insertCue now c l = pre ++ c :: post ∧
       (∀ d ∈ pre, passed d ∨ diffMs d.time now ≤ diffMs c.time now) ∧
       (∀ d ds, post = d :: ds → ¬ passed d ∧ diffMs c.time now < diffMs d.time now) ∧
       (l.Pairwise (fun a b => passed a ∨ (¬ passed b ∧ diffMs a.time now ≤ diffMs b.time now)) →
         (∀ d ∈ post, ¬ passed d ∧ diffMs c.time now < diffMs d.time now) ∧
         (¬ passed c → (insertCue now c l).Pairwise (fun a b =>
           passed a ∨ (¬ passed b ∧ diffMs a.time now ≤ diffMs b.time now))))) ∧
   (∀ (n time : Nat) (pairs : List Pair), postArgsOk n time pairs = true ↔
     n ≤ 8 ∧ (∀ pr ∈ pairs, 16 ≤ pr.attr ∧ pr.attr ≤ 23) ∧ (pairs.map (·.attr)).Nodup ∧ time < 4000000000) ∧
   (∀ pairs : List Pair, (sortPairs pairs).Perm pairs ∧ (sortPairs pairs).Pairwise (fun a b => a.attr ≤ b.attr)) ∧
   (∀ (b : List Byte) (i n : Nat), (pairsAt b i n).length = n ∧
     ∀ (k : Nat) (h : k < (pairsAt b i n).length),
       (pairsAt b i n)[k].attr = u8 b (i + 2 * k) ∧ (pairsAt b i n)[k].value = b.getD (i + 2 * k + 1) 0#8)) ∧
  (∀ (r : Request) (s : State) (st : StationId) (form : CheckForm), Taken .cuePost r s → u8 r.body 0 = st.val →
     CheckForm.ofCode (u8 r.body 1) = some form →
     postArgsOk (u8 r.body 6) (u32 r.body 2) (pairsAt r.body 7 (u8 r.body 6)) = true →
     s.postRefusal st (u32 r.body 2) = none →
     ∃ (u v : State) (c c' : Cue), exec (.cuePost r) s = .next (finish (u.replied 0x8D#8 r.tag
         ([0x00#8, toByte c.id, toByte c.state.code, toByte c.members.length] ++ c.members.flatMap Member.bytes))) ∧
       u.cue? s.nextId = some c ∧ c.id = s.nextId ∧ c.station = st ∧ c.time = u32 r.body 2 ∧ c.form = form ∧
       c.profile = sortPairs (pairsAt r.body 7 (u8 r.body 6)) ∧ c.posting = (s.postings + 1) % 4294967296 ∧
       c.members.map (·.port) = s.membersOf st ∧ u.lastCue = s.nextId ∧ u.cues.length ≤ s.cues.length + 1 ∧
       c' = ⟨s.nextId, st, u32 r.body 2, (s.postings + 1) % 4294967296,
         sortPairs (pairsAt r.body 7 (u8 r.body 6)), form, .waiting,
         (s.membersOf st).map (fun p => ⟨p, none, none, .notStarted, none⟩), none, [], none, false⟩ ∧
       v = { s with
         cues := insertCue s.clock c' s.cues, lastCue := s.nextId, postings := (s.postings + 1) % 4294967296 } ∧
       (6000 < diffSlot (u32 r.body 2 / 10) s.nowSlot → c = c' ∧ u = v ∧ u.ports = s.ports) ∧
       (diffSlot (u32 r.body 2 / 10) s.nowSlot ≤ 6000 → c.state = .planned ∨ c.state = .preparing) ∧
       (diffSlot (u32 r.body 2 / 10) s.nowSlot ≤ 6000 → s.slotReached (s.prepSlot c') = false →
         u = modCue s.nextId ({ · with state := .planned }) (planCue s.nextId v)) ∧
       u.clock = s.clock ∧ u.stations = s.stations ∧ u.table = s.table) ∧
  (∀ (r : Request) (s : State), Taken .cuePost r s →
     (4 ≤ u8 r.body 0 ∨ CheckForm.ofCode (u8 r.body 1) = none ∨
         postArgsOk (u8 r.body 6) (u32 r.body 2) (pairsAt r.body 7 (u8 r.body 6)) = false →
       exec (.cuePost r) s = .next (s.replied 0x8D#8 r.tag [0x04#8])) ∧
     (∀ (st : StationId) (form : CheckForm) (code : Status), u8 r.body 0 = st.val →
       CheckForm.ofCode (u8 r.body 1) = some form →
       postArgsOk (u8 r.body 6) (u32 r.body 2) (pairsAt r.body 7 (u8 r.body 6)) = true →
       s.postRefusal st (u32 r.body 2) = some code →
       exec (.cuePost r) s = .next (s.replied 0x8D#8 r.tag [code.code])) ∧
     (∀ (st : StationId) (t : Nat),
       (s.membersOf st = [] → s.postRefusal st t = some .badState) ∧
       (s.membersOf st ≠ [] → (2000000000 ≤ diffMs t s.clock ∨ diffMs t s.clock <
           (s.station st).focusLead + (s.station st).prepTime * 10 + 10) → s.postRefusal st t = some .tooLate) ∧
       (s.membersOf st ≠ [] → diffMs t s.clock < 2000000000 →
         (s.station st).focusLead + (s.station st).prepTime * 10 + 10 ≤ diffMs t s.clock →
         (86400000 < diffMs t s.clock → s.postRefusal st t = some .badArg) ∧
         (diffMs t s.clock ≤ 86400000 →
           ((∃ c ∈ s.cues, c.station = st ∧ c.time = t) → s.postRefusal st t = some .conflict) ∧
           ((∀ c ∈ s.cues, c.station = st → c.time ≠ t) →
             (16 ≤ s.cues.length → s.postRefusal st t = some .noRoom) ∧
             (s.cues.length < 16 → s.postRefusal st t = none)))) ∧
       Status.badState.code = 0x05#8 ∧ Status.tooLate.code = 0x09#8 ∧ Status.badArg.code = 0x04#8 ∧
       Status.conflict.code = 0x0A#8 ∧ Status.noRoom.code = 0x07#8))

/-- CUE_CANCEL: a cue that has not fired leaves the list with its waiting request, the rest of the cues stay, and no
member stays held for it: with no fire request, one that was held has its rest timer started. Its PREP_WRITEs leave
the queues and the waiting lines, and one in flight makes no further write (in a state in which no job of a port but
the head of its queue has been started). No reservation that has not started still names it: with no other planned cue
of the camera it is released, and else it passes on or is placed anew; a started one, and one of another need, stays.
In FIRE_WAIT the fire unit applies the grant rule once the request is withdrawn: the owner, the lock, the waiting set, the
granted cue and the cameras it arms are those of that grant. (That it does so before the PREP_WRITEs leave and the reservations
are re-evaluated is the model's choice, log 53.) In another state the unit stays as it is.
FIRING is refused BUSY, CONFIRMING and DONE BAD_STATE, an id of no cue NOT_FOUND, id 0 BAD_ARG. -/
def Obligations.CueCancel : Prop :=
  ∀ (r : Request) (s : State), Taken .cueCancel r s →
    (u8 r.body 0 = 0 → exec (.cueCancel r) s = .next (s.replied 0x8E#8 r.tag [0x04#8])) ∧
    (u8 r.body 0 ≠ 0 → s.cue? (u8 r.body 0) = none →
      exec (.cueCancel r) s = .next (s.replied 0x8E#8 r.tag [0x08#8])) ∧
    (∀ c, u8 r.body 0 ≠ 0 → s.cue? (u8 r.body 0) = some c →
      (c.state = .firing → exec (.cueCancel r) s = .next (s.replied 0x8E#8 r.tag [0x06#8])) ∧
      (c.state = .confirming ∨ c.state = .done →
        exec (.cueCancel r) s = .next (s.replied 0x8E#8 r.tag [0x05#8])) ∧
      (c.state = .waiting ∨ c.state.planned? = true →
        ∃ u : State, exec (.cueCancel r) s = .next (finish (u.replied 0x8E#8 r.tag [0x00#8])) ∧
          u.cues.map (·.id) = (s.cues.filter (fun d => d.id != c.id)).map (·.id) ∧ u.still = s.still ∧ u.table = s.table ∧
          (c.state = .fireWait → ∀ q ∈ u.waiting, q.cue ≠ c.id) ∧
          (c.state ≠ .fireWait → u.owner = s.owner ∧ u.lock = s.lock ∧ u.waiting = s.waiting) ∧
          (∀ g : State, g = grantRule { s with
              cues := s.cues.filter (fun d => d.id != c.id), waiting := s.waiting.filter (fun q => q.cue != c.id) } →
            c.state = .fireWait → u.owner = g.owner ∧ u.lock = g.lock ∧ u.waiting = g.waiting ∧
              (∀ p ps full, (g.port p).power = .armed ps full → (u.port p).power = .armed ps full) ∧
              ((s.cues.map (·.id)).Nodup → ∀ d ∈ g.cues, d.state = .firing → d ∈ u.cues)) ∧
          (∀ m ∈ c.members, ∀ rest, (u.port m.port).power ≠ .ready rest (some c.id)) ∧
          (c.state ≠ .fireWait → ∀ m ∈ c.members, ∀ f, s.stationOf m.port = some f →
            (s.port m.port).power = .ready none (some c.id) →
            (u.port m.port).power = .ready (some (addMs s.clock (f.linger * 1000))) none) ∧
          ((∀ p, (s.port p).OnlyHeadStarted) →
            ∀ m ∈ c.members, ∀ j ∈ (u.port m.port).queue ++ (u.port m.port).waitLine, ∀ keep pairs,
            j.kind = .prepWrite c.id keep pairs →
            j.started = true ∧ ((u.port m.port).queue.head? = some j → j.cut = true)) ∧
          (∀ p r, (u.port p).resv = some r → r.started = false → r.needed ≠ some c.id) ∧
          (c.state ≠ .fireWait → ∀ p r, (s.port p).resv = some r →
            (r.started = true ∨ r.needed ≠ some c.id → (u.port p).resv = some r) ∧
            (r.started = false → r.needed = some c.id →
              ((∀ d ∈ s.cues, d.id ≠ c.id → d.state.planned? = true → ∀ m ∈ d.members, m.port ≠ p) →
                (u.port p).resv = none ∧
                ((s.port p).power.paused?.isSome = true → (u.port p).commitment = none)) ∧
              ((∀ q, (s.port q).power.isPausing = false) →
                (∀ q, q ≠ p → ∀ x, (s.port q).resv = some x → x.started = true ∨ x.needed ≠ some c.id) →
                (u.port p).resv =
                  ((reneed c.id p { s with cues := s.cues.filter (fun d => d.id != c.id) }).port p).resv)))))

/-- SETTLE: answered at once when the condition holds, else pending for its station with its timer; a second one is
refused BUSY; SETTLE_TIMEOUT answers TIMED_OUT and the SETTLE is pending no longer. A station above 3 is BAD_ARG. (A
job abandoned at an entry to VACANT counts as in flight no longer: the model's choice, log 51.)

A pending SETTLE whose condition comes to hold at a later command is answered OK, or OK_CLAMPED, with its timeout, and is
pending no longer: at the end of the step, when the lanes have chosen, every pending SETTLE whose station is settled then has
its settle reply, in the order of the stations, and the others stay. (That the condition is tested once, at that place, is the
model's choice, log 10.) -/
def Obligations.Settle : Prop :=
  (∀ s v : State, v = allPorts.foldl (fun u p => kick p u) s →
     finish s = { v with settles := (finish s).settles, settleReady := (finish s).settleReady } ∧
     (∀ st, v.settled st = true → (finish s).settleReq st = none) ∧
     (∀ st, v.settled st = false → (finish s).settleReq st = s.settleReq st) ∧
     v.settles = s.settles ∧ v.settleReady = s.settleReady ∧
     (finish s).settleReady = s.settleReady ++ allStations.filterMap (fun st =>
       if v.settled st = true then (s.settleReq st).map (fun q =>
         ⟨q.tag, (if q.clamped = true then 0x01#8 else 0x00#8) :: le16 q.timeout⟩)
       else none)) ∧
  (∀ (r : Request) (s : State), Taken .settle r s → 4 ≤ u8 r.body 0 →
    exec (.settle r) s = .next (s.replied 0x90#8 r.tag [0x04#8])) ∧
  ∀ (s : State) (st : StationId),
    (∀ r : Request, Taken .settle r s → u8 r.body 0 = st.val →
      ((s.settleReq st).isSome = true → exec (.settle r) s = .next (s.replied 0x90#8 r.tag [0x06#8])) ∧
      (s.settleReq st = none → s.settled st = true → exec (.settle r) s = .next (s.replied 0x90#8 r.tag
        ((if clamp 1 60000 (u16 r.body 1) = u16 r.body 1 then 0x00#8 else 0x01#8) ::
          le16 (clamp 1 60000 (u16 r.body 1))))) ∧
      (s.settleReq st = none → s.settled st = false → exec (.settle r) s = .next { s with
        settles := s.settles.set st.val (some ⟨r.tag, clamp 1 60000 (u16 r.body 1),
          clamp 1 60000 (u16 r.body 1) != u16 r.body 1, addMs s.clock (clamp 1 60000 (u16 r.body 1))⟩) st.isLt })) ∧
    (∀ q, s.settleReq st = some q → reachedMs s.clock q.expiry = true →
      exec (.settleTimeout st) s = .next { s with
        settles := s.settles.set st.val none st.isLt
        settleReady := s.settleReady ++ [⟨q.tag, 0x0C#8 :: le16 q.timeout⟩] }) ∧
    (s.settled st = true ↔ ∀ p, (s.port p).station = some st → (s.port p).queue = [] ∧ (s.port p).waitLine = [] ∧
      (s.port p).markPoll = false ∧ (s.port p).markThermal = false ∧ (s.port p).markPing = false ∧
      (s.port p).power.isWaking = false ∧ (s.port p).power.isPausing = false)

/-! ## Stations, rails and budgets -/

/-- STATION_SET: with no open cue and no port of another station, the station takes its fields clamped, the named ports
are its members, and no other station changes; BAD_ARG, BAD_STATE and CONFLICT in that order.

Each numeric field of a station is stored as the nearest value of its range, the strobe delay then at most the stored
press time; a field in its range stays, and the rest state and the lock are stored as given. -/
def Obligations.StationFields : Prop :=
  (∀ (r : Request) (s : State), Taken .stationSet r s →
     (4 ≤ u8 r.body 0 ∨ stationFields? r.body = none ∨ 16777216 ≤ u32 r.body 1 →
       exec (.stationSet r) s = .next (s.replied 0x84#8 r.tag [0x04#8])) ∧
     (∀ (st : StationId) (set : Nat) (f : Station), u8 r.body 0 = st.val → stationFields? r.body = some (set, f) →
       set < 16777216 →
       ((∃ c ∈ s.cues, c.station = st ∧ c.state ≠ .done) →
         exec (.stationSet r) s = .next (s.replied 0x84#8 r.tag [0x05#8])) ∧
       ((∀ c ∈ s.cues, c.station = st → c.state = .done) →
         ((∃ (p : PortId) (st' : StationId), set.testBit p.val = true ∧ (s.port p).station = some st' ∧ st' ≠ st) →
           exec (.stationSet r) s = .next (s.replied 0x84#8 r.tag [0x0A#8])) ∧
         ((∀ p : PortId, set.testBit p.val = true → (s.port p).station = none ∨ (s.port p).station = some st) →
           ∃ u : State, exec (.stationSet r) s = .next (finish (u.replied 0x84#8 r.tag
               ((if f.clamped = f then 0x00#8 else 0x01#8) :: stationBytes st u))) ∧
             u.station st = f.clamped ∧ (∀ st', st' ≠ st → u.station st' = s.station st') ∧
             (∀ p : PortId, (u.port p).station = (if set.testBit p.val then some st
               else if (s.port p).station = some st then none else (s.port p).station)) ∧
             (∀ p : PortId, set.testBit p.val = false → (s.port p).station ≠ some st → u.port p = s.port p) ∧
             (∀ p : PortId, set.testBit p.val = true → (s.port p).station = some st → u.port p = s.port p) ∧
             (∀ p : PortId, set.testBit p.val = true → (s.port p).station = none → u.port p = { s.port p with
               station := some st
               power := match (s.port p).power with
                 | .ready _ hold => .ready (some (addMs s.clock (clamp 0 3600 f.linger * 1000))) hold
                 | w => w }) ∧
             (∀ p : PortId, set.testBit p.val = false → (s.port p).station = some st → (s.port p).power.isReady = true →
               (u.port p).power = .ready none none) ∧
             u.table = s.table ∧ u.cues = s.cues ∧ u.adv = s.adv ∧ u.clock = s.clock)))) ∧
  ((∀ lo hi v : Nat, lo ≤ hi → (v < lo → clamp lo hi v = lo) ∧ (hi < v → clamp lo hi v = hi) ∧
     (lo ≤ v → v ≤ hi → clamp lo hi v = v)) ∧
   (∀ f : Station, f.clamped.restState = f.restState ∧ f.clamped.linger = clamp 0 3600 f.linger ∧
     f.clamped.dozeLimit = clamp 0 240 f.dozeLimit ∧ f.clamped.pauseWait = clamp 1 600 f.pauseWait ∧
     f.clamped.guardSlots = clamp 0 50 f.guardSlots ∧ f.clamped.prepTime = clamp 0 100 f.prepTime ∧
     f.clamped.focusLead = clamp 0 1000 f.focusLead ∧
     f.clamped.strobe = min (clamp 0 100 f.strobe) (clamp 10 1000 f.press) ∧
     f.clamped.press = clamp 10 1000 f.press ∧ f.clamped.slack = clamp 0 5000 f.slack ∧
     f.clamped.confirm = clamp 100 5000 f.confirm ∧ f.clamped.keepBase = clamp 5 120 f.keepBase ∧
     f.clamped.lockOn = f.lockOn ∧ f.clamped.lockTimeout = clamp 1 60 f.lockTimeout ∧
     f.clamped.strobe ≤ f.clamped.press ∧ f.clamped.clamped = f.clamped ∧
     (f.clamped = f ↔ f.linger ≤ 3600 ∧ f.dozeLimit ≤ 240 ∧ 1 ≤ f.pauseWait ∧ f.pauseWait ≤ 600 ∧ f.guardSlots ≤ 50 ∧
       f.prepTime ≤ 100 ∧ f.focusLead ≤ 1000 ∧ f.strobe ≤ 100 ∧ f.strobe ≤ f.press ∧ 10 ≤ f.press ∧ f.press ≤ 1000 ∧
       f.slack ≤ 5000 ∧ 100 ≤ f.confirm ∧ f.confirm ≤ 5000 ∧ 5 ≤ f.keepBase ∧ f.keepBase ≤ 120 ∧ 1 ≤ f.lockTimeout ∧
       f.lockTimeout ≤ 60)))

/-- STATION_GET carries the station's fields and its computed status; an unknown station is refused.

CUE_LIST carries the number of cues, the index of the first record not carried (0xFF at the end), and as many whole
records from the named index as fit in 505 bytes; an index above 15 is refused.

ID_LIST carries the aging period, the clear walk, the entry count, the ports in conflict, and up to eight entries from
the named position on; a position above 31 is refused. (The next position is the model's choice, log 18.) (The next
position of the walk after its last visit is free, the model's choice, log 36.)

The bytes these replies carry, field by field at their offsets: STATION_GET's by Tables 78 and 79 with the readouts of Table 26,
a cue record's by Table 70 with its member entries by Table 69, an identity entry's by Table 82, and the ports in conflict as a
port set; the enumerations in the codes of Table 67, an absent value by its marker. -/
def Obligations.TablesRead : Prop :=
  (∀ (st : StationId) (s : State) (b : List Byte) (f : Station) (l : List PortId),
    b = 0x00#8 :: stationGetBytes st s → f = s.station st → l = s.membersOf st →
    b.length = 61 ∧ (∀ p, p ∈ l ↔ (s.port p).station = some st) ∧ l.Pairwise (· < ·) ∧
    CarriesPorts b 1 (fun p => (s.port p).station = some st) ∧
    u8 b 5 = (match f.restState with
      | .doze => 1
      | .keepwarm => 2
      | .deep => 3) ∧
    u16 b 6 = f.linger % 65536 ∧ u16 b 8 = f.dozeLimit % 65536 ∧ u16 b 10 = f.pauseWait % 65536 ∧
    u16 b 12 = f.guardSlots % 65536 ∧ u16 b 14 = f.prepTime % 65536 ∧ u16 b 16 = f.focusLead % 65536 ∧
    u16 b 18 = f.strobe % 65536 ∧ u16 b 20 = f.press % 65536 ∧ u16 b 22 = f.slack % 65536 ∧
    u16 b 24 = f.confirm % 65536 ∧ u16 b 26 = f.keepBase % 65536 ∧ u8 b 28 = (if f.lockOn then 2 else 1) ∧
    u16 b 29 = f.lockTimeout % 65536 ∧ u8 b 31 = l.length ∧
    (∀ i < 9, u8 b (32 + i) = (l.filter (fun p => (s.port p).power.code == i + 1)).length) ∧
    ((∃ p ∈ l, (s.port p).grade = none) → u8 b 41 = 255) ∧
    ((∀ p ∈ l, (s.port p).grade ≠ none) →
      u8 b 41 = (l.map (fun p => (s.port p).grade.getD 0)).foldr max 0 % 256) ∧
    ((∃ p ∈ l, (s.port p).reading = none) → u32 b 42 = carried none) ∧
    ((∀ p ∈ l, (s.port p).reading ≠ none) →
      u32 b 42 = carried (some (l.map (fun p => (s.port p).reading.getD 0)).sum)) ∧
    u16 b 46 = (l.map (fun p => (s.port p).commitment.getD 0)).sum % 65536 ∧
    u8 b 48 = (s.cues.filter (fun c => c.station == st && c.state != .done)).length % 256 ∧
    u32 b 49 = carried ((s.cues.find? (fun c => c.station == st && c.state != .done)).map (·.time)) ∧
    u16 b 53 = s.steady % 65536 ∧ u16 b 55 = s.inrush % 65536 ∧
    u16 b 57 = (allPorts.map (fun p => (s.port p).commitment.getD 0)).sum % 65536 ∧
    u16 b 59 = s.highestOccupancy % 65536) ∧
  (∀ s : State, (∀ x < 400000000, 0 ≤ s.offset x → s.occupancy x ≤ s.highestOccupancy) ∧
    (s.highestOccupancy = 0 ∨ ∃ x, 0 ≤ s.offset x ∧ s.occupancy x = s.highestOccupancy) ∧
    ∀ x, s.occupancy x = (allPorts.map (fun p => ((s.port p).resv.map (fun v =>
      if diffSlot x v.start < v.length then v.current else 0)).getD 0)).sum) ∧
  (∀ (c : Cue) (b : List Byte) (n m : Nat), b = c.bytes → n = c.profile.length → m = c.members.length →
    b.length = 33 + 2 * n + 8 * m ∧ u8 b 0 = c.id % 256 ∧ u8 b 1 = c.station.val ∧
    u8 b 2 = (match c.state with
      | .waiting => 1
      | .planned => 2
      | .preparing => 3
      | .fireWait => 4
      | .firing => 5
      | .confirming => 6
      | .done => 7) ∧
    u8 b 3 = (match c.form with
      | .none_ => 1
      | .clear => 2
      | .keep => 3) ∧
    u32 b 4 = c.time % 4294967296 ∧ u32 b 8 = c.posting % 4294967296 ∧ u32 b 12 = carried (c.grant.map (·.t0)) ∧
    CarriesPorts b 16 (· ∈ c.confirm) ∧ u32 b 20 = carried c.timer ∧
    (c.state ≠ .done → u8 b 24 = 0 ∧ u32 b 25 = carried none ∧ u16 b 29 = 0) ∧
    (c.state = .done →
      (c.grant = none → u8 b 24 = 3 ∧ u32 b 25 = carried none ∧ u16 b 29 = 0) ∧
      (∀ g, c.grant = some g → u8 b 24 = (if g.delay = 0 then 1 else 2) ∧ u32 b 25 = carried (some g.fire) ∧
        u16 b 29 = g.delay % 65536)) ∧
    u8 b 31 = n % 256 ∧ u8 b 32 = m % 256 ∧
    (∀ (i : Nat) (h : i < c.profile.length),
      u8 b (33 + 2 * i) = c.profile[i].attr % 256 ∧ b.getD (33 + 2 * i + 1) 0#8 = c.profile[i].value) ∧
    (∀ (i : Nat) (h : i < c.members.length), CarriesMember b (33 + 2 * n + 8 * i) c.members[i])) ∧
  (∀ m : Member, m.bytes.length = 8 ∧ CarriesMember m.bytes 0 m) ∧
  ((∀ w : Power, w.code = (match w with
      | .vacant => 1
      | .deep => 2
      | .waking _ => 3
      | .ready _ _ => 4
      | .armed _ _ => 5
      | .doze _ => 6
      | .keepwarm _ => 7
      | .pausing _ _ => 8
      | .fault _ => 9)) ∧
    (Disp.covered.code = 1 ∧ Disp.placed.code = 2 ∧ Disp.latePredicted.code = 3 ∧ Disp.shed.code = 4 ∧
      Disp.parked.code = 5 ∧ Disp.thermal.code = 6 ∧ Disp.fault.code = 7 ∧ Disp.vacant.code = 8) ∧
    (Prep.notStarted.code = 1 ∧ Prep.writing.code = 2 ∧ Prep.complete.code = 3 ∧ Prep.late.code = 4 ∧
      Prep.failed.code = 5) ∧
    (CamOutcome.taken.code = 1 ∧ CamOutcome.noConfirm.code = 2 ∧ CamOutcome.notReady.code = 3 ∧
      CamOutcome.prepLate.code = 4 ∧ CamOutcome.prepFailed.code = 5 ∧ CamOutcome.mediaFull.code = 6 ∧
      CamOutcome.shed.code = 7 ∧ CamOutcome.parked.code = 8 ∧ CamOutcome.thermal.code = 9 ∧
      CamOutcome.fault.code = 10 ∧ CamOutcome.vacant.code = 11)) ∧
  (∀ (s : State) (k : Position) (e : IdEntry) (b : List Byte) (o : Nat), b = idEntryBytes s k e →
    o = 23 + max 16 (2 * e.shadow.length) →
    b.length = o + 7 ∧ (e.shadow.length ≤ 8 → o = 39) ∧ u8 b 0 = k.val ∧ identAt b 1 = e.ident ∧
    u8 b 7 = e.bound.elim 255 (·.val) ∧ u8 b 8 = (if e.pinned then 1 else 0) ∧
    (e.profile = none → u8 b 9 = 0 ∧ u8 b 10 = 0 ∧ u8 b 11 = 0) ∧
    (∀ g, e.profile = some g → u8 b 9 = 1 ∧ u8 b 10 = (if g.overridden then 2 else 1) ∧
      u8 b 11 = (if g.clamped then 1 else 0)) ∧
    CarriesProfile b 12 (e.profile.map (·.figures)) ∧ u8 b 22 = e.shadow.length % 256 ∧
    (∀ (i : Nat) (h : i < e.shadow.length),
      u8 b (23 + 2 * i) = e.shadow[i].attr % 256 ∧ b.getD (23 + 2 * i + 1) 0#8 = e.shadow[i].value) ∧
    (∀ i, 23 + 2 * e.shadow.length ≤ i → i < o → u8 b i = 0) ∧ u32 b o = carried e.unbind ∧
    (e.bound.isSome = true ∨ e.pinned = true ∨ e.unbind = none → u16 b (o + 4) = 0) ∧
    (∀ t, e.bound = none → e.pinned = false → e.unbind = some t →
      u16 b (o + 4) = diffMs s.clock t / 1000 % 65536) ∧
    (e.bound = none → u8 b (o + 6) = 0) ∧ (∀ p, e.bound = some p → u8 b (o + 6) = (s.port p).power.code)) ∧
  (∀ (ps : List PortId) (w : Walk), CarriesPorts (portSetBytes ps) 0 (· ∈ ps) ∧
    (w.next < 32 → w.nextByte = toByte w.next)) ∧
  (∀ (r : Request) (s : State), Taken .stationGet r s →
     (∀ st : StationId, u8 r.body 0 = st.val →
       exec (.stationGet r) s = .next (s.replied 0x85#8 r.tag (0x00#8 :: stationGetBytes st s))) ∧
     (4 ≤ u8 r.body 0 → exec (.stationGet r) s = .next (s.replied 0x85#8 r.tag [0x04#8]))) ∧
  (∀ (r : Request) (s : State), Taken .cueList r s →
     (15 < u8 r.body 0 → exec (.cueList r) s = .next (s.replied 0x8F#8 r.tag [0x04#8])) ∧
     (u8 r.body 0 ≤ 15 → ∃ n, exec (.cueList r) s = .next (s.replied 0x8F#8 r.tag
         ([0x00#8, toByte s.cues.length,
           if n < (s.cues.drop (u8 r.body 0)).length then toByte (u8 r.body 0 + n) else 0xFF#8] ++
           ((s.cues.drop (u8 r.body 0)).take n).flatMap Cue.bytes)) ∧
       (((s.cues.drop (u8 r.body 0)).take n).flatMap Cue.bytes).length ≤ 505 ∧
       n ≤ (s.cues.drop (u8 r.body 0)).length ∧
       (n < (s.cues.drop (u8 r.body 0)).length →
         505 < (((s.cues.drop (u8 r.body 0)).take (n + 1)).flatMap Cue.bytes).length))) ∧
  (∀ (r : Request) (s : State), Taken .idList r s →
     (31 < u8 r.body 0 → exec (.idList r) s = .next (s.replied 0x95#8 r.tag [0x04#8])) ∧
     (u8 r.body 0 ≤ 31 → ∃ next : Byte, exec (.idList r) s = .next (s.replied 0x95#8 r.tag
       ([0x00#8] ++ le16 s.aging ++ (match s.walk with
           | some w => [0x01#8, w.nextByte]
           | none => [0x00#8, 0xFF#8]) ++
         [toByte (allPositions.filter (fun k => (s.entryAt k).isSome)).length] ++
         portSetBytes (allPorts.filter (fun p => (s.port p).conflict)) ++
         [next, toByte (min 8 (allPositions.filter (fun k => decide (u8 r.body 0 ≤ k.val) &&
           (s.entryAt k).isSome)).length)] ++
         ((allPositions.filterMap (fun k => if u8 r.body 0 ≤ k.val then (s.entryAt k).map (idEntryBytes s k)
           else none)).take 8).flatten))))

/-- BUDGET_SET: each budget is rounded down to a multiple of 100 mA, clamped to its range and raised, where it is below
what is committed, to that rounded up to a multiple of 100 mA; the inrush figures of every profile of the table and of
the ports are clamped to the inrush budget, a reduced stored profile being flagged as clamped; nothing else changes. -/
def Obligations.BudgetSet : Prop :=
  ∀ (r : Request) (s : State), Taken .budgetSet r s →
    ∃ u : State, exec (.budgetSet r) s = .next (u.replied 0x86#8 r.tag
        ((if u.steady = u16 r.body 0 ∧ u.inrush = u16 r.body 2 then 0x00#8 else 0x01#8) ::
          (le16 u.steady ++ le16 u.inrush ++ le16 u.committed ++ le16 u.highestOccupancy))) ∧
      u.steady = (if clamp 1000 40000 (u16 r.body 0 / 100 * 100) < s.committed then (s.committed + 99) / 100 * 100
        else clamp 1000 40000 (u16 r.body 0 / 100 * 100)) ∧
      u.inrush = (if clamp 500 10000 (u16 r.body 2 / 100 * 100) < s.highestOccupancy then
          (s.highestOccupancy + 99) / 100 * 100
        else clamp 500 10000 (u16 r.body 2 / 100 * 100)) ∧
      u.steady % 100 = 0 ∧ 1000 ≤ u.steady ∧ s.committed ≤ u.steady ∧ (s.committed ≤ 40000 → u.steady ≤ 40000) ∧
      u.inrush % 100 = 0 ∧ 500 ≤ u.inrush ∧ s.highestOccupancy ≤ u.inrush ∧
      (s.highestOccupancy ≤ 10000 → u.inrush ≤ 10000) ∧
      (∀ p, u.port p = { s.port p with profile := (s.port p).profile.map (fun f => { f with
        deepInrush := min f.deepInrush u.inrush, resumeInrush := min f.resumeInrush u.inrush }) }) ∧
      (∀ k, u.entryAt k = (s.entryAt k).map (fun e => { e with profile := e.profile.map (fun g => { g with
        figures := { g.figures with
          deepInrush := min g.figures.deepInrush u.inrush, resumeInrush := min g.figures.resumeInrush u.inrush }
        clamped := g.clamped || decide (u.inrush < g.figures.deepInrush) ||
          decide (u.inrush < g.figures.resumeInrush) }) })) ∧
      u = { s with steady := u.steady, inrush := u.inrush, ports := u.ports, table := u.table }

/-- PORT_SET: the rail limit is stored clamped; a port whose enable state stays keeps its camera; a disabling is taken as a
presence fall, and changes no camera where there is none; an enabling with presence high is taken as a presence rise, with
all that R4 does at one (`PresenceRisen`), in a port that its limit and its enable state have been stored in; one with
presence low changes no camera. A port above 23 or an unknown enable code is BAD_ARG. At a presence fall what R5 does is
done (host requests are answered at once, the model's choice, log 14; the cues record it). (That the statuses of a cue with
an empty profile stay is the model's choice, log 15.) -/
def Obligations.PortSet : Prop :=
  (∀ (r : Request) (s : State), Taken .portSet r s → 24 ≤ u8 r.body 0 →
    exec (.portSet r) s = .next (s.replied 0x87#8 r.tag [0x04#8])) ∧
  ∀ (r : Request) (s : State) (p : PortId), Taken .portSet r s → u8 r.body 0 = p.val →
    (u8 r.body 3 ≠ 1 → u8 r.body 3 ≠ 2 → exec (.portSet r) s = .next (s.replied 0x87#8 r.tag [0x04#8])) ∧
    (u8 r.body 3 = (if (s.port p).enabled then 1 else 2) →
      exec (.portSet r) s = .next (finish ((s.modPort p (fun c => { c with
        railLimit := clamp 500 4000 (u16 r.body 1) })).replied 0x87#8 r.tag
          ([if clamp 500 4000 (u16 r.body 1) = u16 r.body 1 then 0x00#8 else 0x01#8] ++
            le16 (clamp 500 4000 (u16 r.body 1)) ++ [toByte (u8 r.body 3)] ++ readingBytes (s.port p).reading)))) ∧
    (u8 r.body 3 = 2 → (s.port p).enabled = true → (s.port p).power ≠ .vacant →
      ∃ (u : State) (code : Byte) (rest : List Byte),
        exec (.portSet r) s = .next (finish (u.replied 0x87#8 r.tag (code :: rest))) ∧
        (code = 0x00#8 ∨ code = 0x01#8) ∧ VacantEntered p s u ∧ (u.port p).enabled = false ∧
        (u.port p).railLimit = clamp 500 4000 (u16 r.body 1) ∧
        code :: rest = [if clamp 500 4000 (u16 r.body 1) = u16 r.body 1 then 0x00#8 else 0x01#8] ++
          le16 (clamp 500 4000 (u16 r.body 1)) ++ [0x02#8, 0x00#8, 0x00#8]) ∧
    (u8 r.body 3 = 1 → (s.port p).enabled = false → (s.port p).power = .vacant → (s.port p).presence = true →
      ∃ u : State, exec (.portSet r) s = .next (finish (u.replied 0x87#8 r.tag
          ([if clamp 500 4000 (u16 r.body 1) = u16 r.body 1 then 0x00#8 else 0x01#8] ++
            le16 (clamp 500 4000 (u16 r.body 1)) ++ [0x01#8, 0x00#8, 0x00#8]))) ∧
        exec (.presenceRise p (s.port p).attention) (s.modPort p (fun c => { c with
          railLimit := clamp 500 4000 (u16 r.body 1), enabled := true })) = .next (finish u) ∧
        PresenceRisen p s u ∧ (u.port p).enabled = true ∧ (u.port p).presence = true ∧
        (u.port p).attention = (s.port p).attention ∧ (u.port p).held = (s.port p).held ∧
        (u.port p).railLimit = clamp 500 4000 (u16 r.body 1)) ∧
    ((u8 r.body 3 = 1 ∧ (s.port p).enabled = false ∧ ((s.port p).presence = false ∨ (s.port p).power ≠ .vacant)) ∨
        (u8 r.body 3 = 2 ∧ (s.port p).enabled = true ∧ (s.port p).power = .vacant) →
      exec (.portSet r) s = .next (finish ((s.modPort p (fun c => { c with
        railLimit := clamp 500 4000 (u16 r.body 1), enabled := decide (u8 r.body 3 = 1) })).replied 0x87#8 r.tag
          ([if clamp 500 4000 (u16 r.body 1) = u16 r.body 1 then 0x00#8 else 0x01#8] ++
            le16 (clamp 500 4000 (u16 r.body 1)) ++ [toByte (u8 r.body 3)] ++ readingBytes (s.port p).reading))))

/-! ## Advance wakes -/

/-- AHEAD_WAKE of one port, by Table 47: a READY camera, or one in an automatic PAUSING, takes the order as an
AHEAD_WRITE; an ARMED or waking one holds it; in FAULT, in VACANT, parked, at grade 7 or with no profile it takes
none; a paused one is admitted, without its unstarted reservation, and placed for no cue at the earliest fitting
start, or is OVER_BUDGET and replanned. That a camera in DEEP with a started reservation holds the order, with the
result WAKING, is the model's choice (log 40).

AHEAD_WAKE of several ports: the named ports, those of the set or the members of the station, are handled one after
another in ascending order, each in the state the ports before it left, and the reply carries their results in that
order.

AHEAD_WAKE's refusals: BAD_ARG for an unknown selector, a station above 3, a port set that is empty or names a port
above 23, and a profile that is not 1–4 pairs of different capture attributes; BAD_STATE for an undefined station. -/
def Obligations.AheadWake : Prop :=
  (∀ (r : Request) (s : State) (p : PortId) (o : Order) (status : Byte), Taken .aheadWake r s →
     s.aheadNamed r.body = .inr [p] → aheadPairsOk (u8 r.body 8) (pairsAt r.body 9 (u8 r.body 8)) = true →
     o = ⟨sortPairs (pairsAt r.body 9 (u8 r.body 8)), clamp 1 600 (u16 r.body 6),
       addMs s.clock (clamp 1 600 (u16 r.body 6) * 1000), s.tickets⟩ →
     status = (if clamp 1 600 (u16 r.body 6) = u16 r.body 6 then 0x00#8 else 0x01#8) →
     ((s.port p).power.isReady = true ∨ ((s.port p).power.isPausing = true ∧ (s.port p).hostPause = false) →
       ∃ u : State, exec (.aheadWake r) s = .next (finish (u.replied 0x91#8 r.tag
           ([status] ++ le16 o.lifetime ++ [0x01#8, toByte p.val, 0x01#8] ++ le32 0xFFFFFFFF))) ∧
         (u.port p).order = none ∧ (u.port p).power.isReady = true ∧ u.table = s.table ∧ u.still = s.still ∧
         (∀ f, s.stationOf p = some f → (u.port p).power.restTimer? = some (addMs s.clock (f.linger * 1000))) ∧
         (∃ j ∈ (u.port p).queue ++ (u.port p).waitLine, j.kind = .aheadWrite o.pairs o.lifetime o.expiry o.seq) ∧
         (∀ q, q ≠ p → u.port q = s.port q)) ∧
     (∀ code, ((s.port p).power.isArmed = true ∧ code = 0x02#8) ∨ ((s.port p).power.isWaking = true ∧ code = 0x03#8) ∨
         (((s.port p).power.paused? = some .doze ∨ (s.port p).power.paused? = some .keepwarm) ∧
           (s.port p).startedResv = true ∧ code = 0x03#8) ∨
         ((s.port p).power = .deep ∧ (s.port p).startedResv = true ∧ (s.port p).hostPause = false ∧
           (s.port p).grade ≠ some 7 ∧ (s.port p).profile.isSome = true ∧ code = 0x03#8) →
       exec (.aheadWake r) s = .next (finish ((s.modPort p (fun c => { c with order := some o })).replied 0x91#8 r.tag
           ([status] ++ le16 o.lifetime ++ [0x01#8, toByte p.val, code] ++ le32 0xFFFFFFFF)))) ∧
     (∀ code, ((s.port p).power.isFault = true ∧ code = 0x09#8) ∨ ((s.port p).power.isVacant = true ∧ code = 0x0A#8) ∨
         ((s.port p).power.isPausing = true ∧ (s.port p).hostPause = true ∧ code = 0x06#8) ∨
         ((s.port p).power.paused?.isSome = true ∧ ((s.port p).startedResv = false ∨ (s.port p).power = .deep) ∧
           (((s.port p).hostPause = true ∧ code = 0x06#8) ∨
             ((s.port p).hostPause = false ∧ (s.port p).grade = some 7 ∧ code = 0x07#8) ∨
             ((s.port p).hostPause = false ∧ (s.port p).grade ≠ some 7 ∧ (s.port p).profile = none ∧ code = 0x08#8))) →
       exec (.aheadWake r) s = .next (finish (s.replied 0x91#8 r.tag
           ([status] ++ le16 o.lifetime ++ [0x01#8, toByte p.val, code] ++ le32 0xFFFFFFFF)))) ∧
     (∀ t f, (s.port p).power.paused? = some t → (s.port p).startedResv = false → (s.port p).hostPause = false →
       (s.port p).grade ≠ some 7 → (s.port p).profile = some f →
       (∀ k, s.committed - (s.port p).unstartedFigure + f.awake ≤ s.steady →
         EarliestFit (releaseUnstarted p s) (windowCurrent t f) (windowLength t f) k →
         ∃ u : State, exec (.aheadWake r) s = .next (finish (u.replied 0x91#8 r.tag
             ([status] ++ le16 o.lifetime ++ [0x01#8, toByte p.val, 0x04#8] ++ le32 (addSlot s.nowSlot k)))) ∧
           (u.port p).resv = some (reservationAt t f (s.shadowOf p).length (addSlot s.nowSlot k) none) ∧
           (u.port p).order = some o ∧ (u.port p).commitment = some f.awake ∧
           (u.port p).power = (s.port p).power ∧ (∀ q, q ≠ p → u.port q = s.port q)) ∧
       (s.steady < s.committed - (s.port p).unstartedFigure + f.awake →
         ∃ u : State, u = replan p (releaseUnstarted p s) ∧ exec (.aheadWake r) s = .next (finish (u.replied 0x91#8 r.tag
             ([status] ++ le16 o.lifetime ++ [0x01#8, toByte p.val, 0x05#8] ++ le32 0xFFFFFFFF))) ∧
           (u.port p).order = (s.port p).order ∧ (u.port p).power = (s.port p).power ∧
           (∀ q, q ≠ p → u.port q = s.port q)))) ∧
  ((∀ (r : Request) (s : State) (named : List PortId) (o : Order), Taken .aheadWake r s →
     s.aheadNamed r.body = .inr named → aheadPairsOk (u8 r.body 8) (pairsAt r.body 9 (u8 r.body 8)) = true →
     o = ⟨sortPairs (pairsAt r.body 9 (u8 r.body 8)), clamp 1 600 (u16 r.body 6),
       addMs s.clock (clamp 1 600 (u16 r.body 6) * 1000), s.tickets⟩ →
     named.Pairwise (· < ·) ∧ named ≠ [] ∧
     ((u8 r.body 0 = 2 ∧ ∀ p : PortId, p ∈ named ↔ (u32 r.body 2).testBit p.val = true) ∨
       (u8 r.body 0 = 1 ∧ ∀ p : PortId, p ∈ named ↔ ((s.port p).station.map (·.val)) = some (u8 r.body 1))) ∧
     exec (.aheadWake r) s = .next (finish ((aheadPorts o named s).2.replied 0x91#8 r.tag
       ([if clamp 1 600 (u16 r.body 6) = u16 r.body 6 then 0x00#8 else 0x01#8] ++ le16 o.lifetime ++
         [toByte named.length] ++ (aheadPorts o named s).1)))) ∧
   (∀ (o : Order) (p : PortId) (rest : List PortId) (s : State), aheadPorts o [] s = ([], s) ∧
     aheadPorts o (p :: rest) s = ((aheadPorts o [p] s).1 ++ (aheadPorts o rest (aheadPorts o [p] s).2).1,
       (aheadPorts o rest (aheadPorts o [p] s).2).2))) ∧
  (∀ (r : Request) (s : State), Taken .aheadWake r s →
     ((u8 r.body 0 ≠ 1 ∧ u8 r.body 0 ≠ 2) ∨ (u8 r.body 0 = 1 ∧ 4 ≤ u8 r.body 1) ∨
         (u8 r.body 0 = 2 ∧ (u32 r.body 2 = 0 ∨ 16777216 ≤ u32 r.body 2)) ∨
         aheadPairsOk (u8 r.body 8) (pairsAt r.body 9 (u8 r.body 8)) = false →
       exec (.aheadWake r) s = .next (s.replied 0x91#8 r.tag [0x04#8])) ∧
     (∀ st : StationId, u8 r.body 0 = 1 → u8 r.body 1 = st.val → s.membersOf st = [] →
       aheadPairsOk (u8 r.body 8) (pairsAt r.body 9 (u8 r.body 8)) = true →
       exec (.aheadWake r) s = .next (s.replied 0x91#8 r.tag [0x05#8])))

/-- AHEAD_DROP: the named ports lose their entries, their orders and their AHEAD_WRITE jobs that are not in flight, from the
queue and from the waiting line, and the reply names the orders and entries removed; every other port and entry stays. An
AHEAD_WRITE in flight makes no further write after its current exchange, which creates no entry (`cut`, `noEntry`); with no
exchange of it on the lane it leaves the queue at once (in a state in which no job of a port but the head of its queue has been
started). The other jobs keep their order in the queue, and none is lost; states, reservations and lanes stay.

ORDER_EXPIRY and ADVANCE_ENTRY_EXPIRY: the order, and the entry of the port and attribute, are removed at their
expiry.

An AHEAD_WRITE that meets its start check in a state that does not admit it returns its pairs as an order, with the
lifetime and the expiry they had, unless the expiry has passed or the port holds a newer order; an older one held
gives way. -/
def Obligations.AheadRemoval : Prop :=
  (∀ (r : Request) (s : State), Taken .aheadDrop r s →
     (16777216 ≤ u32 r.body 0 → exec (.aheadDrop r) s = .next (s.replied 0x92#8 r.tag [0x04#8])) ∧
     (u32 r.body 0 < 16777216 →
       ∃ u : State, exec (.aheadDrop r) s = .next (finish (u.replied 0x92#8 r.tag
           ([0x00#8] ++ portSetBytes ((portsOf (u32 r.body 0)).filter (fun p => (s.port p).order.isSome)) ++
             [toByte (s.adv.filter (fun e => (u32 r.body 0).testBit e.port.val)).length] ++
             (s.adv.filter (fun e => (u32 r.body 0).testBit e.port.val)).flatMap AdvEntry.bytes))) ∧
         u.adv = s.adv.filter (fun e => !(u32 r.body 0).testBit e.port.val) ∧
         (∀ p : PortId, (u32 r.body 0).testBit p.val = true → (u.port p).order = none ∧
           ∀ j ∈ (u.port p).queue, j.isAhead = true → j.started = true) ∧
         (∀ p : PortId, (u32 r.body 0).testBit p.val = true →
           (∀ j ∈ (u.port p).waitLine, j.isAhead = false) ∧
           (∀ j js, (s.port p).queue = j :: js → j.isAhead = true → j.started = true →
             ((s.port p).laneHasJob = true → (u.port p).queue.head? = some { j with cut := true, noEntry := true }) ∧
             ((s.port p).laneHasJob = false → (s.port p).OnlyHeadStarted →
               ∀ i ∈ (u.port p).queue, i.isAhead = false)) ∧
           ((s.port p).queue.filter (fun j => !j.isAhead)) <+: ((u.port p).queue.filter (fun j => !j.isAhead)) ∧
           (∀ j ∈ (s.port p).queue ++ (s.port p).waitLine, j.isAhead = false →
             j ∈ (u.port p).queue ++ (u.port p).waitLine) ∧
           (u.port p).power = (s.port p).power ∧ (u.port p).resv = (s.port p).resv ∧
           (u.port p).commitment = (s.port p).commitment ∧ (u.port p).lane = (s.port p).lane) ∧
         (∀ p : PortId, (u32 r.body 0).testBit p.val = false → u.port p = s.port p) ∧
         u.table = s.table ∧ u.cues = s.cues ∧ u.still = s.still)) ∧
  (∀ (p : PortId) (s : State),
     (∀ o, (s.port p).order = some o → reachedMs s.clock o.expiry = true →
       exec (.orderExpiry p) s = .next (s.modPort p (fun c => { c with order := none }))) ∧
     (∀ (a : Nat) (e : AdvEntry), s.adv.find? (fun e => e.port == p && e.attr == a) = some e →
       reachedMs s.clock e.expiry = true →
       exec (.advanceEntryExpiry p a) s = .next { s with adv := s.adv.filter (fun e => !(e.port == p && e.attr == a)) })) ∧
  (∀ (p : PortId) (j : Job) (o : Order) (s : State), j.kind = .aheadWrite o.pairs o.lifetime o.expiry o.seq →
     (j.mayStart (s.port p) = true ↔ (s.port p).power.isReady = true ∨ (s.port p).power.isPausing = true) ∧
     (reachedMs s.clock o.expiry = true → startCheckFailed p j s = s) ∧
     (∀ x, (s.port p).order = some x → o.seq < x.seq → startCheckFailed p j s = s) ∧
     (reachedMs s.clock o.expiry = false → (∀ x, (s.port p).order = some x → x.seq ≤ o.seq) →
       startCheckFailed p j s = s.modPort p (fun c => { c with order := some o })))

/-- A write through the part: the advance entry of its port and number is removed; a success puts the pair into the shadow
of the bound entry, in the place of one of its number, and a failure leaves the identity table; a new advance entry
stands last, a full table losing its oldest.

The writes of jobs end. A HOST_WRITE that succeeds is answered OK, and one of 16–23 is a write through the part.

A PREP_WRITE's write through the part that succeeds, when the cue keeps entries, makes a VALID one of 60 s; the job
goes on to the next pair, and after the last the PREPARING cue's member that is WRITING becomes COMPLETE. One that
fails its retry makes a VOID entry of 60 s and ends the job, and the member becomes FAILED. The end of such a job, and
of a HOST_WRITE, is an event for a camera in PAUSING after the freed entry is served.

An AHEAD_WRITE's write makes an entry of the order's lifetime, VALID when it succeeds and VOID when it fails, and the
job goes on to the next pair either way. A job cut short makes no further write; one that makes no entries makes none.

A response that fails a retry has the effect of the response limit. (The ages of an attempt at which a response or the
limit counts are the model's choice, log 9, and so is the run of 3 that stays in FAULT, log 12.) -/
def Obligations.WriteThrough : Prop :=
  ((∀ (p : PortId) (pr : Pair) (ok : Bool) (s : State),
     (writeThrough p pr ok s).adv = s.adv.filter (fun e => !(e.port == p && e.attr == pr.attr)) ∧
     (writeThrough p pr ok s).ports = s.ports ∧ (writeThrough p pr ok s).still = s.still ∧
     (ok = false ∨ s.boundPos p = none → (writeThrough p pr ok s).table = s.table) ∧
     (∀ k e, ok = true → s.boundPos p = some k → s.entryAt k = some e →
       (writeThrough p pr ok s).entryAt k = some { e with shadow := updateShadow pr e.shadow } ∧
       ∀ j, j ≠ k → (writeThrough p pr ok s).entryAt j = s.entryAt j)) ∧
   (∀ (pr : Pair) (l : List Pair), l.Pairwise (fun a b => a.attr < b.attr) →
     (updateShadow pr l).Pairwise (fun a b => a.attr < b.attr) ∧
     ∀ q, q ∈ updateShadow pr l ↔ q = pr ∨ (q ∈ l ∧ q.attr ≠ pr.attr)) ∧
   (∀ (p : PortId) (pr : Pair) (v : Bool) (life : Nat) (s : State), s.adv.length ≤ 32 →
     ∃ l, (appendEntry p pr v life s).adv = l ++ [⟨p, pr.attr, pr.value, v, s.clock, addMs s.clock (life * 1000)⟩] ∧
       ((s.adv.filter (fun e => !(e.port == p && e.attr == pr.attr))).length < 32 →
         l = s.adv.filter (fun e => !(e.port == p && e.attr == pr.attr))) ∧
       ((s.adv.filter (fun e => !(e.port == p && e.attr == pr.attr))).length = 32 → l = s.adv.drop 1))) ∧
  ((∀ (p : PortId) (s : State) (e : Exchange) (j : Job) (js : List Job) (t n : Nat) (x st d : Byte) (a : Bool),
     JobSucceeds p e j js st d s → e.op = .write → j.kind = .hostWrite t n x → e.attr = n → e.data = x →
     exec (.laneResponse p st d (responseCheck st d) a) s = .next (finish (pausingEvent p
       (({ (if 16 ≤ n ∧ n ≤ 23 then writeThrough p ⟨n, x⟩ true s else s).jobDone p a js with
         line := s.line.map (fun y : ReplyEntry =>
           if y.ticket = t ∧ y.body = none then { y with body := some [0x00#8] } else y) }).modPort p
         Port.serveRoom)))) ∧
   (∀ (p : PortId) (s w : State) (e : Exchange) (j : Job) (js : List Job) (cue : Nat) (keep : Bool) (pr : Pair)
       (rest : List Pair) (st d : Byte) (a : Bool),
     JobSucceeds p e j js st d s → e.op = .write → j.kind = .prepWrite cue keep (pr :: rest) → e.attr = pr.attr →
     e.data = pr.value → 16 ≤ pr.attr → pr.attr ≤ 23 → (s.port p).power.isLost = false →
     w = (if keep = true ∧ j.noEntry = false then appendEntry p pr true 60 (writeThrough p pr true s)
       else writeThrough p pr true s) →
     (rest ≠ [] → j.cut = false → exec (.laneResponse p st d (responseCheck st d) a) s =
       .next (finish (w.jobDone p a ({ j with kind := .prepWrite cue keep rest } :: js)))) ∧
     (j.cut = true → exec (.laneResponse p st d (responseCheck st d) a) s =
       .next (finish (pausingEvent p ((w.jobDone p a js).modPort p Port.serveRoom)))) ∧
     (∀ c m, rest = [] → j.cut = false → s.cue? cue = some c → c.state = .preparing →
       c.members.find? (fun m => m.port == p) = some m → m.prep = .writing →
       exec (.laneResponse p st d (responseCheck st d) a) s = .next (finish (pausingEvent p
         (({ w.jobDone p a js with cues := s.cues.map (fun x : Cue =>
           if x.id = cue then x.modMember p ({ · with prep := .complete }) else x) }).modPort p Port.serveRoom))))) ∧
   (∀ (p : PortId) (s : State) (e : Exchange) (j : Job) (js : List Job) (cue : Nat) (keep : Bool) (pr : Pair)
       (rest : List Pair) (c : Cue) (m : Member) (a : Bool),
     JobFails p e j js s → e.op = .write → j.kind = .prepWrite cue keep (pr :: rest) → e.attr = pr.attr →
     16 ≤ pr.attr → pr.attr ≤ 23 → (s.port p).power.isLost = false → j.cut = false → s.cue? cue = some c →
     c.state = .preparing → c.members.find? (fun m => m.port == p) = some m → m.prep = .writing →
     ∃ v : State, exec (.responseLimitExpiry p a) s = .next (finish (pausingEvent p (v.modPort p Port.serveRoom))) ∧
       v.cues = s.cues.map (fun x => if x.id = cue then x.modMember p ({ · with prep := .failed }) else x) ∧
       v.adv = (if keep = true ∧ j.noEntry = false then appendEntry p pr false 60 (writeThrough p pr false s)
         else writeThrough p pr false s).adv ∧
       v.table = s.table ∧ v.still = s.still ∧ (v.port p).power = (s.port p).power ∧
       (v.port p).run = (s.port p).run + 1 ∧ (v.port p).grade = none ∧ (v.port p).lane = none ∧
       (∀ q, q ≠ p → v.port q = s.port q)) ∧
   (∀ (p : PortId) (s w : State) (e : Exchange) (j : Job) (js : List Job) (pr : Pair) (rest : List Pair)
       (life expiry seq : Nat) (st d : Byte) (a : Bool),
     JobSucceeds p e j js st d s → e.op = .write → j.kind = .aheadWrite (pr :: rest) life expiry seq →
     e.attr = pr.attr → e.data = pr.value → 16 ≤ pr.attr → pr.attr ≤ 23 → (s.port p).power.isLost = false →
     w = (if j.noEntry = false then appendEntry p pr true life (writeThrough p pr true s)
       else writeThrough p pr true s) →
     (rest ≠ [] → j.cut = false → exec (.laneResponse p st d (responseCheck st d) a) s =
       .next (finish (w.jobDone p a ({ j with kind := .aheadWrite rest life expiry seq } :: js)))) ∧
     (rest = [] ∨ j.cut = true → exec (.laneResponse p st d (responseCheck st d) a) s =
       .next (finish ((w.jobDone p a js).modPort p Port.serveRoom)))) ∧
   (∀ (p : PortId) (s : State) (e : Exchange) (j : Job) (js : List Job) (pr : Pair) (rest : List Pair)
       (life expiry seq : Nat) (a : Bool),
     JobFails p e j js s → e.op = .write → j.kind = .aheadWrite (pr :: rest) life expiry seq → e.attr = pr.attr →
     16 ≤ pr.attr → pr.attr ≤ 23 → (s.port p).power.isLost = false →
     ∃ v : State,
       exec (.responseLimitExpiry p a) s =
         .next (finish (if rest ≠ [] ∧ j.cut = false then v else v.modPort p Port.serveRoom)) ∧
       (rest ≠ [] → j.cut = false →
         (v.port p).queue.head? = some { j with kind := .aheadWrite rest life expiry seq }) ∧
       (rest = [] ∨ j.cut = true → (v.port p).queue.take js.length = js) ∧
       v.adv = (if j.noEntry = false then appendEntry p pr false life (writeThrough p pr false s)
         else writeThrough p pr false s).adv ∧
       v.cues = s.cues ∧ v.table = s.table ∧ v.still = s.still ∧ (v.port p).power = (s.port p).power ∧
       (v.port p).run = (s.port p).run + 1 ∧ (v.port p).grade = none ∧ (v.port p).lane = none ∧
       (∀ q, q ≠ p → v.port q = s.port q)) ∧
   (∀ (p : PortId) (s : State), (s.port p).power.isPausing = false → pausingEvent p s = s) ∧
   (∀ (p : PortId) (s : State) (e : Exchange) (st d ch : Byte) (a : Bool), (s.port p).lane = some e →
     e.retry = true → 2 ≤ s.attemptAge e → s.attemptAge e ≤ 3 → attemptSucceeds e st d ch = false →
     exec (.laneResponse p st d ch a) s = exec (.responseLimitExpiry p a) s))

/-! ## Identities -/

/-- ID_PIN: an identity in the table is pinned in place, unless its camera is awake or holds a reservation: with override
flag 0 its profile stays as it was, with flag 1 it becomes the override's figures, rounded and clamped, which the
bound port works with. A new identity takes the lowest free position, unbound, pinned and with an empty shadow, with
flag 0 without a profile and with flag 1 with the override's figures; in a full table it takes the place of the
unpinned entry longest unbound, the lower position between equals; a full table with no evictable entry is NO_ROOM.
That an override flag above 1 is refused BAD_ARG ahead of the checks of R61 is the model's choice (log 43).

ID_UNPIN: a pinned entry is unpinned, its override becomes a learned profile, and an unbound one begins to age now; an
unpinned entry stays as it is; an identity not in the table is NOT_FOUND. -/
def Obligations.IdPinning : Prop :=
  (∀ (r : Request) (s : State), Taken .idPin r s →
     (1 < u8 r.body 6 → exec (.idPin r) s = .next (s.replied 0x96#8 r.tag [0x04#8])) ∧
     (∀ k e, s.posOf (identAt r.body 0) = some k → s.entryAt k = some e → u8 r.body 6 ≤ 1 → s.pinBlocked e = true →
       exec (.idPin r) s = .next (s.replied 0x96#8 r.tag [0x05#8])) ∧
     (∀ k e, s.posOf (identAt r.body 0) = some k → s.entryAt k = some e → u8 r.body 6 = 0 → s.pinBlocked e = false →
       exec (.idPin r) s = .next ((s.setEntry k (some { e with pinned := true, unbind := none })).replied 0x96#8 r.tag
         ([0x00#8, flagByte e.profile.isSome] ++ profileBytes (e.profile.map (·.figures))))) ∧
     (∀ k e, s.posOf (identAt r.body 0) = some k → s.entryAt k = some e → u8 r.body 6 = 1 → s.pinBlocked e = false →
       ∃ (u : State) (g : StoredProfile) (code : Byte), exec (.idPin r) s = .next (u.replied 0x96#8 r.tag
           ([code, 0x01#8] ++ g.figures.bytes)) ∧ (code = 0x00#8 ∨ code = 0x01#8) ∧
         u.entryAt k = some { e with pinned := true, unbind := none, profile := some g } ∧ g.overridden = true ∧
         g.figures = (profileAt r.body 7).tidied.clampInrush s.inrush ∧
         (code = 0x00#8 ↔ g.figures = profileAt r.body 7) ∧
         (∀ p, e.bound = some p → (u.port p).profile = some g.figures) ∧
         (∀ p, e.bound ≠ some p → u.port p = s.port p) ∧ (∀ j, j ≠ k → u.entryAt j = s.entryAt j)) ∧
     (∀ k, s.posOf (identAt r.body 0) = none → s.freePos = some k → u8 r.body 6 = 0 →
       exec (.idPin r) s = .next ((s.setEntry k (some ⟨identAt r.body 0, none, true, none, [], none⟩)).replied 0x96#8 r.tag
         ([0x00#8, 0x00#8] ++ List.replicate 10 0x00#8))) ∧
     (∀ k, s.posOf (identAt r.body 0) = none →
       s.freePos = some k ∨ s.freePos = none ∧ (∃ e, s.entryAt k = some e ∧ e.bound = none ∧ e.pinned = false ∧
         ∀ j d, s.entryAt j = some d → d.bound = none → d.pinned = false →
           diffMs s.clock (d.unbind.getD s.clock) < diffMs s.clock (e.unbind.getD s.clock) ∨
             (diffMs s.clock (d.unbind.getD s.clock) = diffMs s.clock (e.unbind.getD s.clock) ∧ k ≤ j)) →
       (u8 r.body 6 = 0 → exec (.idPin r) s = .next
         ((s.setEntry k (some ⟨identAt r.body 0, none, true, none, [], none⟩)).replied 0x96#8 r.tag
           ([0x00#8, 0x00#8] ++ List.replicate 10 0x00#8))) ∧
       (u8 r.body 6 = 1 → ∃ (g : StoredProfile) (code : Byte), exec (.idPin r) s = .next
           ((s.setEntry k (some ⟨identAt r.body 0, none, true, some g, [], none⟩)).replied 0x96#8 r.tag
             ([code, 0x01#8] ++ g.figures.bytes)) ∧ (code = 0x00#8 ∨ code = 0x01#8) ∧ g.overridden = true ∧
         g.figures = (profileAt r.body 7).tidied.clampInrush s.inrush ∧
         (code = 0x00#8 ↔ g.figures = profileAt r.body 7))) ∧
     (s.posOf (identAt r.body 0) = none → s.freePos = none → s.evictable = [] → u8 r.body 6 ≤ 1 →
       exec (.idPin r) s = .next (s.replied 0x96#8 r.tag [0x07#8]))) ∧
  (∀ (r : Request) (s : State), Taken .idUnpin r s →
     (s.posOf (identAt r.body 0) = none → exec (.idUnpin r) s = .next (s.replied 0x97#8 r.tag [0x08#8])) ∧
     (∀ k e, s.posOf (identAt r.body 0) = some k → s.entryAt k = some e →
       (e.pinned = true → exec (.idUnpin r) s = .next ((s.setEntry k (some { e with
         pinned := false
         profile := e.profile.map (fun g => { g with overridden := false })
         unbind := if e.bound = none then some s.clock else none })).replied 0x97#8 r.tag [0x00#8])) ∧
       (e.pinned = false → exec (.idUnpin r) s = .next (s.replied 0x97#8 r.tag [0x00#8]))))

/-- ID_CLEAR starts the clear walk at position 0, and is refused BUSY while one is in progress; a visit due every 2 ms
removes an unpinned entry and leaves a pinned one or a free position; the walk ends after its 32 positions.

ID_AGING stores the period clamped to 1–300 s and removes at once every entry that has aged out; ID_AGING_EXPIRY
removes an unbound, unpinned entry whose age has reached the period. -/
def Obligations.IdRemoval : Prop :=
  (∀ s : State,
     (∀ r : Request, Taken .idClear r s →
       (s.walk = none → exec (.idClear r) s = .next
         (({ s with walk := some ⟨s.clock, 0⟩ } : State).replied 0x98#8 r.tag [0x00#8])) ∧
       (s.walk.isSome = true → exec (.idClear r) s = .next (s.replied 0x98#8 r.tag [0x06#8]))) ∧
     (∀ w (k : Position), s.walk = some w → w.next = k.val → reachedMs s.clock (addMs w.t0 (2 * w.next)) = true →
       ∃ u : State, exec .clearWalkVisit s = .next (finish u) ∧ u.walk = some ⟨w.t0, w.next + 1⟩ ∧
         (∀ j, j ≠ k → u.entryAt j = s.entryAt j) ∧
         (∀ e, s.entryAt k = some e → e.pinned = true → u.entryAt k = some e) ∧
         (∀ e, s.entryAt k = some e → e.pinned = false → u.entryAt k = none) ∧
         (s.entryAt k = none → u.entryAt k = none) ∧ u.clock = s.clock ∧ u.line = s.line) ∧
     (∀ w, s.walk = some w → 32 ≤ w.next → reachedMs s.clock (addMs w.t0 64) = true →
       exec .clearWalkEnd s = .next { s with walk := none })) ∧
  (∀ s : State,
     (∀ r : Request, Taken .idAging r s →
       ∃ u : State, exec (.idAging r) s = .next (u.replied 0x99#8 r.tag
           (if clamp 1 300 (u16 r.body 0) = u16 r.body 0 then [0x00#8]
             else 0x01#8 :: le16 (clamp 1 300 (u16 r.body 0)))) ∧
         u.aging = clamp 1 300 (u16 r.body 0) ∧ u.clock = s.clock ∧
         (∀ k e, s.entryAt k = some e →
           (e.bound = none → e.pinned = false → (∃ t, e.unbind = some t ∧
               clamp 1 300 (u16 r.body 0) * 1000 ≤ diffMs s.clock t) → u.entryAt k = none) ∧
           (e.bound.isSome = true ∨ e.pinned = true ∨ (∃ t, e.unbind = some t ∧
               diffMs s.clock t < clamp 1 300 (u16 r.body 0) * 1000) → u.entryAt k = some e))) ∧
     (∀ (k : Position) (e : IdEntry) (t : Nat), s.entryAt k = some e → e.bound = none → e.pinned = false →
       e.unbind = some t → s.aging * 1000 ≤ diffMs s.clock t →
       exec (.idAgingExpiry k) s = .next (s.setEntry k none)))

/-- A completed IDENTIFY binds its identity to its port, which then works with the entry's profile. An entry in the table
keeps its position, its shadow and an override of its profile; another profile is replaced with the one read. The
entry of another identity that the port had becomes unbound, and ages unless it is pinned. A new identity takes the
lowest free position with the profile read; in a full table that of the entry longest unbound, the port's former one
counting as unbound now, the lower position between equals; with none to evict the port stays unlisted and works with
the profile read.

An identity already bound to the port is refreshed, and nothing else changes. Any other completion is an identity
change: the advance entries, the order and an unstarted reservation of the port are gone, it is marked, and it is
replanned. (That the preparation statuses go before the replanning is the model's choice, log 49.)

An entry bound to another port leaves it: that port gets the conflict mark and the note IDENTITY_CONFLICT, is marked,
loses its advance entries, its order and an unstarted reservation, and keeps its state, profile and jobs, but that a
RESTORE ends.

The READs of an IDENTIFY job, of the attributes 1 to 11 and 24 in that order. One that succeeds before the twelfth
goes on to the next; a job cut short ends with nothing handed on. The twelfth hands the identity of the first six
values, and the profile that Table 16 forms of the other six, to the identity table, after which the freed entry is
served. One that fails its retry ends the job, leaves the table and the profile, and owes another IDENTIFY (where no
job of the port but the head of its queue has been started, as every step keeps). (The ages of an attempt at which a
response or the limit counts are the model's choice, log 9, and so is the run of 3 that stays in FAULT, log 12.) -/
def Obligations.IdentityLearned : Prop :=
  (∀ (p : PortId) (x : Ident) (f : Profile) (s u : State), TableUnique s.table → u = identifyDone p x f s →
     (u.port p).conflict = false ∧ (u.port p).rescan = false ∧
     (∀ k e, s.posOf x = some k → s.entryAt k = some e → ∃ g : StoredProfile,
       g = (match e.profile with
         | some h => if h.overridden then h else s.storedProfile f false
         | none => s.storedProfile f false) ∧
       u.entryAt k = some { e with bound := some p, unbind := none, profile := some g } ∧
       (u.port p).profile = some g.figures ∧
       (e.bound = some p → u = (s.setEntry k (some { e with unbind := none, profile := some g })).modPort p (fun c => { c with
         profile := some g.figures, conflict := false, rescan := false }))) ∧
     (∀ k, s.posOf x = none → s.freePos = some k →
       u.entryAt k = some ⟨x, some p, false, some (s.storedProfile f false), [], none⟩ ∧
       (u.port p).profile = some (f.clampInrush s.inrush)) ∧
     (∀ j e, s.entryAt j = some e → e.bound = some p → e.ident ≠ x → s.posOf x ≠ none ∨ s.freePos ≠ none →
       u.entryAt j = some { e with bound := none, unbind := if e.pinned then none else some s.clock }) ∧
     (∀ j e, s.entryAt j = some e → e.bound ≠ some p → e.ident ≠ x → s.posOf x ≠ none ∨ s.freePos ≠ none →
       u.entryAt j = some e) ∧
     (s.posOf x = none → s.freePos = none →
       (∀ k e, s.entryAt k = some e → e.mayGo p →
         (∀ j d, s.entryAt j = some d → d.mayGo p → s.unboundFor p d < s.unboundFor p e ∨
           (s.unboundFor p d = s.unboundFor p e ∧ k ≤ j)) →
         u.entryAt k = some ⟨x, some p, false, some (s.storedProfile f false), [], none⟩ ∧
         (u.port p).profile = some (f.clampInrush s.inrush) ∧
         ∀ j d, j ≠ k → s.entryAt j = some d → u.entryAt j = some (if d.bound = some p then
           { d with bound := none, unbind := if d.pinned then none else some s.clock } else d)) ∧
       ((∀ k e, s.entryAt k = some e → ¬ e.mayGo p) →
         u.boundPos p = none ∧ (u.port p).profile = some (f.clampInrush s.inrush) ∧
         ∀ j d, s.entryAt j = some d → u.entryAt j = some (if d.bound = some p then
           { d with bound := none, unbind := none } else d))) ∧
     (s.boundIdent p ≠ some x →
       u.marked p ∧ (u.port p).order = none ∧ (∀ a ∈ u.adv, a.port ≠ p) ∧ u.still = s.still ∧
       (∀ q, q ≠ p → (∀ k e, s.posOf x = some k → s.entryAt k = some e → e.bound ≠ some q) → u.port q = s.port q) ∧
       ((s.port p).startedResv = true → (u.port p).resv = (s.port p).resv) ∧
       ((s.port p).power.isWaking = false → ∃ v : State, u = replan p v ∧ (v.port p).profile = (u.port p).profile ∧
         (v.port p).power = (s.port p).power ∧
         (v.port p).resv = (if (s.port p).startedResv then (s.port p).resv else none)) ∧
       (∀ w rest, (s.port p).power = .waking w → w.phase = .restore rest → w.pending = none → (s.port p).lane = none →
         (u.port p).power.isReady = true)) ∧
     (∀ k e q, s.posOf x = some k → s.entryAt k = some e → e.bound = some q → q ≠ p →
       (u.port q).conflict = true ∧ (u.port q).noteConflict = true ∧ u.marked q ∧ (u.port q).order = none ∧
       (u.port q).resv = (if (s.port q).startedResv then (s.port q).resv else none) ∧ u.boundPos q = none ∧
       (∀ a ∈ u.adv, a.port ≠ q) ∧ (u.port q).profile = (s.port q).profile ∧
       ((s.port q).power.isWaking = false →
         (u.port q).power = (s.port q).power ∧ (u.port q).queue = (s.port q).queue ∧
         (u.port q).waitLine = (s.port q).waitLine) ∧
       (∀ w rest, (s.port q).power = .waking w → w.phase = .restore rest →
         (w.pending = none → (s.port q).lane = none → (u.port q).power.isReady = true) ∧
         (∀ y pr, (s.port q).lane = some y → y.src = .wake (.restoreWrite pr) →
           (u.port q).power = .waking { w with phase := .restore (rest.take 1) })))) ∧
  ((∀ (j : Job) (vals : List Byte) (c : Port) (now : Nat), j.kind = .identify vals → vals.length < 12 →
     j.exchange c now = some ⟨.read, [1, 2, 3, 4, 5, 6, 7, 8, 9, 10, 11, 24].getD vals.length 0, 0#8, false, .job, now⟩) ∧
   (∀ (p : PortId) (s : State) (e : Exchange) (j : Job) (js : List Job) (vals : List Byte) (st d : Byte) (a : Bool),
     JobSucceeds p e j js st d s → e.op = .read → j.kind = .identify vals →
     (vals.length = 11 → exec (.laneResponse p st d (responseCheck st d) a) s = .next (finish
       ((identifyDone p (identAt (vals ++ [d]) 0)
         { resumeLatency := clamp 1 100 (u8 (vals ++ [d]) 6), initMax := clamp 1 100 (u8 (vals ++ [d]) 7) * 10,
           deepInrush := u8 (vals ++ [d]) 8 * 20, inrushSlots := clamp 1 10 (u8 (vals ++ [d]) 9),
           awake := u8 (vals ++ [d]) 10 * 20, resumeInrush := u8 (vals ++ [d]) 11 * 20 }
         (s.jobDone p a js)).modPort p Port.serveRoom))) ∧
     (vals.length < 11 → j.cut = false → exec (.laneResponse p st d (responseCheck st d) a) s =
       .next (finish (s.jobDone p a ({ j with kind := .identify (vals ++ [d]) } :: js)))) ∧
     (vals.length < 11 → j.cut = true → exec (.laneResponse p st d (responseCheck st d) a) s =
       .next (finish ((s.jobDone p a js).modPort p Port.serveRoom)))) ∧
   (∀ (p : PortId) (s : State) (e : Exchange) (j : Job) (js : List Job) (vals : List Byte) (a : Bool),
     JobFails p e j js s → e.op = .read → j.kind = .identify vals → (s.port p).power.isLost = false →
     (s.port p).OnlyHeadStarted →
     ∃ u : State, exec (.responseLimitExpiry p a) s = .next (finish u) ∧ u.table = s.table ∧
       (u.port p).profile = (s.port p).profile ∧ (u.port p).run = (s.port p).run + 1 ∧ (u.port p).grade = none ∧
       (u.port p).lane = none ∧ u.still = s.still ∧ (∀ q, q ≠ p → u.port q = s.port q) ∧
       ∃ i ∈ (u.port p).queue ++ (u.port p).waitLine, i.isIdentify = true ∧ i.started = false))

/-! ## Events and trap rules -/

/-- TRAP_SET replaces one rule and TRAP_GET reads it: an index above 15, a kind, a port, a flag or an action that does not
exist is refused; after a master reset every rule is disabled, with empty sets, a zero value and mask, and the action
FORWARD, so that the defaults decide. -/
def Obligations.TrapRules : Prop :=
  (∀ (r : Request) (s : State), Taken .trapGet r s →
    (15 < u8 r.body 0 → exec (.trapGet r) s = .next (s.replied 0x9B#8 r.tag [0x04#8])) ∧
    (∀ i : Fin 16, u8 r.body 0 = i.val →
      exec (.trapGet r) s = .next (s.replied 0x9B#8 r.tag (0x00#8 :: (s.traps[i]).bytes i.val)))) ∧
  (∀ (r : Request) (s : State), Taken .trapSet r s →
    (15 < u8 r.body 0 ∨ 1 < u8 r.body 1 ∨ 512 ≤ u16 r.body 2 ∨ 16777216 ≤ u32 r.body 4 ∨
        (u8 r.body 20 ≠ 1 ∧ u8 r.body 20 ≠ 2) →
      exec (.trapSet r) s = .next (s.replied 0x9A#8 r.tag [0x04#8])) ∧
    (∀ i : Fin 16, u8 r.body 0 = i.val → u8 r.body 1 ≤ 1 → u16 r.body 2 < 512 → u32 r.body 4 < 16777216 →
      (u8 r.body 20 = 1 ∨ u8 r.body 20 = 2) →
      ∃ q : TrapRule, q.enabled = decide (u8 r.body 1 = 1) ∧ q.kinds.toNat = u16 r.body 2 ∧
        q.ports.toNat = u32 r.body 4 ∧ q.ident = identAt r.body 8 ∧ q.mask = identAt r.body 14 ∧
        q.forward = decide (u8 r.body 20 = 1) ∧
        exec (.trapSet r) s = .next (({ s with traps := s.traps.set i.val q i.isLt } : State).replied 0x9A#8 r.tag
          (0x00#8 :: r.body)))) ∧
  (∀ i : Fin 16, State.reset.traps[i] = ⟨false, 0, 0, 0, 0, true⟩) ∧
  (∀ e : EventRec, forwards State.reset.traps.toList e = e.kind.forwardedByDefault)

/-- An event record is classified by the first enabled rule that matches its kind, port and masked identity, and by the
defaults of its kind when none does.

A POLL that returns an event of the port's sequence bit takes it: the bit is inverted; a BUTTON that the rules forward
joins the event queue, raising EVENTS_WAITING (or its mark, when the report queue is full) where the queue was empty
and none is owed, or occupies the held slot when the queue is full; a repeat of the other bit is discarded.

A POLL job whose exchange succeeds leaves the queue and hands its status and data to the taking of its event; one that
fails its retry hands nothing on and keeps the sequence bit and the resync need. The freed entry is then served, and
R38 is tested: that order is the model's choice (log 45), and so are the ages of an attempt at which a response counts
(log 9) and the run of 3 that stays in FAULT (log 12). -/
def Obligations.EventTaken : Prop :=
  (∀ (rules : List TrapRule) (e : EventRec),
     ((∀ r ∈ rules, r.matches e = false) → forwards rules e = e.kind.forwardedByDefault) ∧
     (∀ pre r post, rules = pre ++ r :: post → (∀ q ∈ pre, q.matches e = false) → r.matches e = true →
       forwards rules e = r.forward) ∧
     (∀ r : TrapRule, r.matches e = true ↔ r.enabled = true ∧ r.kinds.getLsbD (e.kind.code - 1) = true ∧
       r.ports.getLsbD e.port.val = true ∧
       (r.mask = 0 ∨ ∃ v, e.ident = some v ∧ v &&& r.mask = r.ident &&& r.mask))) ∧
  (∀ (p : PortId) (s : State) (st d : Byte), eventCode st = 8 →
     (sequenceBit st = (s.port p).pollBit → forwards s.traps.toList ⟨p, s.boundIdent p, .button, d, s.clock⟩ = true →
       (s.events = [] → pollResult p st d s =
         { s.modPort p (fun c => { c with resync := false, pollBit := !c.pollBit }) with
           events := [⟨p, s.boundIdent p, .button, d, s.clock⟩]
           reports := if Report.events ∉ s.reports ∧ s.eventsMark = false ∧ s.reports.length < 16 then
             s.reports ++ [Report.events] else s.reports
           eventsMark := s.eventsMark || decide (Report.events ∉ s.reports ∧ 16 ≤ s.reports.length) }) ∧
       (s.events ≠ [] → s.events.length < 64 → pollResult p st d s =
         { s.modPort p (fun c => { c with resync := false, pollBit := !c.pollBit }) with
           events := s.events ++ [⟨p, s.boundIdent p, .button, d, s.clock⟩] }) ∧
       (64 ≤ s.events.length → pollResult p st d s = s.modPort p (fun c => { c with
         resync := false, pollBit := !c.pollBit, held := some ⟨p, s.boundIdent p, .button, d, s.clock⟩ }))) ∧
     (sequenceBit st = (s.port p).pollBit → forwards s.traps.toList ⟨p, s.boundIdent p, .button, d, s.clock⟩ = false →
       pollResult p st d s = s.modPort p (fun c => { c with resync := false, pollBit := !c.pollBit })) ∧
     (sequenceBit st ≠ (s.port p).pollBit → pollResult p st d s = s.modPort p (fun c => { c with resync := false }))) ∧
  ((∀ (p : PortId) (s : State) (e : Exchange) (j : Job) (js : List Job) (st d : Byte) (a : Bool),
     JobSucceeds p e j js st d s → e.op = .poll → j.kind = .poll →
     exec (.laneResponse p st d (responseCheck st d) a) s = .next (finish
       (((pollResult p st d (s.jobDone p a js)).modPort p Port.serveRoom).modPort p Port.testPoll))) ∧
   (∀ (p : PortId) (s : State) (e : Exchange) (j : Job) (js : List Job) (a : Bool),
     JobFails p e j js s → e.op = .poll → j.kind = .poll →
     ∃ v : State, exec (.responseLimitExpiry p a) s =
         .next (finish ((v.modPort p Port.serveRoom).modPort p Port.testPoll)) ∧
       (v.port p).pollBit = (s.port p).pollBit ∧ (v.port p).resync = (s.port p).resync ∧
       (v.port p).held = (s.port p).held ∧ v.events = s.events ∧ v.table = s.table ∧ v.still = s.still ∧
       (v.port p).run = (s.port p).run + 1 ∧ (v.port p).grade = none ∧ (v.port p).lane = none ∧
       (∀ q, q ≠ p → v.port q = s.port q)))

/-- What an event does inside the module: CARD_FULL and MEDIA_OK set and clear the media-full flag, OFFLOAD_BEGIN (while
the rail is on) and OFFLOAD_END the offload-busy flag, the end releasing a pause that waits; HELLO clears the conflict
mark and owes an IDENTIFY, or sets the rescan note in FAULT; SHOT confirms the port for the cue that awaits it, of
several the one granted earliest: the port leaves the confirm list with the outcome TAKEN, and a CONFIRMING cue whose
list becomes empty so is reported; a SHOT that no cue awaits does nothing; THERMAL_CHANGE owes a THERMAL_READ;
SHUTTER_FAULT and BUTTON do nothing. -/
def Obligations.EventEffects : Prop :=
  ∀ (p : PortId) (s : State),
    ((eventEffect p .cardFull s).port p).mediaFull = true ∧ ((eventEffect p .mediaOk s).port p).mediaFull = false ∧
    ((s.port p).mediaFull = false → (eventEffect p .cardFull s).marked p) ∧
    eventEffect p .shutterFault s = s ∧ eventEffect p .button s = s ∧
    ((s.port p).power.railOn = true → ((eventEffect p .offloadBegin s).port p).offload = true) ∧
    ((s.port p).power.railOn = false → eventEffect p .offloadBegin s = s) ∧
    ((s.port p).offload = true → ((eventEffect p .offloadEnd s).port p).offload = false ∧
      (∀ ps w, (s.port p).power = .pausing ps w → (s.port p).pauseHeldByJob = false → ps.target = .doze →
        ((eventEffect p .offloadEnd s).port p).power = .doze (s.dozeTimer p))) ∧
    ((s.port p).offload = false → eventEffect p .offloadEnd s = s) ∧
    ((eventEffect p .hello s).port p).conflict = false ∧
    ((s.port p).power.isFault = true → ((eventEffect p .hello s).port p).rescan = true) ∧
    ((s.port p).power.isFault = false → ∃ j ∈ ((eventEffect p .hello s).port p).queue ++
      ((eventEffect p .hello s).port p).waitLine, j.isIdentify = true) ∧
    (∀ c, s.cues.filter (s.awaitsShot p) = [c] → (∀ d ∈ s.cues, d.id = c.id → d = c) → c.state = .firing →
      ∃ d, (eventEffect p .shot s).cue? c.id = some d ∧ d.confirm = c.confirm.filter (· != p) ∧
        ∀ m ∈ d.members, m.port = p → m.outcome = some .taken) ∧
    (∀ ps w, (s.port p).offload = true → (s.port p).power = .pausing ps w → (s.port p).pauseHeldByJob = false →
      PauseTaken p ps (s.modPort p ({ · with offload := false })) (eventEffect p .offloadEnd s)) ∧
    ((∀ c ∈ s.cues, s.awaitsShot p c = false) → eventEffect p .shot s = s) ∧
    (∀ c g, c ∈ s.cues → s.awaitsShot p c = true → c.grant = some g → (∀ x ∈ s.cues, x.id = c.id → x = c) →
      (∀ x ∈ s.cues, s.awaitsShot p x = true → x ≠ c → ∃ k, x.grant = some k ∧ diffMs s.clock k.t0 < diffMs s.clock g.t0) →
      (c.state = .firing ∨ (c.withOutcome p .taken).confirm ≠ [] → eventEffect p .shot s = { s with
        cues := s.cues.map (fun x => if x.id = c.id then c.withOutcome p .taken else x) }) ∧
      (c.state = .confirming → (c.withOutcome p .taken).confirm = [] →
        (s.reports.length < 16 → eventEffect p .shot s = { s with
          cues := s.cues.filter (fun x => x.id != c.id)
          reports := s.reports ++ [.cueDone (c.withOutcome p .taken).doneBody] }) ∧
        (16 ≤ s.reports.length → eventEffect p .shot s = { s with
          cues := s.cues.map (fun x => if x.id = c.id then { c.withOutcome p .taken with
            state := .done, timer := none, confirm := [], mark := true } else x) }))) ∧
    (∀ (c : Cue) (q : State), q.awaitsShot p c = true ↔ (c.state = .firing ∨ c.state = .confirming) ∧ p ∈ c.confirm ∧
      ∃ g, c.grant = some g ∧ reachedMs q.clock g.fire = true) ∧
    ((s.port p).power.isFault = true → eventEffect p .thermalChange s = s) ∧
    ((s.port p).power.isFault = false → ((eventEffect p .thermalChange s).port p).markThermal = true ∨
      ∃ j ∈ ((eventEffect p .thermalChange s).port p).queue, j.isThermal = true)

/-- EVENTS_FETCH: up to 1–32 records leave the head of the event queue; with no record held, the rest stays, and the reply
carries how many remain, the held ports and the records.

With records held, the held records enter the room behind the rest, the oldest first and the lower port between equal
poll times, until all have entered or the queue is full; the slot of each is emptied and R38 is tested for its port;
no EVENTS_WAITING is handed on, and the reply carries what then remains in the queue and in the slots.

A held record enters the room of the event queue: the oldest first, its slot is emptied and R38 is tested. The oldest
is the held record of the earliest poll time, the lower port between equal poll times. -/
def Obligations.EventsFetched : Prop :=
  ((∀ (r : Request) (s : State), Taken .eventsFetch r s → (∀ p, (s.port p).held = none) →
      exec (.eventsFetch r) s = .next (finish (({ s with
          events := s.events.drop (clamp 1 32 (u8 r.body 0)) } : State).replied 0x9C#8 r.tag
        ([if clamp 1 32 (u8 r.body 0) = u8 r.body 0 then 0x00#8 else 0x01#8,
            toByte (s.events.drop (clamp 1 32 (u8 r.body 0))).length] ++ [0x00#8, 0x00#8, 0x00#8, 0x00#8] ++
          [toByte (s.events.take (clamp 1 32 (u8 r.body 0))).length] ++
          (s.events.take (clamp 1 32 (u8 r.body 0))).flatMap EventRec.bytes)))) ∧
   (∀ (r : Request) (s : State), Taken .eventsFetch r s → s.events ≠ [] →
     ∃ (u : State) (ps : List PortId), exec (.eventsFetch r) s = .next (finish (u.replied 0x9C#8 r.tag
         ([if clamp 1 32 (u8 r.body 0) = u8 r.body 0 then 0x00#8 else 0x01#8, toByte u.events.length] ++
           portSetBytes (allPorts.filter (fun p => (u.port p).held.isSome)) ++
           [toByte (s.events.take (clamp 1 32 (u8 r.body 0))).length] ++
           (s.events.take (clamp 1 32 (u8 r.body 0))).flatMap EventRec.bytes))) ∧
       u = { s with events := u.events, ports := u.ports } ∧
       u.events = s.events.drop (clamp 1 32 (u8 r.body 0)) ++ ps.filterMap (fun p => (s.port p).held) ∧
       ps.Pairwise s.heldBefore ∧
       (∀ p ∈ ps, (s.port p).held ≠ none ∧ u.port p = ({ s.port p with held := none } : Port).testPoll ∧
         ∀ q, q ∉ ps → s.heldBefore p q) ∧
       (∀ q, q ∉ ps → u.port q = s.port q) ∧ (s.events.length ≤ 64 → u.events.length ≤ 64) ∧
       ((∀ q, q ∉ ps → (s.port q).held = none) ∨ 64 ≤ u.events.length))) ∧
  ((∀ (s : State) (p : PortId) (e : EventRec) (n : Nat), s.oldestHeld = some p → (s.port p).held = some e →
      s.events.length < 64 →
      refillEvents (n + 1) s = refillEvents n
        (({ s with events := s.events ++ [e] } : State).modPort p (fun c => ({ c with held := none }).testPoll))) ∧
   (∀ s : State, (s.oldestHeld = none ↔ ∀ p, (s.port p).held = none) ∧
     (∀ p, s.oldestHeld = some p ↔ ((s.port p).held ≠ none ∧ ∀ q, q ≠ p → s.heldBefore p q))))

/-! ## Encodings of messages -/

/-- Numbers, identities and profiles read back from the bytes that carry them, wherever in a body they stand.

The lengths of the bodies: a camera record has 66 bytes, an event record 14, a trap rule 21, the station fields 30. -/
def Obligations.BodiesReadBack : Prop :=
  (∀ (pre post : List Byte),
     (∀ n, n < 65536 → u16 (pre ++ le16 n ++ post) pre.length = n) ∧
     (∀ n, n < 4294967296 → u32 (pre ++ le32 n ++ post) pre.length = n) ∧
     (∀ x : Ident, identAt (pre ++ identBytes x ++ post) pre.length = x) ∧
     (∀ f : Profile, f.resumeLatency < 256 → f.initMax < 65536 → f.deepInrush < 65536 → f.inrushSlots < 256 →
       f.awake < 65536 → f.resumeInrush < 65536 → profileAt (pre ++ f.bytes ++ post) pre.length = f)) ∧
  ((∀ (p : PortId) (s : State), (cameraBytes p s).length = 66) ∧ (∀ e : EventRec, e.bytes.length = 14) ∧
   (∀ (i : Nat) (q : TrapRule), (q.bytes i).length = 21) ∧
   (∀ (st : StationId) (s : State), (stationBytes st s).length = 30))

/-- A trap rule read back from the bytes that carry it is the rule: what TRAP_GET answers, TRAP_SET takes. -/
def Obligations.TrapRuleReadsBack : Prop :=
  ∀ (i : Fin 16) (q : TrapRule), lengthOk .trapSet (q.bytes i.val) = true ∧ trapRule? (q.bytes i.val) = some q ∧
    u8 (q.bytes i.val) 0 = i.val

/-- Every step keeps the budgets: the committed steady current stays at or below the steady budget and the occupancy of
every slot from now_slot onward at or below the inrush budget, whether a command is taken or time passes. (That a
window of which a slot lies beyond the half of the slot range ahead does not fit is the model's reading, log 44.) -/
def Obligations.BudgetsKept : Prop :=
  ∀ s t : State, ClockInRange s → WithinBudgets s → step s = .next t → WithinBudgets t

end Statements
end

