-- ==== Sys2Proof/Laws/State.lean ====
section
/-! SUPPORT. One lemma per field for each update of the state: what an update writes reads back, and every other field
reads as before. -/

namespace Sys2Proof.Machine

@[simp] theorem clock_modPort (p : PortId) (f : Port → Port) (s : State) : (s.modPort p f).clock = s.clock := rfl
@[simp] theorem stations_modPort (p : PortId) (f : Port → Port) (s : State) : (s.modPort p f).stations = s.stations := rfl
@[simp] theorem steady_modPort (p : PortId) (f : Port → Port) (s : State) : (s.modPort p f).steady = s.steady := rfl
@[simp] theorem inrush_modPort (p : PortId) (f : Port → Port) (s : State) : (s.modPort p f).inrush = s.inrush := rfl
@[simp] theorem table_modPort (p : PortId) (f : Port → Port) (s : State) : (s.modPort p f).table = s.table := rfl
@[simp] theorem aging_modPort (p : PortId) (f : Port → Port) (s : State) : (s.modPort p f).aging = s.aging := rfl
@[simp] theorem walk_modPort (p : PortId) (f : Port → Port) (s : State) : (s.modPort p f).walk = s.walk := rfl
@[simp] theorem cues_modPort (p : PortId) (f : Port → Port) (s : State) : (s.modPort p f).cues = s.cues := rfl
@[simp] theorem lastCue_modPort (p : PortId) (f : Port → Port) (s : State) : (s.modPort p f).lastCue = s.lastCue := rfl
@[simp] theorem postings_modPort (p : PortId) (f : Port → Port) (s : State) : (s.modPort p f).postings = s.postings := rfl
@[simp] theorem owner_modPort (p : PortId) (f : Port → Port) (s : State) : (s.modPort p f).owner = s.owner := rfl
@[simp] theorem lock_modPort (p : PortId) (f : Port → Port) (s : State) : (s.modPort p f).lock = s.lock := rfl
@[simp] theorem waiting_modPort (p : PortId) (f : Port → Port) (s : State) : (s.modPort p f).waiting = s.waiting := rfl
@[simp] theorem syncEnd_modPort (p : PortId) (f : Port → Port) (s : State) : (s.modPort p f).syncEnd = s.syncEnd := rfl
@[simp] theorem adv_modPort (p : PortId) (f : Port → Port) (s : State) : (s.modPort p f).adv = s.adv := rfl
@[simp] theorem traps_modPort (p : PortId) (f : Port → Port) (s : State) : (s.modPort p f).traps = s.traps := rfl
@[simp] theorem events_modPort (p : PortId) (f : Port → Port) (s : State) : (s.modPort p f).events = s.events := rfl
@[simp] theorem line_modPort (p : PortId) (f : Port → Port) (s : State) : (s.modPort p f).line = s.line := rfl
@[simp] theorem settles_modPort (p : PortId) (f : Port → Port) (s : State) : (s.modPort p f).settles = s.settles := rfl
@[simp] theorem settleReady_modPort (p : PortId) (f : Port → Port) (s : State) : (s.modPort p f).settleReady = s.settleReady := rfl
@[simp] theorem reports_modPort (p : PortId) (f : Port → Port) (s : State) : (s.modPort p f).reports = s.reports := rfl
@[simp] theorem eventsMark_modPort (p : PortId) (f : Port → Port) (s : State) : (s.modPort p f).eventsMark = s.eventsMark := rfl
@[simp] theorem lastReport_modPort (p : PortId) (f : Port → Port) (s : State) : (s.modPort p f).lastReport = s.lastReport := rfl
@[simp] theorem inXfer_modPort (p : PortId) (f : Port → Port) (s : State) : (s.modPort p f).inXfer = s.inXfer := rfl
@[simp] theorem resend_modPort (p : PortId) (f : Port → Port) (s : State) : (s.modPort p f).resend = s.resend := rfl
@[simp] theorem restart_modPort (p : PortId) (f : Port → Port) (s : State) : (s.modPort p f).restart = s.restart := rfl
@[simp] theorem heldOut_modPort (p : PortId) (f : Port → Port) (s : State) : (s.modPort p f).heldOut = s.heldOut := rfl
@[simp] theorem attached_modPort (p : PortId) (f : Port → Port) (s : State) : (s.modPort p f).attached = s.attached := rfl
@[simp] theorem reattachAt_modPort (p : PortId) (f : Port → Port) (s : State) : (s.modPort p f).reattachAt = s.reattachAt := rfl
@[simp] theorem tickets_modPort (p : PortId) (f : Port → Port) (s : State) : (s.modPort p f).tickets = s.tickets := rfl
@[simp] theorem freeCount_modPort (p : PortId) (f : Port → Port) (s : State) : (s.modPort p f).freeCount = s.freeCount := rfl
@[simp] theorem pending_modPort (p : PortId) (f : Port → Port) (s : State) : (s.modPort p f).pending = s.pending := rfl

@[simp] theorem clock_setEntry (k : Position) (e : Option IdEntry) (s : State) : (s.setEntry k e).clock = s.clock := rfl
@[simp] theorem ports_setEntry (k : Position) (e : Option IdEntry) (s : State) : (s.setEntry k e).ports = s.ports := rfl
@[simp] theorem stations_setEntry (k : Position) (e : Option IdEntry) (s : State) : (s.setEntry k e).stations = s.stations := rfl
@[simp] theorem steady_setEntry (k : Position) (e : Option IdEntry) (s : State) : (s.setEntry k e).steady = s.steady := rfl
@[simp] theorem inrush_setEntry (k : Position) (e : Option IdEntry) (s : State) : (s.setEntry k e).inrush = s.inrush := rfl
@[simp] theorem aging_setEntry (k : Position) (e : Option IdEntry) (s : State) : (s.setEntry k e).aging = s.aging := rfl
@[simp] theorem walk_setEntry (k : Position) (e : Option IdEntry) (s : State) : (s.setEntry k e).walk = s.walk := rfl
@[simp] theorem cues_setEntry (k : Position) (e : Option IdEntry) (s : State) : (s.setEntry k e).cues = s.cues := rfl
@[simp] theorem lastCue_setEntry (k : Position) (e : Option IdEntry) (s : State) : (s.setEntry k e).lastCue = s.lastCue := rfl
@[simp] theorem postings_setEntry (k : Position) (e : Option IdEntry) (s : State) : (s.setEntry k e).postings = s.postings := rfl
@[simp] theorem owner_setEntry (k : Position) (e : Option IdEntry) (s : State) : (s.setEntry k e).owner = s.owner := rfl
@[simp] theorem lock_setEntry (k : Position) (e : Option IdEntry) (s : State) : (s.setEntry k e).lock = s.lock := rfl
@[simp] theorem waiting_setEntry (k : Position) (e : Option IdEntry) (s : State) : (s.setEntry k e).waiting = s.waiting := rfl
@[simp] theorem syncEnd_setEntry (k : Position) (e : Option IdEntry) (s : State) : (s.setEntry k e).syncEnd = s.syncEnd := rfl
@[simp] theorem adv_setEntry (k : Position) (e : Option IdEntry) (s : State) : (s.setEntry k e).adv = s.adv := rfl
@[simp] theorem traps_setEntry (k : Position) (e : Option IdEntry) (s : State) : (s.setEntry k e).traps = s.traps := rfl
@[simp] theorem events_setEntry (k : Position) (e : Option IdEntry) (s : State) : (s.setEntry k e).events = s.events := rfl
@[simp] theorem line_setEntry (k : Position) (e : Option IdEntry) (s : State) : (s.setEntry k e).line = s.line := rfl
@[simp] theorem settles_setEntry (k : Position) (e : Option IdEntry) (s : State) : (s.setEntry k e).settles = s.settles := rfl
@[simp] theorem settleReady_setEntry (k : Position) (e : Option IdEntry) (s : State) : (s.setEntry k e).settleReady = s.settleReady := rfl
@[simp] theorem reports_setEntry (k : Position) (e : Option IdEntry) (s : State) : (s.setEntry k e).reports = s.reports := rfl
@[simp] theorem eventsMark_setEntry (k : Position) (e : Option IdEntry) (s : State) : (s.setEntry k e).eventsMark = s.eventsMark := rfl
@[simp] theorem lastReport_setEntry (k : Position) (e : Option IdEntry) (s : State) : (s.setEntry k e).lastReport = s.lastReport := rfl
@[simp] theorem inXfer_setEntry (k : Position) (e : Option IdEntry) (s : State) : (s.setEntry k e).inXfer = s.inXfer := rfl
@[simp] theorem resend_setEntry (k : Position) (e : Option IdEntry) (s : State) : (s.setEntry k e).resend = s.resend := rfl
@[simp] theorem restart_setEntry (k : Position) (e : Option IdEntry) (s : State) : (s.setEntry k e).restart = s.restart := rfl
@[simp] theorem heldOut_setEntry (k : Position) (e : Option IdEntry) (s : State) : (s.setEntry k e).heldOut = s.heldOut := rfl
@[simp] theorem attached_setEntry (k : Position) (e : Option IdEntry) (s : State) : (s.setEntry k e).attached = s.attached := rfl
@[simp] theorem reattachAt_setEntry (k : Position) (e : Option IdEntry) (s : State) : (s.setEntry k e).reattachAt = s.reattachAt := rfl
@[simp] theorem tickets_setEntry (k : Position) (e : Option IdEntry) (s : State) : (s.setEntry k e).tickets = s.tickets := rfl
@[simp] theorem freeCount_setEntry (k : Position) (e : Option IdEntry) (s : State) : (s.setEntry k e).freeCount = s.freeCount := rfl
@[simp] theorem pending_setEntry (k : Position) (e : Option IdEntry) (s : State) : (s.setEntry k e).pending = s.pending := rfl

@[simp] theorem clock_modCue (id : Nat) (f : Cue → Cue) (s : State) : (modCue id f s).clock = s.clock := rfl
@[simp] theorem ports_modCue (id : Nat) (f : Cue → Cue) (s : State) : (modCue id f s).ports = s.ports := rfl
@[simp] theorem stations_modCue (id : Nat) (f : Cue → Cue) (s : State) : (modCue id f s).stations = s.stations := rfl
@[simp] theorem steady_modCue (id : Nat) (f : Cue → Cue) (s : State) : (modCue id f s).steady = s.steady := rfl
@[simp] theorem inrush_modCue (id : Nat) (f : Cue → Cue) (s : State) : (modCue id f s).inrush = s.inrush := rfl
@[simp] theorem table_modCue (id : Nat) (f : Cue → Cue) (s : State) : (modCue id f s).table = s.table := rfl
@[simp] theorem aging_modCue (id : Nat) (f : Cue → Cue) (s : State) : (modCue id f s).aging = s.aging := rfl
@[simp] theorem walk_modCue (id : Nat) (f : Cue → Cue) (s : State) : (modCue id f s).walk = s.walk := rfl
@[simp] theorem lastCue_modCue (id : Nat) (f : Cue → Cue) (s : State) : (modCue id f s).lastCue = s.lastCue := rfl
@[simp] theorem postings_modCue (id : Nat) (f : Cue → Cue) (s : State) : (modCue id f s).postings = s.postings := rfl
@[simp] theorem owner_modCue (id : Nat) (f : Cue → Cue) (s : State) : (modCue id f s).owner = s.owner := rfl
@[simp] theorem lock_modCue (id : Nat) (f : Cue → Cue) (s : State) : (modCue id f s).lock = s.lock := rfl
@[simp] theorem waiting_modCue (id : Nat) (f : Cue → Cue) (s : State) : (modCue id f s).waiting = s.waiting := rfl
@[simp] theorem syncEnd_modCue (id : Nat) (f : Cue → Cue) (s : State) : (modCue id f s).syncEnd = s.syncEnd := rfl
@[simp] theorem adv_modCue (id : Nat) (f : Cue → Cue) (s : State) : (modCue id f s).adv = s.adv := rfl
@[simp] theorem traps_modCue (id : Nat) (f : Cue → Cue) (s : State) : (modCue id f s).traps = s.traps := rfl
@[simp] theorem events_modCue (id : Nat) (f : Cue → Cue) (s : State) : (modCue id f s).events = s.events := rfl
@[simp] theorem line_modCue (id : Nat) (f : Cue → Cue) (s : State) : (modCue id f s).line = s.line := rfl
@[simp] theorem settles_modCue (id : Nat) (f : Cue → Cue) (s : State) : (modCue id f s).settles = s.settles := rfl
@[simp] theorem settleReady_modCue (id : Nat) (f : Cue → Cue) (s : State) : (modCue id f s).settleReady = s.settleReady := rfl
@[simp] theorem reports_modCue (id : Nat) (f : Cue → Cue) (s : State) : (modCue id f s).reports = s.reports := rfl
@[simp] theorem eventsMark_modCue (id : Nat) (f : Cue → Cue) (s : State) : (modCue id f s).eventsMark = s.eventsMark := rfl
@[simp] theorem lastReport_modCue (id : Nat) (f : Cue → Cue) (s : State) : (modCue id f s).lastReport = s.lastReport := rfl
@[simp] theorem inXfer_modCue (id : Nat) (f : Cue → Cue) (s : State) : (modCue id f s).inXfer = s.inXfer := rfl
@[simp] theorem resend_modCue (id : Nat) (f : Cue → Cue) (s : State) : (modCue id f s).resend = s.resend := rfl
@[simp] theorem restart_modCue (id : Nat) (f : Cue → Cue) (s : State) : (modCue id f s).restart = s.restart := rfl
@[simp] theorem heldOut_modCue (id : Nat) (f : Cue → Cue) (s : State) : (modCue id f s).heldOut = s.heldOut := rfl
@[simp] theorem attached_modCue (id : Nat) (f : Cue → Cue) (s : State) : (modCue id f s).attached = s.attached := rfl
@[simp] theorem reattachAt_modCue (id : Nat) (f : Cue → Cue) (s : State) : (modCue id f s).reattachAt = s.reattachAt := rfl
@[simp] theorem tickets_modCue (id : Nat) (f : Cue → Cue) (s : State) : (modCue id f s).tickets = s.tickets := rfl
@[simp] theorem freeCount_modCue (id : Nat) (f : Cue → Cue) (s : State) : (modCue id f s).freeCount = s.freeCount := rfl
@[simp] theorem pending_modCue (id : Nat) (f : Cue → Cue) (s : State) : (modCue id f s).pending = s.pending := rfl

@[simp] theorem clock_removeCue (id : Nat) (s : State) : (removeCue id s).clock = s.clock := rfl
@[simp] theorem ports_removeCue (id : Nat) (s : State) : (removeCue id s).ports = s.ports := rfl
@[simp] theorem stations_removeCue (id : Nat) (s : State) : (removeCue id s).stations = s.stations := rfl
@[simp] theorem steady_removeCue (id : Nat) (s : State) : (removeCue id s).steady = s.steady := rfl
@[simp] theorem inrush_removeCue (id : Nat) (s : State) : (removeCue id s).inrush = s.inrush := rfl
@[simp] theorem table_removeCue (id : Nat) (s : State) : (removeCue id s).table = s.table := rfl
@[simp] theorem aging_removeCue (id : Nat) (s : State) : (removeCue id s).aging = s.aging := rfl
@[simp] theorem walk_removeCue (id : Nat) (s : State) : (removeCue id s).walk = s.walk := rfl
@[simp] theorem lastCue_removeCue (id : Nat) (s : State) : (removeCue id s).lastCue = s.lastCue := rfl
@[simp] theorem postings_removeCue (id : Nat) (s : State) : (removeCue id s).postings = s.postings := rfl
@[simp] theorem owner_removeCue (id : Nat) (s : State) : (removeCue id s).owner = s.owner := rfl
@[simp] theorem lock_removeCue (id : Nat) (s : State) : (removeCue id s).lock = s.lock := rfl
@[simp] theorem waiting_removeCue (id : Nat) (s : State) : (removeCue id s).waiting = s.waiting := rfl
@[simp] theorem syncEnd_removeCue (id : Nat) (s : State) : (removeCue id s).syncEnd = s.syncEnd := rfl
@[simp] theorem adv_removeCue (id : Nat) (s : State) : (removeCue id s).adv = s.adv := rfl
@[simp] theorem traps_removeCue (id : Nat) (s : State) : (removeCue id s).traps = s.traps := rfl
@[simp] theorem events_removeCue (id : Nat) (s : State) : (removeCue id s).events = s.events := rfl
@[simp] theorem line_removeCue (id : Nat) (s : State) : (removeCue id s).line = s.line := rfl
@[simp] theorem settles_removeCue (id : Nat) (s : State) : (removeCue id s).settles = s.settles := rfl
@[simp] theorem settleReady_removeCue (id : Nat) (s : State) : (removeCue id s).settleReady = s.settleReady := rfl
@[simp] theorem reports_removeCue (id : Nat) (s : State) : (removeCue id s).reports = s.reports := rfl
@[simp] theorem eventsMark_removeCue (id : Nat) (s : State) : (removeCue id s).eventsMark = s.eventsMark := rfl
@[simp] theorem lastReport_removeCue (id : Nat) (s : State) : (removeCue id s).lastReport = s.lastReport := rfl
@[simp] theorem inXfer_removeCue (id : Nat) (s : State) : (removeCue id s).inXfer = s.inXfer := rfl
@[simp] theorem resend_removeCue (id : Nat) (s : State) : (removeCue id s).resend = s.resend := rfl
@[simp] theorem restart_removeCue (id : Nat) (s : State) : (removeCue id s).restart = s.restart := rfl
@[simp] theorem heldOut_removeCue (id : Nat) (s : State) : (removeCue id s).heldOut = s.heldOut := rfl
@[simp] theorem attached_removeCue (id : Nat) (s : State) : (removeCue id s).attached = s.attached := rfl
@[simp] theorem reattachAt_removeCue (id : Nat) (s : State) : (removeCue id s).reattachAt = s.reattachAt := rfl
@[simp] theorem tickets_removeCue (id : Nat) (s : State) : (removeCue id s).tickets = s.tickets := rfl
@[simp] theorem freeCount_removeCue (id : Nat) (s : State) : (removeCue id s).freeCount = s.freeCount := rfl
@[simp] theorem pending_removeCue (id : Nat) (s : State) : (removeCue id s).pending = s.pending := rfl

@[simp] theorem clock_answer (k : ReqKind) (tag : Byte) (st : Status) (b : List Byte) (s : State) : (answer k tag st b s).clock = s.clock := rfl
@[simp] theorem ports_answer (k : ReqKind) (tag : Byte) (st : Status) (b : List Byte) (s : State) : (answer k tag st b s).ports = s.ports := rfl
@[simp] theorem stations_answer (k : ReqKind) (tag : Byte) (st : Status) (b : List Byte) (s : State) : (answer k tag st b s).stations = s.stations := rfl
@[simp] theorem steady_answer (k : ReqKind) (tag : Byte) (st : Status) (b : List Byte) (s : State) : (answer k tag st b s).steady = s.steady := rfl
@[simp] theorem inrush_answer (k : ReqKind) (tag : Byte) (st : Status) (b : List Byte) (s : State) : (answer k tag st b s).inrush = s.inrush := rfl
@[simp] theorem table_answer (k : ReqKind) (tag : Byte) (st : Status) (b : List Byte) (s : State) : (answer k tag st b s).table = s.table := rfl
@[simp] theorem aging_answer (k : ReqKind) (tag : Byte) (st : Status) (b : List Byte) (s : State) : (answer k tag st b s).aging = s.aging := rfl
@[simp] theorem walk_answer (k : ReqKind) (tag : Byte) (st : Status) (b : List Byte) (s : State) : (answer k tag st b s).walk = s.walk := rfl
@[simp] theorem cues_answer (k : ReqKind) (tag : Byte) (st : Status) (b : List Byte) (s : State) : (answer k tag st b s).cues = s.cues := rfl
@[simp] theorem lastCue_answer (k : ReqKind) (tag : Byte) (st : Status) (b : List Byte) (s : State) : (answer k tag st b s).lastCue = s.lastCue := rfl
@[simp] theorem postings_answer (k : ReqKind) (tag : Byte) (st : Status) (b : List Byte) (s : State) : (answer k tag st b s).postings = s.postings := rfl
@[simp] theorem owner_answer (k : ReqKind) (tag : Byte) (st : Status) (b : List Byte) (s : State) : (answer k tag st b s).owner = s.owner := rfl
@[simp] theorem lock_answer (k : ReqKind) (tag : Byte) (st : Status) (b : List Byte) (s : State) : (answer k tag st b s).lock = s.lock := rfl
@[simp] theorem waiting_answer (k : ReqKind) (tag : Byte) (st : Status) (b : List Byte) (s : State) : (answer k tag st b s).waiting = s.waiting := rfl
@[simp] theorem syncEnd_answer (k : ReqKind) (tag : Byte) (st : Status) (b : List Byte) (s : State) : (answer k tag st b s).syncEnd = s.syncEnd := rfl
@[simp] theorem adv_answer (k : ReqKind) (tag : Byte) (st : Status) (b : List Byte) (s : State) : (answer k tag st b s).adv = s.adv := rfl
@[simp] theorem traps_answer (k : ReqKind) (tag : Byte) (st : Status) (b : List Byte) (s : State) : (answer k tag st b s).traps = s.traps := rfl
@[simp] theorem events_answer (k : ReqKind) (tag : Byte) (st : Status) (b : List Byte) (s : State) : (answer k tag st b s).events = s.events := rfl
@[simp] theorem settles_answer (k : ReqKind) (tag : Byte) (st : Status) (b : List Byte) (s : State) : (answer k tag st b s).settles = s.settles := rfl
@[simp] theorem settleReady_answer (k : ReqKind) (tag : Byte) (st : Status) (b : List Byte) (s : State) : (answer k tag st b s).settleReady = s.settleReady := rfl
@[simp] theorem reports_answer (k : ReqKind) (tag : Byte) (st : Status) (b : List Byte) (s : State) : (answer k tag st b s).reports = s.reports := rfl
@[simp] theorem eventsMark_answer (k : ReqKind) (tag : Byte) (st : Status) (b : List Byte) (s : State) : (answer k tag st b s).eventsMark = s.eventsMark := rfl
@[simp] theorem lastReport_answer (k : ReqKind) (tag : Byte) (st : Status) (b : List Byte) (s : State) : (answer k tag st b s).lastReport = s.lastReport := rfl
@[simp] theorem inXfer_answer (k : ReqKind) (tag : Byte) (st : Status) (b : List Byte) (s : State) : (answer k tag st b s).inXfer = s.inXfer := rfl
@[simp] theorem resend_answer (k : ReqKind) (tag : Byte) (st : Status) (b : List Byte) (s : State) : (answer k tag st b s).resend = s.resend := rfl
@[simp] theorem restart_answer (k : ReqKind) (tag : Byte) (st : Status) (b : List Byte) (s : State) : (answer k tag st b s).restart = s.restart := rfl
@[simp] theorem heldOut_answer (k : ReqKind) (tag : Byte) (st : Status) (b : List Byte) (s : State) : (answer k tag st b s).heldOut = s.heldOut := rfl
@[simp] theorem attached_answer (k : ReqKind) (tag : Byte) (st : Status) (b : List Byte) (s : State) : (answer k tag st b s).attached = s.attached := rfl
@[simp] theorem reattachAt_answer (k : ReqKind) (tag : Byte) (st : Status) (b : List Byte) (s : State) : (answer k tag st b s).reattachAt = s.reattachAt := rfl
@[simp] theorem freeCount_answer (k : ReqKind) (tag : Byte) (st : Status) (b : List Byte) (s : State) : (answer k tag st b s).freeCount = s.freeCount := rfl
@[simp] theorem pending_answer (k : ReqKind) (tag : Byte) (st : Status) (b : List Byte) (s : State) : (answer k tag st b s).pending = s.pending := rfl

@[simp] theorem clock_giveAnswer (t : Nat) (b : List Byte) (s : State) : (giveAnswer t b s).clock = s.clock := rfl
@[simp] theorem ports_giveAnswer (t : Nat) (b : List Byte) (s : State) : (giveAnswer t b s).ports = s.ports := rfl
@[simp] theorem stations_giveAnswer (t : Nat) (b : List Byte) (s : State) : (giveAnswer t b s).stations = s.stations := rfl
@[simp] theorem steady_giveAnswer (t : Nat) (b : List Byte) (s : State) : (giveAnswer t b s).steady = s.steady := rfl
@[simp] theorem inrush_giveAnswer (t : Nat) (b : List Byte) (s : State) : (giveAnswer t b s).inrush = s.inrush := rfl
@[simp] theorem table_giveAnswer (t : Nat) (b : List Byte) (s : State) : (giveAnswer t b s).table = s.table := rfl
@[simp] theorem aging_giveAnswer (t : Nat) (b : List Byte) (s : State) : (giveAnswer t b s).aging = s.aging := rfl
@[simp] theorem walk_giveAnswer (t : Nat) (b : List Byte) (s : State) : (giveAnswer t b s).walk = s.walk := rfl
@[simp] theorem cues_giveAnswer (t : Nat) (b : List Byte) (s : State) : (giveAnswer t b s).cues = s.cues := rfl
@[simp] theorem lastCue_giveAnswer (t : Nat) (b : List Byte) (s : State) : (giveAnswer t b s).lastCue = s.lastCue := rfl
@[simp] theorem postings_giveAnswer (t : Nat) (b : List Byte) (s : State) : (giveAnswer t b s).postings = s.postings := rfl
@[simp] theorem owner_giveAnswer (t : Nat) (b : List Byte) (s : State) : (giveAnswer t b s).owner = s.owner := rfl
@[simp] theorem lock_giveAnswer (t : Nat) (b : List Byte) (s : State) : (giveAnswer t b s).lock = s.lock := rfl
@[simp] theorem waiting_giveAnswer (t : Nat) (b : List Byte) (s : State) : (giveAnswer t b s).waiting = s.waiting := rfl
@[simp] theorem syncEnd_giveAnswer (t : Nat) (b : List Byte) (s : State) : (giveAnswer t b s).syncEnd = s.syncEnd := rfl
@[simp] theorem adv_giveAnswer (t : Nat) (b : List Byte) (s : State) : (giveAnswer t b s).adv = s.adv := rfl
@[simp] theorem traps_giveAnswer (t : Nat) (b : List Byte) (s : State) : (giveAnswer t b s).traps = s.traps := rfl
@[simp] theorem events_giveAnswer (t : Nat) (b : List Byte) (s : State) : (giveAnswer t b s).events = s.events := rfl
@[simp] theorem settles_giveAnswer (t : Nat) (b : List Byte) (s : State) : (giveAnswer t b s).settles = s.settles := rfl
@[simp] theorem settleReady_giveAnswer (t : Nat) (b : List Byte) (s : State) : (giveAnswer t b s).settleReady = s.settleReady := rfl
@[simp] theorem reports_giveAnswer (t : Nat) (b : List Byte) (s : State) : (giveAnswer t b s).reports = s.reports := rfl
@[simp] theorem eventsMark_giveAnswer (t : Nat) (b : List Byte) (s : State) : (giveAnswer t b s).eventsMark = s.eventsMark := rfl
@[simp] theorem lastReport_giveAnswer (t : Nat) (b : List Byte) (s : State) : (giveAnswer t b s).lastReport = s.lastReport := rfl
@[simp] theorem inXfer_giveAnswer (t : Nat) (b : List Byte) (s : State) : (giveAnswer t b s).inXfer = s.inXfer := rfl
@[simp] theorem resend_giveAnswer (t : Nat) (b : List Byte) (s : State) : (giveAnswer t b s).resend = s.resend := rfl
@[simp] theorem restart_giveAnswer (t : Nat) (b : List Byte) (s : State) : (giveAnswer t b s).restart = s.restart := rfl
@[simp] theorem heldOut_giveAnswer (t : Nat) (b : List Byte) (s : State) : (giveAnswer t b s).heldOut = s.heldOut := rfl
@[simp] theorem attached_giveAnswer (t : Nat) (b : List Byte) (s : State) : (giveAnswer t b s).attached = s.attached := rfl
@[simp] theorem reattachAt_giveAnswer (t : Nat) (b : List Byte) (s : State) : (giveAnswer t b s).reattachAt = s.reattachAt := rfl
@[simp] theorem tickets_giveAnswer (t : Nat) (b : List Byte) (s : State) : (giveAnswer t b s).tickets = s.tickets := rfl
@[simp] theorem freeCount_giveAnswer (t : Nat) (b : List Byte) (s : State) : (giveAnswer t b s).freeCount = s.freeCount := rfl
@[simp] theorem pending_giveAnswer (t : Nat) (b : List Byte) (s : State) : (giveAnswer t b s).pending = s.pending := rfl

@[simp] theorem line_answer (k : ReqKind) (tag : Byte) (st : Status) (b : List Byte) (s : State) :
    (answer k tag st b s).line = s.line ++ [⟨s.tickets, replyKind k, tag, some (st.code :: b)⟩] := rfl
@[simp] theorem tickets_answer (k : ReqKind) (tag : Byte) (st : Status) (b : List Byte) (s : State) :
    (answer k tag st b s).tickets = s.tickets + 1 := rfl
@[simp] theorem cues_removeCue (id : Nat) (s : State) :
    (removeCue id s).cues = s.cues.filter (fun c => c.id != id) := rfl

/-- The port written reads back. -/
@[simp] theorem port_modPort_self (p : PortId) (f : Port → Port) (s : State) : (s.modPort p f).port p = f (s.port p) := by
  simp [State.modPort, State.port]

/-- Every other port reads as before. -/
theorem port_modPort_ne {p q : PortId} (h : p ≠ q) (f : Port → Port) (s : State) :
    (s.modPort p f).port q = s.port q := by
  have : p.val ≠ q.val := fun e => h (Fin.ext e)
  simp [State.modPort, State.port, this]

/-- Two writes of one port are one. -/
theorem modPort_modPort (s : State) (p : PortId) (f g : Port → Port) :
    (s.modPort p f).modPort p g = s.modPort p (fun c => g (f c)) := by
  simp [State.modPort, State.port]

/-- A port after the write of another or of itself. -/
theorem port_modPort (p q : PortId) (f : Port → Port) (s : State) :
    (s.modPort p f).port q = if p = q then f (s.port q) else s.port q := by
  by_cases h : p = q
  · subst h; simp
  · simp [h, port_modPort_ne h]

/-- The entry written reads back. -/
@[simp] theorem entryAt_setEntry_self (k : Position) (e : Option IdEntry) (s : State) : (s.setEntry k e).entryAt k = e := by
  simp [State.setEntry, State.entryAt]

/-- Every other position reads as before. -/
theorem entryAt_setEntry_ne {k j : Position} (h : k ≠ j) (e : Option IdEntry) (s : State) :
    (s.setEntry k e).entryAt j = s.entryAt j := by
  have : k.val ≠ j.val := fun e => h (Fin.ext e)
  simp [State.setEntry, State.entryAt, this]

/-- An answered request leaves the number of entries of the reply line. -/
@[simp] theorem length_line_giveAnswer (t : Nat) (b : List Byte) (s : State) :
    (giveAnswer t b s).line.length = s.line.length := by
  simp [giveAnswer]

/-- Changing a cue leaves the number of cues. -/
@[simp] theorem length_cues_modCue (id : Nat) (f : Cue → Cue) (s : State) : (modCue id f s).cues.length = s.cues.length := by
  simp [modCue]

@[simp] theorem port_setEntry (q : PortId) (k : Position) (e : Option IdEntry) (s : State) : (s.setEntry k e).port q = s.port q := rfl
@[simp] theorem port_modCue (q : PortId) (id : Nat) (f : Cue → Cue) (s : State) : (modCue id f s).port q = s.port q := rfl
@[simp] theorem port_removeCue (q : PortId) (id : Nat) (s : State) : (removeCue id s).port q = s.port q := rfl
@[simp] theorem port_answer (q : PortId) (k : ReqKind) (tag : Byte) (st : Status) (b : List Byte) (s : State) : (answer k tag st b s).port q = s.port q := rfl
@[simp] theorem port_giveAnswer (q : PortId) (t : Nat) (b : List Byte) (s : State) : (giveAnswer t b s).port q = s.port q := rfl
@[simp] theorem entryAt_modPort (j : Position) (p : PortId) (f : Port → Port) (s : State) : (s.modPort p f).entryAt j = s.entryAt j := rfl
@[simp] theorem entryAt_modCue (j : Position) (id : Nat) (f : Cue → Cue) (s : State) : (modCue id f s).entryAt j = s.entryAt j := rfl
@[simp] theorem entryAt_removeCue (j : Position) (id : Nat) (s : State) : (removeCue id s).entryAt j = s.entryAt j := rfl
@[simp] theorem entryAt_answer (j : Position) (k : ReqKind) (tag : Byte) (st : Status) (b : List Byte) (s : State) : (answer k tag st b s).entryAt j = s.entryAt j := rfl
@[simp] theorem entryAt_giveAnswer (j : Position) (t : Nat) (b : List Byte) (s : State) : (giveAnswer t b s).entryAt j = s.entryAt j := rfl

end Sys2Proof.Machine
end

