-- ==== Sys2Proof/Laws/Ports.lean ====
section
/-! SUPPORT. What the operations on one port's jobs do to its queue: no operation takes a queue above its 8 entries or puts a
started job behind its head (R33), and
none touches the failed-exchange run. -/

namespace Sys2Proof.Machine

set_option Elab.async false

/-- The jobs behind the head, in the queue and in the waiting line, are among those there were, or have not been started. -/
theorem Port.OnlyHeadStarted.of_mem {c d : Port} (h : c.OnlyHeadStarted)
    (hm : ∀ j ∈ d.queue.tail ++ d.waitLine, j.started = false ∨ j ∈ c.queue.tail ++ c.waitLine) : d.OnlyHeadStarted :=
  fun j hj => (hm j hj).elim id (h j)

theorem Port.Ok.of_eq {c d : Port} (h : c.Ok) (hq : d.queue = c.queue) (hr : d.run = c.run)
    (hw : d.waitLine = c.waitLine := by rfl) : d.Ok := by
  simpa [Port.Ok, Port.OnlyHeadStarted, hq, hr, hw] using h

/-- The jobs behind the head of a queue that one more joins. -/
theorem mem_tail_append {q r : List Job} {j : Job} (h : j ∈ (q ++ r).tail) : j ∈ q.tail ∨ j ∈ r := by
  cases q with
  | nil => exact .inr (List.mem_of_mem_tail h)
  | cons a q => exact List.mem_append.1 h

/-- The jobs behind the head of what is left of a queue. -/
theorem mem_tail_filter {q : List Job} {f : Job → Bool} {j : Job} (h : j ∈ (q.filter f).tail) : j ∈ q.tail := by
  cases q with
  | nil => exact h
  | cons a q =>
    rw [List.filter_cons] at h
    split at h
    · exact List.mem_of_mem_filter h
    · exact List.mem_of_mem_filter (List.mem_of_mem_tail h)

theorem pushJob_ok {c : Port} (k : JobKind) (h : c.Ok) (hr : c.hasRoom = true) : (pushJob k c).Ok := by
  simp only [Port.hasRoom, Config.queueSize, decide_eq_true_eq] at hr
  refine ⟨by simp [pushJob]; omega, h.2.1, h.2.2.of_mem fun j hj => ?_⟩
  rcases List.mem_append.1 hj with hj | hj
  · rcases mem_tail_append hj with hj | hj
    · exact .inr (List.mem_append_left _ hj)
    · exact .inl (by rw [List.mem_singleton.1 hj]; rfl)
  · exact .inr (List.mem_append_right _ hj)

theorem enqueue_ok {c : Port} (k : JobKind) (h : c.Ok) : (c.enqueue k).Ok := by
  unfold Port.enqueue
  split
  · exact pushJob_ok k h ‹_›
  · refine ⟨h.1, h.2.1, h.2.2.of_mem fun j hj => ?_⟩
    simp only [List.mem_append, List.mem_singleton] at hj
    rcases hj with hj | hj | hj
    · exact .inr (List.mem_append_left _ hj)
    · exact .inr (List.mem_append_right _ hj)
    · exact .inl (by rw [hj]; rfl)

theorem testPoll_ok {c : Port} (h : c.Ok) : c.testPoll.Ok := by
  unfold Port.testPoll
  split
  · split
    · exact pushJob_ok _ h ‹_›
    · exact h.of_eq rfl rfl
  · exact h

theorem oweThermal_ok {c : Port} (h : c.Ok) : c.oweThermal.Ok := by
  unfold Port.oweThermal
  split
  · exact h
  · split
    · exact pushJob_ok _ h ‹_›
    · exact h.of_eq rfl rfl

theorem owePing_ok {c : Port} (h : c.Ok) : c.owePing.Ok := by
  unfold Port.owePing
  split
  · exact h
  · split
    · exact pushJob_ok _ h ‹_›
    · exact h.of_eq rfl rfl

theorem oweIdentify_ok {c : Port} (h : c.Ok) : c.oweIdentify.Ok := by
  unfold Port.oweIdentify
  split
  · exact h
  · exact enqueue_ok _ h

theorem servePoll_ok {c : Port} {n : Nat} (hn : n ≤ 8) (h : c.Ok) : (c.servePoll n).Ok := by
  unfold Port.servePoll
  split
  · rename_i hr
    have h' : ({ c with markPoll := false } : Port).Ok := h.of_eq rfl rfl
    dsimp only
    split
    · refine pushJob_ok _ h' ?_
      simp only [Bool.and_eq_true, decide_eq_true_eq] at hr
      exact decide_eq_true (hr.2.trans_le hn)
    · exact h'
  · exact h

theorem serveThermal_ok {c : Port} {n : Nat} (hn : n ≤ 8) (h : c.Ok) : (c.serveThermal n).Ok := by
  unfold Port.serveThermal
  split
  · rename_i hr
    have h' : ({ c with markThermal := false } : Port).Ok := h.of_eq rfl rfl
    dsimp only
    split
    · exact h'
    · refine pushJob_ok _ h' ?_
      simp only [Bool.and_eq_true, decide_eq_true_eq] at hr
      exact decide_eq_true (hr.2.trans_le hn)
  · exact h

theorem servePing_ok {c : Port} {n : Nat} (hn : n ≤ 8) (h : c.Ok) : (c.servePing n).Ok := by
  unfold Port.servePing
  split
  · rename_i hr
    have h' : ({ c with markPing := false } : Port).Ok := h.of_eq rfl rfl
    dsimp only
    split
    · refine pushJob_ok _ h' ?_
      simp only [Bool.and_eq_true, decide_eq_true_eq] at hr
      exact decide_eq_true (hr.2.trans_le hn)
    · exact h'
  · exact h

theorem serveLine_ok {c : Port} {n : Nat} (hn : n ≤ 8) (h : c.Ok) : (c.serveLine n).Ok := by
  refine ⟨?_, h.2.1, h.2.2.of_mem fun j hj => .inr ?_⟩
  · have := h.1
    simp only [Port.serveLine, List.length_append, List.length_take]
    omega
  · rcases List.mem_append.1 hj with hj | hj
    · exact List.mem_append.2 ((mem_tail_append hj).imp_right List.mem_of_mem_take)
    · exact List.mem_append_right _ (List.mem_of_mem_drop hj)

/-- Room is served within the queue's size. -/
theorem serveUpTo_ok {c : Port} {n : Nat} (hn : n ≤ 8) (h : c.Ok) : (c.serveUpTo n).Ok :=
  serveLine_ok hn (servePing_ok hn (serveThermal_ok hn (servePoll_ok hn h)))

theorem serveRoom_ok {c : Port} (h : c.Ok) : c.serveRoom.Ok := serveUpTo_ok (Nat.le_refl 8) h

/-- Dropping jobs from a queue and its waiting line keeps it within its size, and brings no started job behind the head. -/
theorem Port.Ok.fewer {c d : Port} (h : c.Ok) (hq : d.queue.length ≤ c.queue.length) (hr : d.run = c.run)
    (ht : ∀ j ∈ d.queue.tail, j ∈ c.queue.tail) (hw : ∀ j ∈ d.waitLine, j ∈ c.waitLine := by exact fun _ h => h) : d.Ok :=
  ⟨hq.trans h.1, hr ▸ h.2.1, h.2.2.of_mem fun j hj => .inr (List.mem_append.2 ((List.mem_append.1 hj).imp (ht j) (hw j)))⟩

theorem removeJobs_ok {c : Port} (f : Job → Bool) (h : c.Ok) : (c.removeJobs f).Ok :=
  serveUpTo_ok h.1 (h.fewer (by simpa using List.length_filter_le _ _) rfl (fun _ => mem_tail_filter)
    fun _ => List.mem_of_mem_filter)

theorem cutFlight_ok {c : Port} (f : Job → Bool) (b : Bool) (h : c.Ok) : (c.cutFlight f b).Ok := by
  unfold Port.cutFlight
  split
  · rename_i j js hq
    split
    · split
      · exact h.fewer (by simp [hq]) rfl (by simp [hq])
      · exact serveUpTo_ok h.1 (h.fewer (by simp [hq]) rfl fun j hj => by simpa [hq] using List.mem_of_mem_tail hj)
    · exact h
  · exact h

theorem dropPings_ok {c : Port} (h : c.Ok) : c.dropPings.Ok := removeJobs_ok _ (h.of_eq rfl rfl)

theorem railChange_ok {c : Port} (now : Nat) (old : Power) (h : c.Ok) : (c.railChange now old).Ok := by
  unfold Port.railChange
  split
  · split
    · exact h
    · exact h.of_eq rfl rfl
  · exact h.of_eq rfl rfl

theorem dropResumeWait_ok {c : Port} (h : c.Ok) : c.dropResumeWait.Ok := by
  unfold Port.dropResumeWait
  split
  · exact h
  · exact h
  · exact h.of_eq rfl rfl

/-- Entering a camera state keeps the queue within its size. -/
theorem enter_ok {c : Port} (now : Nat) (new : Power) (h : c.Ok) : (Port.enter now new c).Ok := by
  have h' : (({ c with power := new } : Port).railChange now c.power).dropResumeWait.Ok :=
    dropResumeWait_ok (railChange_ok _ _ (h.of_eq rfl rfl))
  unfold Port.enter
  dsimp only
  split
  · exact dropPings_ok h'
  · exact h'

theorem faultJobs_ok {c : Port} (h : c.Ok) : c.faultJobs.Ok :=
  cutFlight_ok _ _ (h.fewer (by simpa using List.length_filter_le _ _) rfl (fun _ => mem_tail_filter) (by simp))

theorem clearForVacant_ok {c : Port} : c.clearForVacant.Ok := by simp [Port.clearForVacant, Port.Ok, Port.OnlyHeadStarted]

theorem warmJobs_ok {c : Port} (h : c.Ok) : c.warmJobs.Ok := cutFlight_ok _ _ (removeJobs_ok _ h)

theorem reset_ok : Port.reset.Ok := by simp [Port.Ok, Port.OnlyHeadStarted, Port.reset]

theorem masterReset_ok (c : Port) : c.masterReset.Ok := by simp [Port.Ok, Port.OnlyHeadStarted, Port.masterReset, Port.reset]

end Sys2Proof.Machine
end

