-- ==== Sys2Proof/Laws/Budgets.lean ====
section
/-! SUPPORT. The two budgets (R83, R110): the committed steady current and the occupancy of a slot as sums over the ports, what one
port's change does to them, and the updates that keep `WithinBudgets`. -/

namespace Sys2Proof.Machine

set_option Elab.async false

/-! ## Sums over the ports -/

/-- What a port adds to the occupancy of a slot (R110). -/
def Port.draw (x : Nat) (c : Port) : Nat :=
  match c.resv with
  | some r => if r.covers x then r.current else 0
  | none => 0

theorem foldl_add {α : Type} (f : α → Nat) (l : List α) (n : Nat) :
    l.foldl (fun acc a => acc + f a) n = n + (l.map f).sum := by
  induction l generalizing n with
  | nil => rfl
  | cons a l ih => simp [ih, Nat.add_assoc]

theorem committed_eq (s : State) : s.committed = (allPorts.map fun p => (s.port p).commitment.getD 0).sum := by
  simp [State.committed, foldl_add]

theorem occupancy_eq (s : State) (x : Nat) : s.occupancy x = (allPorts.map fun p => (s.port p).draw x).sum := by
  rw [← Nat.zero_add (List.sum _), ← foldl_add]
  unfold State.occupancy
  congr
  funext acc p
  unfold Port.draw
  cases (s.port p).resv with
  | none => rfl
  | some r => dsimp only; split <;> rfl

/-- A slot lies at or after now_slot. -/
theorem offset_nonneg (s : State) (x : Nat) : 0 ≤ s.offset x ↔ diffSlot x s.nowSlot < 200000000 := by
  have : diffSlot x s.nowSlot < 400000000 := Nat.mod_lt _ (by decide)
  unfold State.offset
  dsimp only
  generalize diffSlot x s.nowSlot = d at *
  by_cases h : d < 200000000
  · simp [h]
  · rw [if_neg h]
    omega

/-- An offset from the difference it is read from. -/
theorem offset_cases (s : State) (x : Nat) : (diffSlot x s.nowSlot < 200000000 ∧ s.offset x = diffSlot x s.nowSlot) ∨
    (200000000 ≤ diffSlot x s.nowSlot ∧ s.offset x = (diffSlot x s.nowSlot : Int) - 400000000) := by
  unfold State.offset
  dsimp only
  split <;> omega

/-- A slot given by an offset lies no further ahead. -/
theorem offset_slotAt_le (s : State) (k : Nat) : s.offset (s.slotAt k) ≤ k := by
  have : diffSlot (s.slotAt k) s.nowSlot = k % 400000000 := by
    unfold diffSlot State.slotAt addSlot Config.slotMod
    omega
  unfold State.offset
  dsimp only
  rw [this]
  split <;> omega

/-- A sum grows by no more than one term does, when no other term grows. -/
theorem sum_le_of_one {α : Type} {l : List α} (nd : l.Nodup) (f g : α → Nat) (p : α) (d : Nat)
    (other : ∀ q, q ≠ p → g q ≤ f q) (one : g p ≤ f p + d) : (l.map g).sum ≤ (l.map f).sum + d := by
  have rest : ∀ {l : List α}, p ∉ l → (l.map g).sum ≤ (l.map f).sum := by
    intro l
    induction l with
    | nil => exact fun _ => le_rfl
    | cons a l ih =>
      intro h
      simp only [List.mem_cons, not_or] at h
      have := other a (Ne.symm h.1)
      have := ih h.2
      simp only [List.map_cons, List.sum_cons]
      omega
  induction l with
  | nil => simp
  | cons a l ih =>
    rw [List.nodup_cons] at nd
    simp only [List.map_cons, List.sum_cons]
    by_cases h : a = p
    · subst h
      have := rest nd.1
      omega
    · have := other a h
      have := ih nd.2
      omega

theorem le_sum_of_mem {α : Type} {l : List α} (f : α → Nat) {a : α} (h : a ∈ l) : f a ≤ (l.map f).sum := by
  induction l with
  | nil => cases h
  | cons b l ih =>
    simp only [List.map_cons, List.sum_cons]
    cases h with
    | head => omega
    | tail _ h => have := ih h; omega

/-- A sum falls by what one of its terms does, when no term grows. -/
theorem sum_add_le {α : Type} {l : List α} {f g : α → Nat} {p : α} {d : Nat} (h : p ∈ l) (le : ∀ q, g q ≤ f q)
    (one : g p + d ≤ f p) : (l.map g).sum + d ≤ (l.map f).sum := by
  have rest : ∀ l : List α, (l.map g).sum ≤ (l.map f).sum := fun l => by
    induction l with
    | nil => exact le_rfl
    | cons a l ih => have := le a; simp only [List.map_cons, List.sum_cons]; omega
  induction l with
  | nil => cases h
  | cons a l ih =>
    simp only [List.map_cons, List.sum_cons]
    cases h with
    | head => have := rest l; omega
    | tail _ h => have := ih h; have := le a; omega

theorem nodup_allPorts : allPorts.Nodup := by decide

theorem mem_allPorts (p : PortId) : p ∈ allPorts := by
  revert p
  decide

/-! ## One port's change -/

variable {s t : State}

theorem committed_modPort {p : PortId} {f : Port → Port} {d : Nat}
    (h : (f (s.port p)).commitment.getD 0 ≤ (s.port p).commitment.getD 0 + d) :
    (s.modPort p f).committed ≤ s.committed + d := by
  rw [committed_eq, committed_eq]
  refine sum_le_of_one nodup_allPorts _ _ p d (fun q hq => ?_) ?_
  · rw [port_modPort, if_neg hq.symm]
  · simpa [port_modPort] using h

/-- A port whose commitment ends is no longer counted. -/
theorem committed_none (p : PortId) : (s.modPort p ({ · with commitment := none })).committed +
    (s.port p).commitment.getD 0 ≤ s.committed := by
  rw [committed_eq, committed_eq]
  refine sum_add_le (mem_allPorts p) (fun q => ?_) ?_
  · rw [port_modPort]
    split
    · exact Nat.zero_le _
    · exact le_rfl
  · simp

theorem occupancy_modPort {p : PortId} {f : Port → Port} {x d : Nat}
    (h : (f (s.port p)).draw x ≤ (s.port p).draw x + d) : (s.modPort p f).occupancy x ≤ s.occupancy x + d := by
  rw [occupancy_eq, occupancy_eq]
  refine sum_le_of_one nodup_allPorts _ _ p d (fun q hq => ?_) ?_
  · rw [port_modPort, if_neg hq.symm]
  · simpa [port_modPort] using h

/-- A record whose figures are the same draws the same. -/
theorem draw_of_resv {c d : Port} (h : d.resv = c.resv) (x : Nat) : d.draw x = c.draw x := by
  simp [Port.draw, h]

theorem draw_none {c : Port} (h : c.resv = none) (x : Nat) : c.draw x = 0 := by simp [Port.draw, h]

/-- A port commits and draws no more than before. -/
theorem within_modPort {p : PortId} {f : Port → Port} (w : WithinBudgets s)
    (hc : (f (s.port p)).commitment.getD 0 ≤ (s.port p).commitment.getD 0)
    (hr : (f (s.port p)).resv = none ∨ (f (s.port p)).resv = (s.port p).resv) : WithinBudgets (s.modPort p f) := by
  refine ⟨(committed_modPort (d := 0) hc).trans w.1, fun x hx ho =>
    (occupancy_modPort (d := 0) ?_).trans (w.2.1 x hx ho), fun q r h => ?_⟩
  · cases hr with
    | inl hr => exact (draw_none hr x).trans_le (Nat.zero_le _)
    | inr hr => exact (draw_of_resv hr x).le
  · rw [port_modPort] at h
    split at h
    · rename_i hp
      subst hp
      cases hr with
      | inl hr => rw [hr] at h; cases h
      | inr hr => rw [hr] at h; exact w.2.2 _ _ h
    · exact w.2.2 _ _ h

/-- The reservation and the commitment figure of a port, which the budgets are summed from. -/
def Port.figures (c : Port) : Option Reservation × Option Nat := (c.resv, c.commitment)

theorem within_figures {p : PortId} {f : Port → Port} (w : WithinBudgets s)
    (h : (f (s.port p)).figures = (s.port p).figures) : WithinBudgets (s.modPort p f) := by
  simp only [Port.figures, Prod.mk.injEq] at h
  exact within_modPort w (by rw [h.2]) (.inr h.1)

/-! ## The figures of a record -/

section
variable (c : Port)

@[simp] theorem figures_pushJob (k : JobKind) : (pushJob k c).figures = c.figures := rfl

@[simp] theorem figures_enqueue (k : JobKind) : (c.enqueue k).figures = c.figures := by
  unfold Port.enqueue; split <;> rfl

@[simp] theorem figures_testPoll : c.testPoll.figures = c.figures := by
  unfold Port.testPoll; repeat' split
  all_goals rfl

@[simp] theorem figures_oweThermal : c.oweThermal.figures = c.figures := by
  unfold Port.oweThermal; repeat' split
  all_goals rfl

@[simp] theorem figures_owePing : c.owePing.figures = c.figures := by
  unfold Port.owePing; repeat' split
  all_goals rfl

@[simp] theorem figures_oweIdentify : c.oweIdentify.figures = c.figures := by
  unfold Port.oweIdentify; split
  · rfl
  · simp

@[simp] theorem figures_servePoll (n : Nat) : (c.servePoll n).figures = c.figures := by
  unfold Port.servePoll; split
  · dsimp only; split <;> rfl
  · rfl

@[simp] theorem figures_serveThermal (n : Nat) : (c.serveThermal n).figures = c.figures := by
  unfold Port.serveThermal; split
  · dsimp only; split <;> rfl
  · rfl

@[simp] theorem figures_servePing (n : Nat) : (c.servePing n).figures = c.figures := by
  unfold Port.servePing; split
  · dsimp only; split <;> rfl
  · rfl

@[simp] theorem figures_serveLine (n : Nat) : (c.serveLine n).figures = c.figures := rfl

@[simp] theorem figures_serveUpTo (n : Nat) : (c.serveUpTo n).figures = c.figures := by simp [Port.serveUpTo]

@[simp] theorem figures_serveRoom : c.serveRoom.figures = c.figures := by simp [Port.serveRoom]

@[simp] theorem figures_removeJobs (f : Job → Bool) : (c.removeJobs f).figures = c.figures := by
  rw [Port.removeJobs, figures_serveUpTo]
  rfl

@[simp] theorem figures_cutFlight (f : Job → Bool) (v : Bool) : (c.cutFlight f v).figures = c.figures := by
  unfold Port.cutFlight
  split
  · split
    · split
      · rfl
      · rw [figures_serveUpTo]
        rfl
    · rfl
  · rfl

@[simp] theorem figures_dropPings : c.dropPings.figures = c.figures := by
  rw [Port.dropPings, figures_removeJobs]
  rfl

@[simp] theorem figures_railChange (now : Nat) (old : Power) : (c.railChange now old).figures = c.figures := by
  unfold Port.railChange; repeat' split
  all_goals rfl

@[simp] theorem figures_dropResumeWait : c.dropResumeWait.figures = c.figures := by
  unfold Port.dropResumeWait; split <;> rfl

@[simp] theorem figures_enter (now : Nat) (new : Power) : (Port.enter now new c).figures = c.figures := by
  have : (({ c with power := new } : Port).railChange now c.power).dropResumeWait.figures = c.figures := by
    rw [figures_dropResumeWait, figures_railChange]
    rfl
  unfold Port.enter
  dsimp only
  split
  · rw [figures_dropPings, this]
  · exact this

@[simp] theorem figures_faultJobs : c.faultJobs.figures = c.figures := by
  rw [Port.faultJobs, figures_cutFlight]
  rfl

@[simp] theorem figures_warmJobs : c.warmJobs.figures = c.figures := by simp [Port.warmJobs]

end

/-- A reservation leaves the slot map, and the commitment stays. -/
theorem within_withdraw {p : PortId} (w : WithinBudgets s) : WithinBudgets (setResv p none s) :=
  within_modPort w le_rfl (.inl rfl)

/-- A reservation is replaced by one of the same window and current. -/
theorem within_sameWindow {p : PortId} {r r' : Reservation} (w : WithinBudgets s) (h : (s.port p).resv = some r)
    (same : r'.start = r.start ∧ r'.length = r.length ∧ r'.current = r.current) :
    WithinBudgets (setResv p (some r') s) := by
  refine ⟨(committed_modPort (d := 0) le_rfl).trans w.1, fun x hx ho => (occupancy_modPort (d := 0) ?_).trans (w.2.1 x hx ho),
    fun q v hv => ?_⟩
  · simp [Port.draw, h, Reservation.covers, same]
  · rw [setResv, port_modPort] at hv
    split at hv
    · have := w.2.2 _ _ h
      simp only [Option.some.injEq] at hv
      subst hv
      rwa [same.1, same.2.1]
    · exact w.2.2 _ _ hv

/-- A camera that the admission test of R83 lets in is committed. -/
theorem within_commit {p : PortId} (w : WithinBudgets s) (h : s.admits p 0 = true) : WithinBudgets (commit p s) := by
  simp only [State.admits, Nat.sub_zero, decide_eq_true_eq] at h
  refine ⟨(committed_modPort (d := (s.port p).awakeCurrent) ?_).trans h, fun x hx ho => ?_, fun q r hr => ?_⟩
  · simp
  · exact (occupancy_modPort (d := 0) (f := fun c => { c with commitment := some c.awakeCurrent })
      (draw_of_resv rfl x).le).trans (w.2.1 x hx ho)
  · rw [commit, port_modPort] at hr
    split at hr <;> exact w.2.2 _ _ hr

/-! ## Placement -/

theorem covers_iff {r : Reservation} {x : Nat} : r.covers x = true ↔ diffSlot x r.start < r.length := by
  simp [Reservation.covers]

theorem addSlot_diffSlot {x a : Nat} (hx : x < 400000000) : addSlot a (diffSlot x a) = x := by
  unfold addSlot diffSlot Config.slotMod
  omega

theorem addSlot_addSlot (a b c : Nat) : addSlot (addSlot a b) c = addSlot a (b + c) := by
  unfold addSlot Config.slotMod
  omega

/-- A window that fits leaves every slot it covers within the inrush budget. -/
theorem occupancy_of_fits {r r' : Reservation} {k x : Nat} (h : s.fits r k = true) (hs : r'.start = s.slotAt k)
    (hl : r'.length = r.length) (hx : x < 400000000) (hc : r'.covers x = true) :
    s.occupancy x + r.current ≤ s.inrush := by
  rw [covers_iff] at hc
  simp only [State.fits, Bool.and_eq_true, List.all_eq_true, List.mem_range, decide_eq_true_eq] at h
  have := h.2 (diffSlot x r'.start) (hl ▸ hc)
  rw [State.slotAt, ← addSlot_addSlot] at this
  rw [hs, State.slotAt] at this
  rwa [addSlot_diffSlot hx] at this

/-- A reservation is placed at a window that fits. -/
theorem within_place {p : PortId} {r : Reservation} {k : Nat} {n : Option Nat} (w : WithinBudgets s)
    (h : s.fits r k = true) : WithinBudgets (setResv p (some (s.startAt r k n)) s) := by
  refine ⟨(committed_modPort (d := 0) le_rfl).trans w.1, fun x hx ho => ?_, fun q v hv => ?_⟩
  rotate_left
  · rw [setResv, port_modPort] at hv
    split at hv
    · simp only [State.fits, Bool.and_eq_true, decide_eq_true_eq] at h
      simp only [Option.some.injEq] at hv
      subst hv
      have := offset_slotAt_le s k
      have : (s.startAt r k n).length = r.length ∧ (s.startAt r k n).start = s.slotAt k := ⟨rfl, rfl⟩
      simp only [this]
      have : (setResv p (some (s.startAt r k n)) s).offset (s.slotAt k) = s.offset (s.slotAt k) := rfl
      omega
    · exact w.2.2 _ _ hv
  by_cases hc : (s.startAt r k n).covers x = true
  · refine le_trans (occupancy_modPort (d := r.current) ?_) (occupancy_of_fits (r' := s.startAt r k n) h rfl rfl hx hc)
    simp only [Port.draw, hc, if_true]
    exact Nat.le_add_left _ _
  · refine le_trans (occupancy_modPort (d := 0) ?_) (w.2.1 x hx ho)
    simp [Port.draw, hc]

theorem fits_searchDown {r : Reservation} {n k : Nat} (h : s.searchDown r n = some k) : s.fits r k = true := by
  induction n with
  | zero => cases h
  | succ n ih =>
    unfold State.searchDown at h
    split at h
    · simp only [Option.some.injEq] at h
      subst h
      assumption
    · exact ih h

theorem fits_searchUp {r : Reservation} {n i k : Nat} (h : s.searchUp r n i = some k) : s.fits r k = true := by
  induction n generalizing i with
  | zero => cases h
  | succ n ih =>
    unfold State.searchUp at h
    split at h
    · simp only [Option.some.injEq] at h
      subst h
      assumption
    · exact ih h

theorem fits_findStart {r : Reservation} {req k : Nat} {d : Disp} (h : s.findStart r req = some (k, d)) :
    s.fits r k = true := by
  unfold State.findStart at h
  split at h
  · rename_i g
    simp only [Option.some.injEq, Prod.mk.injEq] at h
    exact h.1 ▸ fits_searchDown g
  · simp only [Option.map_eq_some_iff, Prod.mk.injEq] at h
    obtain ⟨a, ha, rfl, _⟩ := h
    exact fits_searchUp ha

/-! ## A new budget, and the states after a reset -/

theorem le_foldl_max {α : Type} (f : α → Nat) (l : List α) (n : Nat) :
    n ≤ l.foldl (fun acc a => max acc (f a)) n ∧ ∀ a ∈ l, f a ≤ l.foldl (fun acc a => max acc (f a)) n := by
  induction l generalizing n with
  | nil => simp
  | cons b l ih =>
    have := ih (max n (f b))
    refine ⟨(Nat.le_max_left _ _).trans this.1, fun a ha => ?_⟩
    cases ha with
    | head => exact (Nat.le_max_right _ _).trans this.1
    | tail _ h => exact this.2 a h

/-- A slot from now_slot onward is occupied by no more than the highest occupancy (R126). -/
theorem occupancy_le_highest {x : Nat} (hx : x < 400000000) (ho : 0 ≤ s.offset x) : s.occupancy x ≤ s.highestOccupancy := by
  by_cases h : ∃ p r, (s.port p).resv = some r ∧ r.covers x = true
  · obtain ⟨p, r, hr, hc⟩ := h
    refine (le_foldl_max s.occupancy s.coveredSlots 0).2 x ?_
    simp only [State.coveredSlots, List.mem_flatMap]
    refine ⟨p, mem_allPorts p, ?_⟩
    rw [hr]
    simp only [List.mem_filter, List.mem_map, List.mem_range, decide_eq_true_eq]
    exact ⟨⟨_, covers_iff.mp hc, addSlot_diffSlot hx⟩, ho⟩
  · have z : (allPorts.map fun p => (s.port p).draw x) = allPorts.map fun _ => 0 := by
      refine List.map_congr_left fun p _ => ?_
      unfold Port.draw
      split
      · rename_i r hr
        rw [if_neg fun hc => h ⟨p, r, hr, hc⟩]
      · rfl
    rw [occupancy_eq, z]
    simp

/-- With no commitment and no reservation the budgets hold. -/
theorem within_idle (h : ∀ p, (s.port p).commitment = none ∧ (s.port p).resv = none) : WithinBudgets s := by
  have hc : s.committed = 0 := by simp [committed_eq, h]
  have ho (x) : s.occupancy x = 0 := by simp [occupancy_eq, Port.draw, h]
  exact ⟨by omega, fun x _ _ => by rw [ho]; exact Nat.zero_le _, fun p r hr => by rw [(h p).2] at hr; cases hr⟩

/-- The budgets hold in any state with the same clock, the same budgets and ports with the same figures. -/
theorem within_of_eq (w : WithinBudgets s) (hc : t.clock = s.clock) (hs : t.steady = s.steady) (hi : t.inrush = s.inrush)
    (hp : ∀ p, (t.port p).figures = (s.port p).figures) : WithinBudgets t := by
  simp only [Port.figures, Prod.mk.injEq] at hp
  have c : t.committed = s.committed := by simp [committed_eq, hp]
  have o (x) : t.occupancy x = s.occupancy x := by simp [occupancy_eq, Port.draw, hp]
  have f (x) : t.offset x = s.offset x := by unfold State.offset State.nowSlot; rw [hc]
  unfold WithinBudgets
  simp only [c, o, f, hs, hi, hp]
  exact w

/-- New budgets that lie at or above what is committed hold (R80). -/
theorem within_budgets (w : WithinBudgets s) {a b : Nat} (ha : s.committed ≤ a) (hb : s.highestOccupancy ≤ b) :
    WithinBudgets { s with steady := a, inrush := b } :=
  ⟨ha, fun _ hx ho => (occupancy_le_highest hx ho).trans hb, w.2.2⟩

/-- A reservation that is neither to be started nor past starts ahead, or is started and ends ahead. -/
theorem ahead_of_not_due {p : PortId} {r : Reservation} (h : (s.port p).resv = some r)
    (hs : s.startDue p = false) (he : s.windowDue p = false) :
    0 < s.offset r.start ∨ 0 < s.offset (addSlot r.start r.length) := by
  simp only [State.startDue, State.windowDue, h, State.slotReached, Bool.and_eq_false_iff, Bool.not_eq_false',
    decide_eq_false_iff_not, not_le] at hs he
  cases hr : r.started <;> simp_all

/-- Its window leaves the slot half the range ahead free. -/
theorem clear_of_not_due {p : PortId} {r : Reservation} (w : WithinBudgets s) (h : (s.port p).resv = some r)
    (hs : s.startDue p = false) (he : s.windowDue p = false) : r.covers (s.slotAt 200000000) = false := by
  have a := w.2.2 p r h
  have b := ahead_of_not_due h hs he
  have c := offset_cases s r.start
  have d := offset_cases s (addSlot r.start r.length)
  simp only [Reservation.covers, decide_eq_false_iff_not, not_lt]
  simp only [State.slotAt, addSlot, diffSlot, Config.slotMod] at *
  generalize s.nowSlot = n at *
  omega

/-- One millisecond passes, with no reservation to be started or past. -/
theorem within_tick (w : WithinBudgets s) (range : s.clock < 4000000000)
    (due : ∀ p, s.startDue p = false ∧ s.windowDue p = false) :
    WithinBudgets { s with clock := addMs s.clock 1 } := by
  refine ⟨w.1, fun x hx ho => ?_, fun p r h => ?_⟩
  · have hs (y) : ({ s with clock := addMs s.clock 1 } : State).occupancy y = s.occupancy y := rfl
    rw [hs]
    by_cases h : x = s.slotAt 200000000
    · have z : (allPorts.map fun p => (s.port p).draw x) = allPorts.map fun _ => 0 := by
        refine List.map_congr_left fun p _ => ?_
        unfold Port.draw
        split
        · rename_i r hr
          rw [h, clear_of_not_due w hr (due p).1 (due p).2]
          rfl
        · rfl
      rw [occupancy_eq, z]
      simp
    · refine w.2.1 x hx ((offset_nonneg _ _).mpr ?_)
      have ho := (offset_nonneg _ _).mp ho
      have := range
      simp only [State.slotAt, addSlot, diffSlot, State.nowSlot, addMs, Config.slotMod, Config.clockMod] at *
      omega
  · have h : (s.port p).resv = some r := h
    have a := w.2.2 p r h
    have b := ahead_of_not_due h (due p).1 (due p).2
    have c := offset_cases s r.start
    have d := offset_cases s (addSlot r.start r.length)
    have e := offset_cases { s with clock := addMs s.clock 1 } r.start
    have := range
    simp only [addSlot, diffSlot, State.nowSlot, addMs, Config.slotMod, Config.clockMod] at *
    omega

end Sys2Proof.Machine
end

