-- ==== Sys2Proof/Laws/Exchanges.lean ====
section
/-! SUPPORT. How a response reaches the job in flight, and what the test of a pending SETTLE does: the operations at the two ends of
a step that concerns a lane. -/

namespace Sys2Proof.Machine

set_option Elab.async false

variable {p : PortId} {s : State} {e : Exchange} {j : Job} {js : List Job} {st d : Byte}

/-- The state in which the job in flight is handed its response: the level sampled, the lane idle, the run cleared. -/
def State.handed (s : State) (p : PortId) (attention : Bool) : State :=
  s.modPort p (fun c => ({ c with attention := attention, lane := none } : Port).runCleared)

/-- The queue is as it was. -/
@[simp] theorem queue_handed (s : State) (p : PortId) (a : Bool) : ((s.handed p a).port p).queue = (s.port p).queue := by
  simp only [State.handed, port_modPort_self, Port.runCleared]
  split <;> rfl

/-- When the job leaves the queue, the port is as its successful exchange has left it. -/
theorem handed_tail (h : (s.port p).queue = j :: js) (a : Bool) :
    (s.handed p a).modPort p (fun c => { c with queue := c.queue.tail }) = s.jobDone p a js := by
  have e : ({ ({ s.port p with attention := a, lane := none } : Port).runCleared with
        queue := (({ s.port p with attention := a, lane := none } : Port).runCleared).queue.tail } : Port) =
      { s.port p with
        attention := a, lane := none
        run := if (s.port p).power.isFault = true ∧ (s.port p).run = 3 then 3 else 0, queue := js } := by
    simp only [Port.runCleared]
    split <;> simp_all
  rw [State.handed, modPort_modPort, State.jobDone]
  unfold State.modPort
  simp only [e]

/-- A response that succeeds is handed to the job in flight; a write through the part is taken first. -/
theorem exec_laneResponse_job (h : JobSucceeds p e j js st d s) (a : Bool) :
    exec (.laneResponse p st d (responseCheck st d) a) s = .next (finish (jobSuccess p j st d
      (if e.throughPart then writeThrough p ⟨e.attr, e.data⟩ true (s.handed p a) else s.handed p a))) := by
  obtain ⟨hl, hs, ha, hv, hq, hj⟩ := h
  have hh : (setLane p none (s.modPort p fun x => { x with attention := a })).modPort p Port.runCleared = s.handed p a := by
    simp [setLane, modPort_modPort, State.handed]
  have hw (t : State) (ht : (t.port p).queue = j :: js) :
      withHead p (fun j => jobSuccess p j st d) t = jobSuccess p j st d t := by
    simp [withHead, ht, hj]
  have hp (b : Bool) : ((writeThrough p ⟨e.attr, e.data⟩ b (s.handed p a)).port p).queue = j :: js := by
    rw [← hq, ← queue_handed s p a]
    unfold writeThrough
    dsimp only
    repeat' split
    all_goals rfl
  show execLaneResponse p st d (responseCheck st d) a s = _
  unfold execLaneResponse
  simp only [hl, ha, ↓reduceIte, judgeResponse, hv, exchangeSuccess, hs, hh]
  split
  · rw [hw _ (hp true)]
  · rw [hw _ (by rw [queue_handed, hq])]

/-! ## The test of a pending SETTLE -/

/-- The test of a station's pending SETTLE answers it when the station is settled, and does nothing else (R105). -/
theorem testSettle_eq (st : StationId) (s : State) : testSettle st s = { s with
    settles := if s.settled st = true then s.settles.set st.val none st.isLt else s.settles
    settleReady := s.settleReady ++ (if s.settled st = true then ((s.settleReq st).map (fun q =>
      (⟨q.tag, (if q.clamped = true then 0x01#8 else 0x00#8) :: le16 q.timeout⟩ : SettleReply))).toList else []) } := by
  unfold testSettle
  cases h : s.settleReq st with
  | none =>
    have e : s.settles.set st.val none st.isLt = s.settles := by
      ext i hi x
      have g : s.settles[st.val] = none := h
      rw [Vector.getElem_set]
      split
      · subst_vars
        simp_all
      · rfl
    simp [e]
  | some r =>
    by_cases hs : s.settled st = true
    · simp only [hs, ↓reduceIte, endSettle, Option.map_some, Option.toList_some, settleBody, okOr]
      cases r.clamped <;> rfl
    · simp [hs]

/-- It leaves every port, so no station's condition changes. -/
@[simp] theorem settled_testSettle (st st' : StationId) (s : State) : (testSettle st s).settled st' = s.settled st' := by
  rw [testSettle_eq]
  rfl

end Sys2Proof.Machine
end

