-- ==== Sys2Proof/Laws/Keeps.lean ====
section
/-! SUPPORT. What the operations of the ports, the planner and the lanes can do to the rest of the machine, said once: the
relation `Keeps`, and one lemma for each shared operation, in the form "if t is reached, the operation on t is reached". -/

namespace Sys2Proof.Machine

set_option Elab.async false

/-- From s the operations of a block have reached t: the fields of `still` are as they were, the reply line has the same
entries, no cue was added, every capacity, every rule of `Inv` and the budgets still hold; with `fixed`, the identity table is
as it was. -/
structure Keeps (fixed : Bool) (s t : State) : Prop where
  still : t.still = s.still
  line : t.line.length = s.line.length
  cues : t.cues.length ≤ s.cues.length
  ports : (∀ p, (s.port p).Ok) → ∀ p, (t.port p).Ok
  adv : s.adv.length ≤ 32 → t.adv.length ≤ 32
  events : s.events.length ≤ 64 → t.events.length ≤ 64
  reports : s.reports.length ≤ 16 → t.reports.length ≤ 16
  holder : OneHolder s → OneHolder t
  budgets : WithinBudgets s → WithinBudgets t
  same : fixed = true → t.table = s.table
  unique : TableUnique s.table → TableUnique t.table

namespace Keeps

variable {b : Bool} {s t u : State}

theorem refl (b : Bool) (s : State) : Keeps b s s :=
  ⟨rfl, rfl, le_rfl, id, id, id, id, id, id, fun _ => rfl, id⟩

theorem trans (h : Keeps b s t) (g : Keeps b t u) : Keeps b s u :=
  ⟨g.still.trans h.still, g.line.trans h.line, g.cues.trans h.cues, g.ports ∘ h.ports, g.adv ∘ h.adv,
    g.events ∘ h.events, g.reports ∘ h.reports, g.holder ∘ h.holder, g.budgets ∘ h.budgets, fun e => (g.same e).trans (h.same e),
    g.unique ∘ h.unique⟩

/-- An operation that leaves the table as it was is one that may write it. -/
theorem loose (h : Keeps b s t) : Keeps false s t := { h with same := by simp }

/-! ## The primitive updates -/

/-- A port's record is replaced by one within the queue's size and with the same reservation and commitment. -/
theorem modPort (h : Keeps b s t) (p : PortId) (f : Port → Port) (hf : ∀ c, c.Ok → (f c).Ok)
    (hr : ∀ c, (f c).figures = c.figures := by
      first
      | exact fun _ => rfl
      | (simp; done)
      | (intro c; simp; rfl)
      | (intro c; split <;> first | rfl | (simp; done) | (simp; rfl))) : Keeps b s (t.modPort p f) :=
  h.trans
    { Keeps.refl b t with
      budgets := fun w => within_figures w (hr _)
      ports := fun ok q => by
        rw [port_modPort]
        split
        · exact hf _ (ok q)
        · exact ok q }

/-- A port's record is replaced by one with the same jobs, failed-exchange run, reservation and commitment. -/
theorem mod (h : Keeps b s t) (p : PortId) (f : Port → Port)
    (hf : ∀ c, (f c).queue = c.queue ∧ (f c).run = c.run ∧ (f c).waitLine = c.waitLine := by exact fun _ => ⟨rfl, rfl, rfl⟩)
    (hr : ∀ c, (f c).figures = c.figures := by exact fun _ => rfl) : Keeps b s (t.modPort p f) :=
  h.modPort p f (fun c ok => ok.of_eq (hf c).1 (hf c).2.1 (hf c).2.2) hr

/-- A port's record is replaced by one within the queue's size, where the budgets are known to hold. -/
theorem modFigures (h : Keeps b s t) (p : PortId) (f : Port → Port)
    (hw : WithinBudgets t → WithinBudgets (t.modPort p f))
    (hf : ∀ c, c.Ok → (f c).Ok := by exact fun _ ok => ok.of_eq rfl rfl) : Keeps b s (t.modPort p f) :=
  h.trans
    { Keeps.refl b t with
      budgets := hw
      ports := fun ok q => by
        rw [port_modPort]
        split
        · exact hf _ (ok q)
        · exact ok q }

theorem modCue (h : Keeps b s t) (id : Nat) (f : Cue → Cue) : Keeps b s (modCue id f t) :=
  h.trans { Keeps.refl b t with cues := by simp }

theorem removeCue (h : Keeps b s t) (id : Nat) : Keeps b s (removeCue id t) :=
  h.trans { Keeps.refl b t with cues := by simpa using List.length_filter_le _ _ }

/-- The advance table gets no more entries than it had. -/
theorem fewerAdv (h : Keeps b s t) (l : List AdvEntry) (hl : l.length ≤ t.adv.length) : Keeps b s { t with adv := l } :=
  h.trans { Keeps.refl b t with adv := hl.trans }

/-- A report joins a queue that has room. -/
theorem addReport (h : Keeps b s t) (r : Report) (room : t.reports.length < 16) :
    Keeps b s { t with reports := t.reports ++ [r] } :=
  h.trans { Keeps.refl b t with reports := fun _ => by simp; omega }

/-- An event joins a queue that has room. -/
theorem addEvent (h : Keeps b s t) (e : EventRec) (room : t.events.length < 64) :
    Keeps b s { t with events := t.events ++ [e] } :=
  h.trans { Keeps.refl b t with events := fun _ => by simp; omega }

theorem setXfer (h : Keeps b s t) (x : Option InXfer) : Keeps b s { t with inXfer := x } :=
  h.trans { Keeps.refl b t with }

theorem giveAnswer (h : Keeps b s t) (k : Nat) (body : List Byte) : Keeps b s (giveAnswer k body t) :=
  h.trans { Keeps.refl b t with line := by simp }

theorem setEventsMark (h : Keeps b s t) (v : Bool) : Keeps b s { t with eventsMark := v } :=
  h.trans { Keeps.refl b t with }

theorem setWaiting (h : Keeps b s t) (l : List FireReq) : Keeps b s { t with waiting := l } :=
  h.trans { Keeps.refl b t with }

/-- A thing done for each of a list is reached when each of its rounds is. -/
theorem forEach {α : Type} (h : Keeps b s t) (xs : List α) (f : α → State → State)
    (hf : ∀ x u, Keeps b s u → Keeps b s (f x u)) : Keeps b s (forEach xs f t) := by
  induction xs generalizing t with
  | nil => exact h
  | cons x xs ih => exact ih (hf x t h)

/-- Either branch of a choice. -/
theorem ite {c : Prop} [Decidable c] (h : Keeps b s t) (g : Keeps b s u) : Keeps b s (if c then t else u) := by
  split
  · exact h
  · exact g

/-! ## Reports and flags -/

theorem markPort (h : Keeps b s t) (p : PortId) : Keeps b s (markPort p t) := by
  unfold Machine.markPort
  repeat' split
  · exact h
  · exact h.mod p _
  · exact h
  · exact h.addReport _ ‹_›
  · exact h.mod p _

theorem handEventsWaiting (h : Keeps b s t) : Keeps b s (handEventsWaiting t) := by
  unfold Machine.handEventsWaiting
  repeat' split
  · exact h
  · exact h.addReport _ ‹_›
  · exact h.setEventsMark _

theorem setGradeChanged (h : Keeps b s t) (p : PortId) : Keeps b s (setGradeChanged p t) := by
  unfold Machine.setGradeChanged
  dsimp only
  split
  · exact ((h.setXfer _).mod p _).markPort p
  · exact (h.mod p _).markPort p

theorem addAbandoned (h : Keeps b s t) (p : PortId) : Keeps b s (addAbandoned p t) := by
  unfold Machine.addAbandoned
  dsimp only
  split
  · exact ((h.setXfer _).mod p _).markPort p
  · exact (h.mod p _).markPort p

theorem addConflict (h : Keeps b s t) (p : PortId) : Keeps b s (addConflict p t) := by
  unfold Machine.addConflict
  dsimp only
  split
  · exact ((h.setXfer _).mod p _).markPort p
  · exact (h.mod p _).markPort p

theorem setOffload (h : Keeps b s t) (p : PortId) (v : Bool) : Keeps b s (setOffload p v t) := by
  unfold Machine.setOffload
  split
  · exact h
  · exact (h.mod p _).markPort p

theorem setMediaFull (h : Keeps b s t) (p : PortId) (v : Bool) : Keeps b s (setMediaFull p v t) := by
  unfold Machine.setMediaFull
  split
  · exact h
  · exact (h.mod p _).markPort p

theorem setHostPause (h : Keeps b s t) (p : PortId) (v : Bool) : Keeps b s (setHostPause p v t) := by
  unfold Machine.setHostPause
  split
  · exact h
  · exact (h.mod p _).markPort p

theorem answerBadState (h : Keeps b s t) (j : Job) : Keeps b s (answerBadState j t) := by
  unfold Machine.answerBadState
  split
  · exact h.giveAnswer _ _
  · exact h.giveAnswer _ _
  · exact h

/-! ## Commitments, reservations and camera states -/

theorem settleCommitment (h : Keeps b s t) (p : PortId) : Keeps b s (settleCommitment p t) := by
  unfold Machine.settleCommitment
  split
  · exact h.modFigures p _ fun w => within_modPort w (Nat.zero_le _) (.inr rfl)
  · exact h

theorem withdraw (h : Keeps b s t) (p : PortId) : Keeps b s (withdraw p t) := by
  unfold Machine.withdraw
  exact h.modFigures p _ within_withdraw

theorem releaseResv (h : Keeps b s t) (p : PortId) : Keeps b s (releaseResv p t) := by
  unfold Machine.releaseResv
  exact (h.withdraw p).settleCommitment p

theorem releaseUnstarted (h : Keeps b s t) (p : PortId) : Keeps b s (releaseUnstarted p t) := by
  unfold Machine.releaseUnstarted
  split
  · exact h.releaseResv p
  · exact h

theorem setPower (h : Keeps b s t) (p : PortId) (new : Power) : Keeps b s (setPower p new t) := by
  unfold Machine.setPower
  dsimp only
  have g := h.modPort p (Port.enter t.clock new) fun c ok => enter_ok _ _ ok
  split
  · exact (g.markPort p).settleCommitment p
  · exact g.settleCommitment p

theorem clearEntries (h : Keeps b s t) (p : PortId) : Keeps b s (clearEntries p t) := by
  unfold Machine.clearEntries
  exact h.fewerAdv _ (List.length_filter_le _ _)

theorem dropEntry (h : Keeps b s t) (p : PortId) (a : Nat) : Keeps b s (dropEntry p a t) := by
  unfold Machine.dropEntry
  exact h.fewerAdv _ (List.length_filter_le _ _)

theorem appendEntry (h : Keeps b s t) (p : PortId) (pr : Pair) (v : Bool) (life : Nat) :
    Keeps b s (appendEntry p pr v life t) := by
  refine (h.dropEntry p pr.attr).trans { Keeps.refl b _ with adv := fun le => ?_ }
  unfold Machine.appendEntry
  dsimp only
  split
  · rename_i room
    simp only [List.length_append, List.length_singleton]
    exact room
  · simp only [List.length_append, List.length_singleton, List.length_drop]
    omega

theorem startRest (h : Keeps b s t) (p : PortId) : Keeps b s (startRest p t) := by
  unfold Machine.startRest
  split
  · exact h.mod p _
  · exact h

theorem dropHold (h : Keeps b s t) (cue : Nat) (p : PortId) : Keeps b s (dropHold cue p t) := by
  unfold Machine.dropHold
  split
  · split
    · exact h.mod p _
    · exact h
  · exact h

/-! ## Preparation and pauses -/

theorem checkEntries (h : Keeps b s t) (p : PortId) (form : CheckForm) (pairs : List Pair) :
    Keeps b s (checkEntries p form pairs t) := by
  unfold Machine.checkEntries
  split
  · exact h.fewerAdv _ (List.length_filter_le _ _)
  · exact h
  · exact h

theorem setPrep (h : Keeps b s t) (cue : Nat) (p : PortId) (v : Prep) : Keeps b s (setPrep cue p v t) := by
  unfold Machine.setPrep
  exact h.modCue _ _

theorem prepareMember (h : Keeps b s t) (c : Cue) (p : PortId) : Keeps b s (prepareMember c p t) := by
  unfold Machine.prepareMember
  dsimp only
  split
  · exact (h.checkEntries _ _ _).setPrep _ _ _
  · exact ((h.checkEntries _ _ _).modPort p _ fun c ok => enqueue_ok _ ok).setPrep _ _ _

theorem checkOnReady (h : Keeps b s t) (p : PortId) : Keeps b s (checkOnReady p t) := by
  unfold Machine.checkOnReady
  exact h.forEach _ _ fun c _ g => g.prepareMember c p

theorem handOver (h : Keeps b s t) (p : PortId) : Keeps b s (handOver p t) := by
  unfold Machine.handOver
  split
  · split
    · exact h.modPort p _ fun c ok => enqueue_ok _ (ok.of_eq rfl rfl)
    · exact h
  · exact h

theorem loseSettings (h : Keeps b s t) (p : PortId) : Keeps b s (loseSettings p t) := by
  refine h.forEach _ _ fun c u g => ?_
  split
  · exact (g.modPort p _ fun c ok => cutFlight_ok _ _ (removeJobs_ok _ ok)).setPrep _ _ _
  · exact g.setPrep _ _ _
  all_goals exact g

theorem enqueueJob (h : Keeps b s t) (p : PortId) (k : JobKind) : Keeps b s (enqueueJob p k t) := by
  unfold Machine.enqueueJob
  exact h.modPort p _ fun _ ok => enqueue_ok _ ok

theorem enterDoze (h : Keeps b s t) (p : PortId) : Keeps b s (enterDoze p t) := by
  unfold Machine.enterDoze
  exact (h.setPower p _).enqueueJob p _

theorem enterDeep (h : Keeps b s t) (p : PortId) : Keeps b s (enterDeep p t) := by
  unfold Machine.enterDeep
  exact (((h.setPower p _).setOffload p _).clearEntries p).loseSettings p

theorem startKeepwarm (h : Keeps b s t) (p : PortId) : Keeps b s (startKeepwarm p t) := by
  unfold Machine.startKeepwarm
  split
  · exact h.mod p _
  · exact h.enterDoze p

theorem enterKeepwarm (h : Keeps b s t) (p : PortId) : Keeps b s (enterKeepwarm p t) := by
  unfold Machine.enterKeepwarm
  exact ((h.setPower p _).enqueueJob p _).startKeepwarm p

theorem pauseAction (h : Keeps b s t) (p : PortId) (x : Target) : Keeps b s (pauseAction p x t) := by
  unfold Machine.pauseAction
  split
  · exact h.enterDoze p
  · exact h.enterKeepwarm p
  · exact h.enterDeep p

theorem pauseReady (h : Keeps b s t) (p : PortId) (ps : Pause) : Keeps b s (pauseReady p ps t) := by
  unfold Machine.pauseReady
  split
  · exact h.setPower p _
  · exact h.pauseAction p _

theorem pausingEvent (h : Keeps b s t) (p : PortId) : Keeps b s (pausingEvent p t) := by
  unfold Machine.pausingEvent
  split
  · split
    · exact h
    · exact h.pauseAction p _
  · exact h

theorem enterReady (h : Keeps b s t) (p : PortId) (rest : Bool) : Keeps b s (enterReady p rest t) := by
  unfold Machine.enterReady
  dsimp only
  refine Keeps.handOver ?_ p
  have g := h.setPower p (.ready none none)
  split
  · exact g.pauseReady p _
  · split
    · exact (g.startRest p).checkOnReady p
    · exact g.checkOnReady p

theorem wakeDone (h : Keeps b s t) (p : PortId) : Keeps b s (wakeDone p t) := by
  unfold Machine.wakeDone
  split
  · exact h.enterReady p _
  · exact h

/-! ## The planner -/

theorem setDisp (h : Keeps b s t) (cue : Nat) (p : PortId) (d : Option Disp) (r : Option Nat) :
    Keeps b s (setDisp cue p d r t) := by
  unfold Machine.setDisp
  exact h.modCue _ _

/-- A reservation is rewritten with the same window and current. -/
theorem sameWindow (h : Keeps b s t) {p : PortId} {r : Reservation} (r' : Reservation) (hr : (t.port p).resv = some r)
    (same : r'.start = r.start ∧ r'.length = r.length ∧ r'.current = r.current := by exact ⟨rfl, rfl, rfl⟩) :
    Keeps b s (setResv p (some r') t) :=
  h.modFigures p _ (within_sameWindow · hr same)

/-- A reservation is placed at a window that fits. -/
theorem place (h : Keeps b s t) (p : PortId) {r : Reservation} {k : Nat} (n : Option Nat) (fit : t.fits r k = true) :
    Keeps b s (setResv p (some (t.startAt r k n)) t) :=
  h.modFigures p _ (within_place · fit)

theorem placeFor (h : Keeps b s t) (p : PortId) (cue req : Nat) : Keeps b s (placeFor p cue req t) := by
  unfold Machine.placeFor
  repeat' split
  · exact (h.place p _ (fits_findStart ‹_›)).setDisp _ _ _ _
  · exact h
  · exact h

/-- The commitment of a camera that the admission test lets in. -/
theorem commit (h : Keeps b s t) (p : PortId) (ha : t.admits p 0 = true) : Keeps b s (commit p t) :=
  h.modFigures p _ (within_commit · ha)

theorem rewriteEntries (h : Keeps b s t) (p : PortId) (x old : Nat) : Keeps b s (rewriteEntries p x old t) := by
  unfold Machine.rewriteEntries
  split
  · exact h.forEach _ _ fun c u g => g.setDisp _ _ _ _
  · exact h

theorem coverBy (h : Keeps b s t) (p : PortId) (cue req ready : Nat) : Keeps b s (coverBy p cue req ready t) := by
  unfold Machine.coverBy
  exact h.setDisp _ _ _ _

theorem planPaused (h : Keeps b s t) (p : PortId) (cue req : Nat) : Keeps b s (planPaused p cue req t) := by
  unfold Machine.planPaused
  repeat' split
  · exact h.coverBy _ _ _ _
  · exact h.setDisp _ _ _ _
  · exact (((h.withdraw p).placeFor p cue req).rewriteEntries p cue _).settleCommitment p
  · exact h.setDisp _ _ _ _
  · exact h.placeFor _ _ _
  · exact (h.commit p ‹_›).placeFor _ _ _
  · exact h.setDisp _ _ _ _

theorem planOne (h : Keeps b s t) (p : PortId) (cue : Nat) : Keeps b s (planOne p cue t) := by
  unfold Machine.planOne
  split
  · exact h
  · dsimp only
    repeat' split
    all_goals first
      | exact h
      | exact h.setDisp _ _ _ _
      | exact h.coverBy _ _ _ _
      | exact h.planPaused _ _ _
      | exact (h.setDisp _ _ _ _).enterReady p _

theorem replan (h : Keeps b s t) (p : PortId) : Keeps b s (replan p t) := by
  unfold Machine.replan
  exact h.forEach _ _ fun _ _ g => g.planOne p _

theorem undoReservation (h : Keeps b s t) (p : PortId) : Keeps b s (undoReservation p t) := by
  unfold Machine.undoReservation
  split
  · exact ((h.withdraw p).replan p).settleCommitment p
  · exact h

theorem reneed (h : Keeps b s t) (cue : Nat) (p : PortId) : Keeps b s (reneed cue p t) := by
  unfold Machine.reneed
  repeat' split
  · exact h
  · exact (h.sameWindow _ ‹_›).replan p
  · exact h.releaseResv p
  · exact h

theorem lossOfNeed (h : Keeps b s t) (cue : Nat) : Keeps b s (lossOfNeed cue t) := by
  unfold Machine.lossOfNeed
  exact h.forEach _ _ fun p _ g => g.reneed cue p

theorem planCue (h : Keeps b s t) (cue : Nat) : Keeps b s (planCue cue t) := by
  unfold Machine.planCue
  split
  · exact h.forEach _ _ fun p _ g => g.planOne p cue
  · exact h

theorem placeAsap (h : Keeps b s t) (p : PortId) : Keeps b s (placeAsap p t) := by
  unfold Machine.placeAsap
  repeat' split
  · exact h.place p _ (fits_searchUp ‹_›)
  · exact h
  · exact h

theorem exclude (h : Keeps b s t) (p : PortId) (d : Disp) : Keeps b s (exclude p d t) := by
  unfold Machine.exclude
  exact h.forEach _ _ fun _ _ g => g.setDisp _ _ _ _

theorem startDeepWake (h : Keeps b s t) (p : PortId) (r : Reservation) : Keeps b s (startDeepWake p r t) := by
  unfold Machine.startDeepWake
  exact (h.modPort p _ fun _ ok => removeJobs_ok _ ok).setPower p _

theorem startResume (h : Keeps b s t) (p : PortId) (f : Forecast) : Keeps b s (startResume p f t) := by
  unfold Machine.startResume
  split
  · exact h
  · refine Keeps.setPower ?_ p _
    refine h.modPort p _ (fun c ok => ?_) fun c => figures_removeJobs c _
    have g : (c.removeJobs Job.isPowerMode).Ok := removeJobs_ok _ ok
    exact g.of_eq rfl rfl
  · exact h

/-! ## Ends of cues, FAULT and VACANT -/

theorem reportCue (h : Keeps b s t) (id : Nat) : Keeps b s (reportCue id t) := by
  unfold Machine.reportCue
  repeat' split
  · exact (h.addReport _ ‹_›).removeCue id
  · exact h.modCue _ _
  · exact h

theorem finishCue (h : Keeps b s t) (id : Nat) : Keeps b s (finishCue id t) := by
  unfold Machine.finishCue
  exact (h.modCue _ _).reportCue id

theorem confirmEnd (h : Keeps b s t) (id : Nat) : Keeps b s (confirmEnd id t) := by
  unfold Machine.confirmEnd
  repeat' split
  · exact h.finishCue id
  · exact h
  · exact h

theorem restAfter (h : Keeps b s t) (cue : Nat) (p : PortId) : Keeps b s (restAfter cue p t) := by
  unfold Machine.restAfter
  repeat' split
  · exact h.startRest p
  · exact (h.dropHold cue p).startRest p
  · exact h
  · exact h

theorem recordLossIn (h : Keeps b s t) (p : PortId) (d : Disp) (o : CamOutcome) (c : Cue) :
    Keeps b s (recordLossIn p d o c t) := by
  unfold Machine.recordLossIn
  repeat' split
  · exact h
  · exact h.modCue _ _
  · exact h.modCue _ _
  · exact h.modCue _ _
  · exact h.modCue _ _
  · exact (h.modCue _ _).confirmEnd _
  · exact h
  · exact h

theorem recordLoss (h : Keeps b s t) (p : PortId) (d : Disp) (o : CamOutcome) : Keeps b s (recordLoss p d o t) := by
  unfold Machine.recordLoss
  exact h.forEach _ _ fun c _ g => g.recordLossIn p d o c

theorem refuseQueued (h : Keeps b s t) (p : PortId) : Keeps b s (refuseQueued p t) := by
  unfold Machine.refuseQueued
  exact h.forEach _ _ fun j _ g => g.answerBadState j

theorem enterFault (h : Keeps b s t) (p : PortId) (x : FaultCause) : Keeps b s (enterFault p x t) := by
  unfold Machine.enterFault
  exact (((((((h.refuseQueued p).modPort p _ fun _ ok => faultJobs_ok ok).modFigures p _ fun w => within_modPort w le_rfl
    (.inl rfl)).setPower p _).clearEntries p).setOffload p
    _).modPort p _ fun _ ok => serveRoom_ok ok).recordLoss p _ _

/-! ## Pauses by state -/

theorem takePause (h : Keeps b s t) (p : PortId) (ps : Pause) : Keeps b s (takePause p ps t) := by
  unfold Machine.takePause
  split
  · exact h.pauseReady p _
  · exact h.mod p _
  · exact h.mod p _
  · exact h.mod p _
  · split
    · exact (h.enterDeep p).undoReservation p
    · exact h
  · split
    · exact (h.enterDoze p).undoReservation p
    · exact (h.enterDeep p).undoReservation p
    · exact h
  · exact h
  · exact h
  · exact h

theorem thermalProtect (h : Keeps b s t) (p : PortId) : Keeps b s (thermalProtect p t) := by
  unfold Machine.thermalProtect
  dsimp only
  have g := (h.releaseUnstarted p).exclude p .thermal
  repeat' split
  all_goals first
    | exact g
    | exact g.takePause p _

theorem thermalRead (h : Keeps b s t) (p : PortId) (v : Byte) : Keeps b s (thermalRead p v t) := by
  have step (u : State) (hu : Keeps b s u) : Keeps b s (u.modPort p ({ · with grade := some (thermalGrade v) })) :=
    hu.mod p _
  have flag : Keeps b s (if (t.port p).grade != some (thermalGrade v) || thermalChanged v then Machine.setGradeChanged p t
      else t) := by
    split
    · exact h.setGradeChanged p
    · exact h
  unfold Machine.thermalRead
  dsimp only
  generalize (if (t.port p).grade != some (thermalGrade v) || thermalChanged v then Machine.setGradeChanged p t
      else t) = u at flag
  have g := step u flag
  repeat' split
  · exact g.thermalProtect p
  · exact g.replan p
  · exact g

theorem powerModeFailed (h : Keeps b s t) (p : PortId) (x : Target) : Keeps b s (powerModeFailed p x t) := by
  unfold Machine.powerModeFailed
  repeat' split
  · exact ((h.enterReady p true).addAbandoned p).undoReservation p
  · exact ((h.commit p ‹_›).enterReady p true).addAbandoned p
  · exact h.enterDeep p
  · exact h

theorem endRestore (h : Keeps b s t) (p : PortId) : Keeps b s (endRestore p t) := by
  unfold Machine.endRestore
  repeat' split
  · exact h.mod p _
  · exact h.wakeDone p
  · exact h
  · exact h

theorem dropOrder (h : Keeps b s t) (p : PortId) : Keeps b s (dropOrder p t) := by
  unfold Machine.dropOrder
  exact h.mod p _

theorem identityChange (h : Keeps b s t) (p : PortId) : Keeps b s (identityChange p t) := by
  unfold Machine.identityChange
  exact (((((((h.releaseUnstarted p).clearEntries p).dropOrder p).markPort p).loseSettings p).replan p).endRestore p)

theorem loseIdentity (h : Keeps b s t) (p : PortId) : Keeps b s (loseIdentity p t) := by
  unfold Machine.loseIdentity
  exact (((((((h.addConflict p).mod p _).releaseUnstarted p).clearEntries p).dropOrder p).markPort p).endRestore p)

end Keeps

end Sys2Proof.Machine
end

