-- ==== Sys2Proof/Laws/Tables.lean ====
section
/-! SUPPORT. The identity table: when a write keeps identities and bindings unique (R53), what the searches over positions find,
and what learning, conflicts and removals do to it (R56–R58). -/

namespace Sys2Proof.Machine

set_option Elab.async false

/-- Every position is searched. -/
theorem mem_allPositions (k : Position) : k ∈ allPositions := by revert k; decide

/-- A position written with an entry that shares neither identity nor port with another keeps the table unique. -/
theorem unique_set {t : Vector (Option IdEntry) 32} (h : TableUnique t) (k : Position) (e : Option IdEntry)
    (he : ∀ a, e = some a → ∀ j : Position, j ≠ k → ∀ x, t[j] = some x →
      a.ident ≠ x.ident ∧ ∀ p : PortId, a.bound = some p → x.bound ≠ some p) :
    TableUnique (t.set k.val e k.isLt) := by
  intro i j hij a c ha hc
  simp only [Fin.getElem_fin, Vector.getElem_set] at ha hc
  by_cases hi : k.val = i.val
  · have hk : k = i := Fin.ext hi
    have hj : ¬ k.val = j.val := fun e => hij (hk.symm.trans (Fin.ext e))
    rw [if_pos hi] at ha
    rw [if_neg hj] at hc
    exact he a ha j (fun e => hij (hk.symm.trans e.symm)) c hc
  · rw [if_neg hi] at ha
    by_cases hj : k.val = j.val
    · rw [if_pos hj] at hc
      have := he c hc i (fun e => hi (congrArg Fin.val e.symm)) a ha
      exact ⟨this.1.symm, fun p hp hq => this.2 p hq hp⟩
    · rw [if_neg hj] at hc
      exact h i j hij a c ha hc

/-- Removing an entry keeps the table unique. -/
theorem unique_none {t : Vector (Option IdEntry) 32} (h : TableUnique t) (k : Position) :
    TableUnique (t.set k.val none k.isLt) :=
  unique_set h k none (by simp)

/-- Changing an entry in place, with its identity kept and its binding kept or removed, keeps the table unique. -/
theorem unique_change {t : Vector (Option IdEntry) 32} (h : TableUnique t) (k : Position) (f : IdEntry → IdEntry)
    (hi : ∀ e, (f e).ident = e.ident) (hb : ∀ e, (f e).bound = e.bound ∨ (f e).bound = none) :
    TableUnique (t.set k.val (t[k].map f) k.isLt) := by
  refine unique_set h k _ fun a ha j hj x hx => ?_
  obtain ⟨e, he, rfl⟩ := Option.map_eq_some_iff.mp ha
  have g := h k j hj.symm e x he hx
  rw [hi]
  refine ⟨g.1, fun p hp => ?_⟩
  rcases hb e with hb | hb
  · exact g.2 p (hb ▸ hp)
  · simp [hb] at hp

/-- Changing every entry, with identities and bindings kept, keeps the table unique. -/
theorem unique_map {t : Vector (Option IdEntry) 32} (h : TableUnique t) (f : IdEntry → IdEntry)
    (hi : ∀ e, (f e).ident = e.ident) (hb : ∀ e, (f e).bound = e.bound) : TableUnique (t.map (Option.map f)) := by
  intro i j hij a c ha hc
  simp only [Fin.getElem_fin, Vector.getElem_map, Option.map_eq_some_iff] at ha hc
  obtain ⟨a', ha', rfl⟩ := ha
  obtain ⟨c', hc', rfl⟩ := hc
  rw [hi, hi, hb, hb]
  exact h i j hij a' c' ha' hc'

/-- An empty table is unique. -/
theorem unique_empty : TableUnique (Vector.replicate 32 none) := by
  intro i j _ a _ ha
  simp at ha

/-! ## Searches -/

/-- The position found for an identity holds its entry. -/
theorem posOf_some {s : State} {x : Ident} {k : Position} (h : s.posOf x = some k) :
    ∃ e, s.entryAt k = some e ∧ e.ident = x := by
  have := List.find?_some h
  revert this
  cases hk : s.entryAt k with
  | none => simp
  | some e => intro g; exact ⟨e, rfl, by simpa using g⟩

/-- No position found: no entry has the identity. -/
theorem posOf_none {s : State} {x : Ident} (h : s.posOf x = none) (k : Position) (e : IdEntry)
    (hk : s.entryAt k = some e) : e.ident ≠ x := by
  have := List.find?_eq_none.mp h k (mem_allPositions k)
  simpa [hk] using this

/-- The position found for a port holds an entry bound to it. -/
theorem boundPos_some {s : State} {p : PortId} {k : Position} (h : s.boundPos p = some k) :
    ∃ e, s.entryAt k = some e ∧ e.bound = some p := by
  have := List.find?_some h
  revert this
  cases hk : s.entryAt k with
  | none => simp
  | some e => intro g; exact ⟨e, rfl, by simpa using g⟩

/-- No position found: no entry is bound to the port. -/
theorem boundPos_none {s : State} {p : PortId} (h : s.boundPos p = none) (k : Position) (e : IdEntry)
    (hk : s.entryAt k = some e) : e.bound ≠ some p := by
  have := List.find?_eq_none.mp h k (mem_allPositions k)
  simpa [hk] using this

namespace Keeps

variable {b : Bool} {s t : State}

/-- A position of the identity table is written so that it stays unique. -/
theorem setEntry (h : Keeps b s t) (k : Position) (e : Option IdEntry)
    (hu : TableUnique s.table → TableUnique t.table → TableUnique (t.setEntry k e).table) :
    Keeps false s (t.setEntry k e) :=
  ⟨h.still, h.line, h.cues, h.ports, h.adv, h.events, h.reports, h.holder, h.budgets, by simp,
    fun u => hu u (h.unique u)⟩

/-- An entry is changed in place, its identity kept and its binding kept or removed. -/
theorem changeEntry (h : Keeps b s t) (k : Position) (f : IdEntry → IdEntry)
    (hi : ∀ e, (f e).ident = e.ident) (hb : ∀ e, (f e).bound = e.bound ∨ (f e).bound = none) :
    Keeps false s (t.setEntry k ((t.entryAt k).map f)) :=
  h.setEntry k _ fun _ u => unique_change u k f hi hb

theorem removeEntry (h : Keeps b s t) (k : Position) : Keeps false s (removeEntry k t) := by
  unfold Machine.removeEntry
  have g := h.setEntry k none fun _ u => unique_none u k
  split
  · dsimp only
    split
    · exact (g.markPort _).endRestore _
    · exact g
  · exact h.loose

theorem unbindPort (h : Keeps b s t) (p : PortId) : Keeps false s (unbindPort p t) := by
  unfold Machine.unbindPort
  split
  · exact h.changeEntry _ _ (fun _ => rfl) (fun _ => Or.inr rfl)
  · exact h.loose

theorem writeThrough (h : Keeps b s t) (p : PortId) (pr : Pair) (ok : Bool) : Keeps false s (writeThrough p pr ok t) := by
  unfold Machine.writeThrough
  dsimp only
  have g := h.dropEntry p pr.attr
  split
  · split
    · exact g.changeEntry _ _ (fun _ => rfl) (fun _ => Or.inl rfl)
    · exact g.loose
  · exact g.loose

/-! ## Learning (R56, R57) -/

theorem leaveOther (h : Keeps b s t) (p : PortId) (x : Ident) : Keeps false s (leaveOther p x t) := by
  unfold Machine.leaveOther
  split
  · rename_i k _
    split
    · rename_i e he
      split
      · split
        · exact h.loose
        · have : t.setEntry k (some { e with bound := none }) =
              t.setEntry k ((t.entryAt k).map ({ · with bound := none })) := by rw [he]; rfl
          rw [this]
          exact (h.changeEntry k ({ · with bound := none }) (fun _ => rfl) (fun _ => Or.inr rfl)).loseIdentity _
      · exact h.loose
    · exact h.loose
  · exact h.loose

theorem leaveHere (h : Keeps b s t) (p : PortId) (x : Ident) : Keeps false s (leaveHere p x t) := by
  unfold Machine.leaveHere
  split
  · refine h.changeEntry _ _ (fun e => ?_) (fun e => ?_)
    · split <;> rfl
    · split
      · exact Or.inl rfl
      · exact Or.inr rfl
  · exact h.loose

/-- After step 2 of R56, an entry bound to the port is the identity's. -/
theorem bound_leaveHere (hu : TableUnique t.table) (p : PortId) (x : Ident) (k : Position) (e : IdEntry)
    (hk : (Machine.leaveHere p x t).entryAt k = some e) (hb : e.bound = some p) : e.ident = x := by
  unfold Machine.leaveHere at hk
  split at hk
  · rename_i j hj
    obtain ⟨a, ha, hab⟩ := boundPos_some hj
    by_cases hjk : j = k
    · subst hjk
      rw [entryAt_setEntry_self, ha] at hk
      simp only [Option.map_some, Option.some.injEq] at hk
      subst hk
      by_cases hx : a.ident = x
      · simp [hx]
      · simp [hx] at hb
    · rw [entryAt_setEntry_ne hjk] at hk
      exact absurd hb ((hu j k hjk a e ha hk).2 p hab)
  · rename_i hj
    exact absurd hb (boundPos_none hj k e hk)

/-- Steps 3 and 4 of R56: the identity is bound to a port no other entry is bound to. -/
theorem bindTo (h : Keeps b s t) (p : PortId) (x : Ident) (f : Profile)
    (hb : TableUnique s.table → ∀ k e, t.entryAt k = some e → e.bound = some p → e.ident = x) :
    Keeps false s (bindTo p x f t) := by
  unfold Machine.bindTo
  dsimp only
  split
  · rename_i k hk
    obtain ⟨e, he, hx⟩ := posOf_some hk
    rw [he]
    refine Keeps.mod (h.setEntry k _ fun us u => unique_set u k _ ?_) p _
    intro a ha j hj c hc
    simp only [Option.some.injEq] at ha
    subst ha
    have g := u k j hj.symm e c he hc
    refine ⟨g.1, fun q hq hcq => ?_⟩
    have : q = p := by simpa using hq.symm
    subst this
    exact g.1 (hx.trans (hb us j c hc hcq).symm)
  · rename_i hk
    split
    · rename_i k _
      refine Keeps.mod (h.setEntry k _ fun us u => unique_set u k _ ?_) p _
      intro a ha j _ c hc
      simp only [Option.some.injEq] at ha
      subst ha
      have g := posOf_none hk j c hc
      refine ⟨g.symm, fun q hq hcq => ?_⟩
      have : q = p := by simpa using hq.symm
      subst this
      exact g (hb us j c hc hcq)
    · exact h.loose.mod p _

theorem identifyDone (h : Keeps b s t) (p : PortId) (x : Ident) (f : Profile) : Keeps false s (identifyDone p x f t) := by
  have o := h.leaveOther p x
  have g := ((o.leaveHere p x).bindTo p x f fun u k e hk hb => bound_leaveHere (o.unique u) p x k e hk hb).mod p
    ({ · with conflict := false, rescan := false })
  unfold Machine.identifyDone Machine.unbindOthers
  dsimp only
  split
  · exact g.identityChange p
  · exact g

theorem removeAged (h : Keeps b s t) : Keeps false s (removeAged t) := by
  unfold Machine.removeAged
  refine h.loose.forEach _ _ fun k u g => ?_
  repeat' split
  · exact g.removeEntry k
  · exact g
  · exact g

/-! ## Entry to VACANT and presence (R4, R5) -/

theorem enterVacant (h : Keeps b s t) (p : PortId) : Keeps false s (enterVacant p t) := by
  unfold Machine.enterVacant
  dsimp only
  refine Keeps.recordLoss (Keeps.setMediaFull (Keeps.setOffload (Keeps.setHostPause ?_ p _) p _) p _) p _ _
  refine Keeps.setPower (Keeps.clearEntries (Keeps.unbindPort (b := b) ?_ p) p) p _
  exact (h.forEach _ _ fun j _ g => g.answerBadState j).modFigures p _
    (fun w => within_modPort w le_rfl (.inl rfl)) fun _ _ => clearForVacant_ok

theorem presenceRise (h : Keeps b s t) (p : PortId) : Keeps b s (presenceRise p t) := by
  unfold Machine.presenceRise
  split
  · dsimp only
    refine Keeps.modPort (Keeps.enterDeep ?_ p) p _ fun _ ok => testPoll_ok (oweIdentify_ok ok)
    exact h.modPort p _ fun c ok => ⟨ok.1, by simp, ok.2.2⟩
  · exact h

theorem presenceFall (h : Keeps b s t) (p : PortId) : Keeps false s (presenceFall p t) := by
  unfold Machine.presenceFall
  split
  · exact h.loose
  · exact h.enterVacant p

end Keeps

end Sys2Proof.Machine
end

