-- ==== Sys2Proof/Laws/Lanes.lean ====
section
/-! SUPPORT. What the event filter, the lanes, the cue list and the fire unit can do to the rest of the machine (`Keeps`), and the end
of a step. -/

namespace Sys2Proof.Machine

set_option Elab.async false

namespace Keeps

variable {b : Bool} {s t : State}

/-! ## Events (R160–R173) -/

theorem offerEvent (h : Keeps b s t) (e : EventRec) : Keeps b s (offerEvent e t) := by
  unfold Machine.offerEvent
  split
  · unfold Machine.enqueueEvent
    dsimp only
    split
    · exact (h.addEvent e ‹_›).handEventsWaiting
    · exact h.addEvent e ‹_›
  · exact h.mod _ _

theorem takeShot (h : Keeps b s t) (p : PortId) : Keeps b s (takeShot p t) := by
  unfold Machine.takeShot
  split
  · exact (h.modCue _ _).confirmEnd _
  · exact h

theorem eventEffect (h : Keeps b s t) (p : PortId) (k : EventKind) : Keeps b s (eventEffect p k t) := by
  unfold Machine.eventEffect
  split
  · refine h.modPort p _ (fun c ok => ?_) fun c => ?_
    · dsimp only
      split
      · exact ok.of_eq rfl rfl
      · exact oweIdentify_ok (ok.of_eq rfl rfl)
    · dsimp only
      split
      · rfl
      · exact figures_oweIdentify _
  · exact h.takeShot p
  · split
    · exact h.setOffload p _
    · exact h
  · split
    · exact (h.setOffload p _).pausingEvent p
    · exact h
  · exact h.setMediaFull p _
  · exact h.setMediaFull p _
  · exact h
  · exact h
  · split
    · exact h
    · exact h.modPort p _ fun _ ok => oweThermal_ok ok

theorem takeEvent (h : Keeps b s t) (p : PortId) (k : EventKind) (d : Byte) : Keeps b s (takeEvent p k d t) := by
  unfold Machine.takeEvent
  dsimp only
  split
  · exact (h.eventEffect p k).offerEvent _
  · exact h.eventEffect p k

theorem refillEvents (h : Keeps b s t) (n : Nat) : Keeps b s (refillEvents n t) := by
  induction n generalizing t with
  | zero => exact h
  | succ n ih =>
    unfold Machine.refillEvents
    split
    · split
      · split
        · exact ih ((h.addEvent _ ‹_›).modPort _ _ fun c ok => testPoll_ok (ok.of_eq rfl rfl))
        · exact h
      · exact h
    · exact h

/-! ## Lanes (R30–R52) -/

theorem prepEnd (h : Keeps b s t) (cue : Nat) (p : PortId) (ok : Bool) : Keeps b s (prepEnd cue p ok t) := by
  unfold Machine.prepEnd
  repeat' split
  all_goals first
    | exact h
    | exact h.setPrep _ _ _

theorem returnOrder (h : Keeps b s t) (p : PortId) (o : Order) : Keeps b s (returnOrder p o t) := by
  unfold Machine.returnOrder
  split
  · exact h.mod p _
  · exact h

theorem startCheckFailed (h : Keeps b s t) (p : PortId) (j : Job) : Keeps b s (startCheckFailed p j t) := by
  unfold Machine.startCheckFailed
  split
  · exact h.giveAnswer _ _
  · exact h.giveAnswer _ _
  · exact h.prepEnd _ _ _
  · exact h.returnOrder _ _
  all_goals exact h

theorem startWaitingResume (h : Keeps b s t) (p : PortId) : Keeps b s (startWaitingResume p t) := by
  unfold Machine.startWaitingResume
  split
  · exact h.startResume p _
  · exact h

/-- A job ends, whatever its result may do. -/
theorem jobEnd {b' : Bool} (h : Keeps b s t) (p : PortId) (j : Job) (result : State → State)
    (hr : ∀ u, Keeps b s u → Keeps b' s (result u)) : Keeps b' s (jobEnd p j result t) := by
  have g := (hr _ (h.modPort p (fun c => { c with queue := c.queue.tail }) fun c ok => ok.fewer (by simp) rfl
    fun _ => List.mem_of_mem_tail)).modPort p Port.serveRoom fun _ ok => serveRoom_ok ok
  unfold Machine.jobEnd
  dsimp only
  generalize (result (t.modPort p fun c => { c with queue := c.queue.tail })).modPort p Port.serveRoom = u at g ⊢
  have g1 : Keeps b' s (if j.holdsPause then Machine.pausingEvent p u else u) := by
    split
    · exact g.pausingEvent p
    · exact g
  generalize (if j.holdsPause then Machine.pausingEvent p u else u) = v at g1 ⊢
  have g2 : Keeps b' s (if j.isPowerMode && j.started then Machine.startWaitingResume p v else v) := by
    split
    · exact g1.startWaitingResume p
    · exact g1
  generalize (if j.isPowerMode && j.started then Machine.startWaitingResume p v else v) = w at g2 ⊢
  split
  · exact g2.modPort p _ fun _ ok => testPoll_ok ok
  · exact g2

theorem setLane (h : Keeps b s t) (p : PortId) (e : Option Exchange) : Keeps b s (setLane p e t) := by
  unfold Machine.setLane
  exact h.mod p _

theorem clearOwed (h : Keeps b s t) (p : PortId) : Keeps b s (clearOwed p t) := by
  unfold Machine.clearOwed
  split
  · exact h.mod p _
  · exact h

theorem markStarted (h : Keeps b s t) (p : PortId) : Keeps b s (markStarted p t) := by
  unfold Machine.markStarted
  refine h.modPort p _ fun c ok => ?_
  split
  · rename_i hq
    exact ok.fewer (by simp [hq]) rfl (by simp [hq])
  · exact ok

theorem chooseNext (h : Keeps b s t) (p : PortId) (n : Nat) : Keeps b s (chooseNext p n t) := by
  induction n generalizing t with
  | zero => exact h
  | succ n ih =>
    unfold Machine.chooseNext
    dsimp only
    split
    · exact h
    · split
      · exact (h.clearOwed p).setLane p _
      · split
        · exact h
        · split
          · split
            · exact ih (h.jobEnd p _ id fun _ g => g)
            · exact h.setLane p _
          · split
            · exact (h.markStarted p).setLane p _
            · exact ih (h.jobEnd p _ _ fun _ g => g.startCheckFailed p _)

/-- The choice of a lane. -/
theorem kick (h : Keeps b s t) (p : PortId) : Keeps b s (kick p t) := by
  unfold Machine.kick
  exact h.chooseNext p _

theorem setPhase (h : Keeps b s t) (p : PortId) (ph : Phase) (o : Option WakeEx) : Keeps b s (setPhase p ph o t) := by
  unfold Machine.setPhase
  split
  · exact h.mod p _
  · exact h

theorem beginCalibrate (h : Keeps b s t) (p : PortId) : Keeps b s (beginCalibrate p t) := by
  unfold Machine.beginCalibrate
  exact h.setPhase _ _ _

theorem beginInitWait (h : Keeps b s t) (p : PortId) (r : Nat) : Keeps b s (beginInitWait p r t) := by
  unfold Machine.beginInitWait
  exact h.setPhase _ _ _

theorem beginRestore (h : Keeps b s t) (p : PortId) : Keeps b s (beginRestore p t) := by
  unfold Machine.beginRestore
  split
  · exact h.wakeDone p
  · exact h.setPhase _ _ _

theorem resumeNotReady (h : Keeps b s t) (p : PortId) (n : Nat) : Keeps b s (resumeNotReady p n t) := by
  unfold Machine.resumeNotReady
  split
  · exact h.setPhase _ _ _
  · exact h.enterFault p _

theorem wakeSuccess (h : Keeps b s t) (p : PortId) (e : WakeEx) (d : Byte) : Keeps b s (wakeSuccess p e d t) := by
  unfold Machine.wakeSuccess
  split
  · split
    · exact h.beginInitWait p _
    · exact h.setPhase _ _ _
    · split
      · exact h.beginCalibrate p
      · exact h
    · exact h.setPhase _ _ _
    · exact h.setPhase _ _ _
    · exact h.wakeDone p
    · split
      · exact h.wakeDone p
      · exact h.resumeNotReady p _
    · exact h
  · exact h

theorem wakeFailure (h : Keeps b s t) (p : PortId) (e : WakeEx) : Keeps b s (wakeFailure p e t) := by
  unfold Machine.wakeFailure
  split
  · split
    · exact h.enterFault p _
    · exact h.enterFault p _
    · exact h.enterFault p _
    · exact h.resumeNotReady p _
    · exact h
  · exact h

theorem recordWrite (h : Keeps b s t) (p : PortId) (pr : Pair) (ok : Bool) (l : Nat) :
    Keeps b s (recordWrite p pr ok l t) := by
  unfold Machine.recordWrite
  split
  · exact h
  · exact h.appendEntry _ _ _ _

theorem setHead (h : Keeps b s t) (p : PortId) (k : JobKind) : Keeps b s (setHead p k t) := by
  unfold Machine.setHead
  refine h.modPort p _ fun c ok => ?_
  split
  · rename_i hq
    exact ok.fewer (by simp [hq]) rfl (by simp [hq])
  · exact ok

theorem pingEnd (h : Keeps b s t) (p : PortId) : Keeps b s (pingEnd p t) := by
  unfold Machine.pingEnd
  dsimp only
  split
  · split
    · exact h.startKeepwarm p
    · exact (h.startKeepwarm p).undoReservation p
  · exact h

theorem pollResult (h : Keeps b s t) (p : PortId) (st d : Byte) : Keeps b s (pollResult p st d t) := by
  unfold Machine.pollResult
  dsimp only
  have g := h.mod p ({ · with resync := false })
  split
  · split
    · exact (g.mod p _).takeEvent p _ d
    · exact g
  · exact g

theorem jobSuccess (h : Keeps b s t) (p : PortId) (j : Job) (st d : Byte) : Keeps false s (jobSuccess p j st d t) := by
  unfold Machine.jobSuccess
  split
  · exact h.loose.jobEnd p j _ fun u g => (Keeps.ite (g.thermalRead p d) g).giveAnswer _ _
  · exact h.loose.jobEnd p j _ fun u g => g.giveAnswer _ _
  · split
    · exact h.loose.jobEnd p j _ fun _ g => g
    · refine Keeps.ite ?_ (Keeps.ite ?_ ?_)
      · exact Keeps.jobEnd (Keeps.ite (h.loose.recordWrite _ _ _ _) h.loose) p j _ fun _ g => g
      · exact Keeps.jobEnd (Keeps.ite (h.loose.recordWrite _ _ _ _) h.loose) p j _ fun _ g => g.prepEnd _ _ _
      · exact Keeps.setHead (Keeps.ite (h.loose.recordWrite _ _ _ _) h.loose) p _
  · split
    · exact h.loose.jobEnd p j _ fun _ g => g
    · refine Keeps.ite ?_ ?_
      · exact Keeps.jobEnd (Keeps.ite h.loose (h.loose.recordWrite _ _ _ _)) p j _ fun _ g => g
      · exact Keeps.setHead (Keeps.ite h.loose (h.loose.recordWrite _ _ _ _)) p _
  · refine Keeps.ite ?_ (Keeps.ite ?_ ?_)
    · refine h.jobEnd p j _ fun u g => ?_
      unfold identifyResult
      exact g.identifyDone p _ _
    · exact h.loose.jobEnd p j _ fun _ g => g
    · exact h.loose.setHead p _
  · exact h.loose.jobEnd p j _ fun _ g => g.pollResult p st d
  · exact h.loose.jobEnd p j _ fun _ g => g.thermalRead p d
  · exact h.loose.jobEnd p j _ fun _ g => (g.thermalRead p d).pingEnd p
  · exact h.loose.jobEnd p j _ fun _ g => g

theorem jobFailure (h : Keeps b s t) (p : PortId) (j : Job) : Keeps b s (jobFailure p j t) := by
  unfold Machine.jobFailure
  split
  · exact h.jobEnd p j _ fun u g => g.giveAnswer _ _
  · exact h.jobEnd p j _ fun u g => g.giveAnswer _ _
  · split
    · exact h.jobEnd p j _ fun _ g => g
    · refine Keeps.jobEnd (Keeps.ite (h.recordWrite _ _ _ _) h) p j _ fun v k => ?_
      split
      · exact k
      · exact k.prepEnd _ _ _
  · split
    · exact h.jobEnd p j _ fun _ g => g
    · refine Keeps.ite ?_ ?_
      · exact Keeps.jobEnd (Keeps.ite h (h.recordWrite _ _ _ _)) p j _ fun _ g => g
      · exact Keeps.setHead (Keeps.ite h (h.recordWrite _ _ _ _)) p _
  · exact h.jobEnd p j _ fun u g => Keeps.ite g (g.modPort p _ fun _ ok => oweIdentify_ok ok)
  · exact h.jobEnd p j _ fun _ g => g
  · exact h.jobEnd p j _ fun _ g => g
  · exact h.jobEnd p j _ fun _ g => g.pingEnd p
  · exact h.jobEnd p j _ fun _ g => g.powerModeFailed p _

theorem withHead (h : Keeps b s t) (p : PortId) (f : Job → State → State)
    (hf : ∀ j, Keeps false s (f j t)) : Keeps false s (withHead p f t) := by
  unfold Machine.withHead
  split
  · split
    · exact hf _
    · exact h.loose
  · exact h.loose

theorem clearRun (h : Keeps b s t) (p : PortId) : Keeps b s (t.modPort p Port.runCleared) := by
  refine h.modPort p _ (fun c ok => ?_) fun c => ?_
  · unfold Port.runCleared
    split
    · exact ok
    · exact ⟨ok.1, by simp, ok.2.2⟩
  · unfold Port.runCleared
    split <;> rfl

theorem exchangeSuccess (h : Keeps b s t) (p : PortId) (e : Exchange) (st d : Byte) :
    Keeps false s (exchangeSuccess p e st d t) := by
  have g := h.setLane p none
  have k := g.clearRun p
  have w : Keeps false s (if e.throughPart then Machine.writeThrough p ⟨e.attr, e.data⟩ true
      ((Machine.setLane p none t).modPort p Port.runCleared) else (Machine.setLane p none t).modPort p Port.runCleared) := by
    split
    · exact k.writeThrough p _ _
    · exact k.loose
  unfold Machine.exchangeSuccess
  dsimp only
  split
  · exact g.loose
  · exact w.wakeSuccess p _ d
  · exact w.withHead p _ fun j => w.jobSuccess p j st d

theorem countFailure (h : Keeps b s t) (p : PortId) : Keeps b s (countFailure p t) := by
  have g := h.modPort p (fun c => { c with
    run := min 3 (c.run + 1), grade := none, reading := if c.power.railOn then none else c.reading })
    fun c ok => ⟨ok.1, by simp, ok.2.2⟩
  unfold Machine.countFailure
  dsimp only
  generalize t.modPort p (fun c => { c with
    run := min 3 (c.run + 1), grade := none, reading := if c.power.railOn then none else c.reading }) = u at g
  have g1 : Keeps b s (if (t.port p).grade.isNone then u else Machine.setGradeChanged p u) := by
    split
    · exact g
    · exact g.setGradeChanged p
  generalize (if (t.port p).grade.isNone then u else Machine.setGradeChanged p u) = v at g1
  have g2 : Keeps b s (if (v.port p).run = 3 && !(v.port p).power.isLost then Machine.enterFault p .laneLost v else v) := by
    split
    · exact g1.enterFault p _
    · exact g1
  generalize (if (v.port p).run = 3 && !(v.port p).power.isLost then Machine.enterFault p .laneLost v else v) = w at g2
  split
  · exact g2
  · exact g2.modPort p _ fun _ ok => oweThermal_ok ok

theorem exchangeFailure (h : Keeps b s t) (p : PortId) (e : Exchange) : Keeps false s (exchangeFailure p e t) := by
  have g := (h.countFailure p).setLane p none
  have w : Keeps false s (if e.throughPart then Machine.writeThrough p ⟨e.attr, e.data⟩ false
      (Machine.setLane p none (Machine.countFailure p t)) else Machine.setLane p none (Machine.countFailure p t)) := by
    split
    · exact g.writeThrough p _ _
    · exact g.loose
  unfold Machine.exchangeFailure
  dsimp only
  split
  · exact h.loose.setLane p none
  · exact w.wakeFailure p _
  · exact w.withHead p _ fun j => w.jobFailure p j

theorem attemptFailed (h : Keeps b s t) (p : PortId) (e : Exchange) : Keeps false s (attemptFailed p e t) := by
  unfold Machine.attemptFailed
  split
  · exact h.exchangeFailure p e
  · exact h.loose.setLane p _

/-! ## Cues and the fire unit -/

theorem setCueState (h : Keeps b s t) (id : Nat) (v : CueState) : Keeps b s (setCueState id v t) := by
  unfold Machine.setCueState
  exact h.modCue _ _

theorem startPreparation (h : Keeps b s t) (id : Nat) : Keeps b s (startPreparation id t) := by
  unfold Machine.startPreparation
  split
  · dsimp only
    split
    · exact (h.setCueState id _).modCue _ _
    · refine (h.setCueState id _).forEach _ _ fun p u g => ?_
      split
      · exact g.prepareMember _ p
      · exact g
  · exact h

theorem planAndEnter (h : Keeps b s t) (id : Nat) : Keeps b s (planAndEnter id t) := by
  have g := (h.planCue id).setCueState id .planned
  unfold Machine.planAndEnter
  dsimp only
  split
  · split
    · exact g.startPreparation id
    · exact g
  · exact g

theorem endPreps (h : Keeps b s t) (id : Nat) (p : PortId) : Keeps b s (endPreps id p t) := by
  have g := h.modPort p (fun c => (c.removeJobs (Job.isPrepOf id)).cutFlight (Job.isPrepOf id) false)
    fun c ok => cutFlight_ok _ _ (removeJobs_ok _ ok)
  unfold Machine.endPreps
  dsimp only
  split
  · exact g.pausingEvent p
  · exact g

/-- A grant: the unit has an owner and no lock (R146, R149). -/
theorem grantReq (h : Keeps b s t) (r : FireReq) : Keeps b s (grantReq r t) := by
  unfold Machine.grantReq
  split
  · dsimp only
    refine Keeps.lossOfNeed (Keeps.modCue (Keeps.forEach ?_ _ _ fun p _ g => g.setPower p _) _ _) _
    exact h.trans { Keeps.refl b t with holder := fun _ _ => rfl }
  · exact h.setWaiting _

theorem grantRule (h : Keeps b s t) : Keeps b s (grantRule t) := by
  unfold Machine.grantRule
  split
  · exact h.grantReq _
  · exact h

theorem requestArrives (h : Keeps b s t) (r : FireReq) : Keeps b s (requestArrives r t) := by
  unfold Machine.requestArrives
  split
  · exact h.grantReq r
  · exact h.setWaiting _

theorem closePreparation (h : Keeps b s t) (id : Nat) : Keeps b s (closePreparation id t) := by
  unfold Machine.closePreparation
  dsimp only
  split
  · exact ((h.modCue _ _).forEach _ _ fun p _ g => g.endPreps id p).requestArrives _
  · exact h.modCue _ _

theorem missCue (h : Keeps b s t) (id : Nat) : Keeps b s (missCue id t) := by
  unfold Machine.missCue
  dsimp only
  split
  · exact ((((h.setWaiting _).modCue _ _).forEach _ _ fun p _ g => g.restAfter id p).lossOfNeed id).finishCue id
  · exact h.setWaiting _

/-- The owner keeps the unit: one of its instants has passed. -/
theorem setOwner (h : Keeps b s t) (o : Owner) (ho : t.owner.isSome) : Keeps b s { t with owner := some o } :=
  h.trans { Keeps.refl b t with holder := fun g _ => g ho }

theorem releaseSequence (h : Keeps b s t) (o : Owner) (ho : t.owner.isSome) : Keeps b s (releaseSequence o t) := by
  unfold Machine.releaseSequence
  dsimp only
  refine Keeps.confirmEnd (Keeps.forEach (Keeps.modCue (Keeps.forEach (h.setOwner _ ho) _ _ fun p u g => ?_) _ _) _ _
    fun p u g => ?_) _
  · split
    · exact g.enterReady p _
    · exact g
  · exact (g.dropHold _ p).startRest p

/-- The unit has no owner. -/
theorem noOwner (h : Keeps b s t) (l : Option Lock) : Keeps b s { t with owner := none, lock := l } :=
  h.trans { Keeps.refl b t with holder := fun _ g => by simp at g }

/-- The unit has no lock. -/
theorem noLock (h : Keeps b s t) : Keeps b s { t with lock := none } :=
  h.trans { Keeps.refl b t with holder := fun _ _ => rfl }

theorem freeUnit (h : Keeps b s t) (o : Owner) : Keeps b s (freeUnit o t) := by
  unfold Machine.freeUnit
  exact (h.noOwner _).grantRule

theorem confirmExpired (h : Keeps b s t) (id : Nat) : Keeps b s (confirmExpired id t) := by
  unfold Machine.confirmExpired
  exact (h.modCue _ _).finishCue id

theorem cancelCue (h : Keeps b s t) (c : Cue) : Keeps b s (cancelCue c t) := by
  have g : Keeps b s (if c.state = .fireWait
      then Machine.grantRule { Machine.removeCue c.id t with
        waiting := (Machine.removeCue c.id t).waiting.filter (fun q => q.cue != c.id) }
      else Machine.removeCue c.id t) := by
    split
    · exact ((h.removeCue c.id).setWaiting _).grantRule
    · exact h.removeCue c.id
  unfold Machine.cancelCue
  dsimp only
  exact ((g.forEach _ _ fun p _ k => k.endPreps c.id p).lossOfNeed c.id).forEach _ _ fun p _ k => (k.dropHold c.id p).restAfter c.id p

/-! ## SETTLE and the end of a step -/

theorem endSettle (h : Keeps b s t) (st : StationId) (r : SettleReq) (v : Status) : Keeps b s (endSettle st r v t) := by
  unfold Machine.endSettle
  exact h.trans { Keeps.refl b t with }

theorem testSettle (h : Keeps b s t) (st : StationId) : Keeps b s (testSettle st t) := by
  unfold Machine.testSettle
  repeat' split
  · exact h.endSettle _ _ _
  · exact h
  · exact h

/-- The end of a step: the choice of every lane and the tests of the pending SETTLEs. -/
theorem finish (h : Keeps b s t) : Keeps b s (finish t) := by
  unfold Machine.finish kickAll
  exact (h.forEach _ _ fun p _ g => g.kick p).forEach _ _ fun st _ g => g.testSettle st

end Keeps

end Sys2Proof.Machine
end

