-- ==== Sys2Proof/Laws/Serves.lean ====
section
/-! SUPPORT. What a request can do to the machine, said once: the relation `Serves`, and one lemma for each request: at most one
entry joins the reply line, the commands that wait and the clock stay, every capacity, every rule of `Inv` and the budgets still
hold. -/

namespace Sys2Proof.Machine

set_option Elab.async false

/-- From s a request has reached t, with at most n entries more in the reply line. -/
structure Serves (n : Nat) (s t : State) : Prop where
  clock : t.clock = s.clock
  pending : t.pending = s.pending
  attached : t.attached = s.attached
  heldOut : t.heldOut = s.heldOut
  line : t.line.length ≤ s.line.length + n
  cues : s.cues.length ≤ 16 → t.cues.length ≤ 16
  ports : (∀ p, (s.port p).Ok) → ∀ p, (t.port p).Ok
  adv : s.adv.length ≤ 32 → t.adv.length ≤ 32
  events : s.events.length ≤ 64 → t.events.length ≤ 64
  reports : s.reports.length ≤ 16 → t.reports.length ≤ 16
  holder : OneHolder s → OneHolder t
  budgets : WithinBudgets s → WithinBudgets t
  unique : TableUnique s.table → TableUnique t.table

namespace Serves

variable {n : Nat} {b : Bool} {s t u : State}

theorem refl (s : State) : Serves 0 s s := ⟨rfl, rfl, rfl, rfl, le_rfl, id, id, id, id, id, id, id, id⟩

theorem trans {m : Nat} (h : Serves n s t) (g : Serves m t u) : Serves (n + m) s u :=
  ⟨g.clock.trans h.clock, g.pending.trans h.pending, g.attached.trans h.attached, g.heldOut.trans h.heldOut,
    by have := h.line; have := g.line; omega, g.cues ∘ h.cues, g.ports ∘ h.ports, g.adv ∘ h.adv, g.events ∘ h.events,
    g.reports ∘ h.reports, g.holder ∘ h.holder, g.budgets ∘ h.budgets, g.unique ∘ h.unique⟩

/-- What the operations of a block do is within what a request may do. -/
theorem of_keeps (h : Keeps b s t) : Serves 0 s t := by
  have g := h.still
  simp only [State.still, Prod.mk.injEq] at g
  exact ⟨g.1, by simp [g], by simp [g], by simp [g], h.line.le, h.cues.trans, h.ports, h.adv, h.events, h.reports,
    h.holder, h.budgets, h.unique⟩

/-- A request's effect is followed by the operations of a block. -/
theorem keeps (h : Serves n s t) (g : Keeps b t u) : Serves n s u := h.trans (of_keeps g)

/-- A request's effect may be counted for more. -/
theorem one (h : Serves 0 s t) : Serves 1 s t := { h with line := h.line.trans (by omega) }

theorem answer (h : Serves 0 s t) (k : ReqKind) (tag : Byte) (st : Status) (c : List Byte) :
    Serves 1 s (answer k tag st c t) :=
  h.trans (m := 1) { refl t with line := by simp }

theorem refuse (h : Serves 0 s t) (k : ReqKind) (tag : Byte) (st : Status) : Serves 1 s (refuse k tag st t) :=
  h.answer k tag st []

theorem awaitAnswer (h : Serves 0 s t) (k : ReqKind) (tag : Byte) : Serves 1 s (awaitAnswer k tag t) :=
  h.trans (m := 1) { refl t with line := by simp [Machine.awaitAnswer] }

theorem finish (h : Serves n s t) : Serves n s (finish t) := h.keeps (Keeps.refl true t).finish

/-! ## The requests of the ports -/

theorem cameraGet (tag : Byte) (c : List Byte) (s : State) : Serves 1 s (serveCameraGet tag c s) := by
  unfold serveCameraGet
  split
  · exact (refl s).refuse _ _ _
  · refine ((refl s).answer _ _ _ _).keeps (Keeps.mod (b := true) (Keeps.refl _ _) _ _)

theorem keeps_leaveFault (h : Keeps b s t) (p : PortId) : Keeps false s (leaveFault p t) := by
  have g := h.modPort p ({ · with run := 0 }) fun c ok => ⟨ok.1, by simp, ok.2.2⟩
  unfold leaveFault
  dsimp only
  split
  · unfold oweAfterFault
    split
    · exact (((g.loose.enterDeep p).replan p).modPort p _ fun c ok => oweIdentify_ok (ok.of_eq rfl rfl))
    · exact (g.loose.enterDeep p).replan p
  · exact g.enterVacant p

theorem clearFault (tag : Byte) (c : List Byte) (s : State) : Serves 1 s (serveClearFault tag c s) := by
  unfold serveClearFault
  split
  · exact (refl s).refuse _ _ _
  · split
    · exact ((of_keeps (keeps_leaveFault (Keeps.refl true s) _)).answer _ _ _ _).finish
    · exact (refl s).refuse _ _ _

theorem keeps_dropPending (h : Keeps b s t) (p : PortId) : Keeps b s (dropPending p t) := by
  unfold dropPending
  split
  · exact h.mod p _
  · exact h.mod p _
  · exact h

/-- The test of R25 leaves out the figure of the unstarted reservation, which is then released with its commitment: the camera
passes the test of R83. -/
theorem admits_releaseUnstarted {p : PortId} (ha : t.admits p (t.port p).unstartedFigure = true)
    (hp : (t.port p).power.awakeState = false) : (releaseUnstarted p t).admits p 0 = true := by
  unfold releaseUnstarted
  split
  · rename_i hu
    have e : releaseResv p t = (setResv p none t).modPort p ({ · with commitment := none }) := by
      unfold releaseResv settleCommitment
      simp [setResv, hp]
    have one := committed_none (s := setResv p none t) p
    have two : (setResv p none t).committed ≤ t.committed := committed_modPort (d := 0) le_rfl
    rw [e]
    simp only [State.admits, Port.unstartedFigure, Port.awakeCurrent, hu, if_true, decide_eq_true_eq, Nat.sub_zero,
      setResv, port_modPort_self, steady_modPort] at ha one two ⊢
    omega
  · rename_i hu
    simpa [Port.unstartedFigure, hu] using ha

theorem keeps_admitAndPlace (h : Keeps b s t) (p : PortId) (ha : t.admits p (t.port p).unstartedFigure = true)
    (hp : (t.port p).power.awakeState = false) : Keeps b s (admitAndPlace p t) := by
  unfold admitAndPlace
  exact ((h.releaseUnstarted p).commit p (admits_releaseUnstarted ha hp)).placeAsap p

/-- A CAMERA_CHANGE handed to the link writes no more of a record than its mark. -/
theorem port_markPort (p q : PortId) (s : State) : ∃ v, (markPort p s).port q = { s.port q with camMark := v } := by
  unfold markPort
  repeat' split
  all_goals first
    | exact ⟨_, rfl⟩
    | (rw [port_modPort]; split <;> exact ⟨_, rfl⟩)

/-- The host-pause flag is written with no more of a record than its mark. -/
theorem port_setHostPause (p q : PortId) (v : Bool) (s : State) :
    ∃ a b, (setHostPause p v s).port q = { s.port q with camMark := a, hostPause := b } := by
  unfold setHostPause
  split
  · exact ⟨_, _, rfl⟩
  · obtain ⟨a, ha⟩ := port_markPort p q (s.modPort p ({ · with hostPause := v }))
    rw [ha, port_modPort]
    split <;> exact ⟨_, _, rfl⟩

theorem steady_setHostPause (p : PortId) (v : Bool) (s : State) : (setHostPause p v s).steady = s.steady := by
  have h := ((Keeps.refl true s).setHostPause p v).still
  simp only [State.still, Prod.mk.injEq] at h
  exact h.2.2.1

/-- The host-pause flag counts in no admission test. -/
theorem admits_setHostPause (p : PortId) (v : Bool) (n : Nat) (s : State) :
    (setHostPause p v s).admits p n = s.admits p n := by
  have c : (setHostPause p v s).committed = s.committed := by
    rw [committed_eq, committed_eq]
    congr 1
    refine List.map_congr_left fun q _ => ?_
    obtain ⟨a, b, h⟩ := port_setHostPause p q v s
    rw [h]
  obtain ⟨a, b, h⟩ := port_setHostPause p p v s
  have w : ((setHostPause p v s).port p).awakeCurrent = (s.port p).awakeCurrent := by rw [h]; rfl
  unfold State.admits
  rw [c, w, steady_setHostPause]

theorem keeps_wakePaused (h : Keeps true s s) (p : PortId) (hp : (s.port p).power.awakeState = false) :
    Keeps true s (wakePaused p s).2 := by
  unfold wakePaused
  dsimp only
  repeat' split
  · exact h
  · exact h
  · exact h.setHostPause p _
  · rename_i ha
    obtain ⟨a, b, g⟩ := port_setHostPause p p false s
    refine keeps_admitAndPlace (h.setHostPause p _) p ?_ (by rw [g]; exact hp)
    rw [admits_setHostPause, g]
    exact ha
  · exact h

theorem keeps_wakeCamera (p : PortId) (s : State) : Keeps true s (wakeCamera p s).2 := by
  have h := Keeps.refl true s
  have paused := keeps_wakePaused h p
  unfold wakeCamera
  split
  · exact (h.setHostPause p _).enterReady p _
  · exact (h.setHostPause p _).startRest p
  · exact keeps_dropPending (h.setHostPause p _) p
  · exact keeps_dropPending (h.setHostPause p _) p
  · exact h
  · exact h
  · rename_i e
    exact paused (by rw [e]; rfl)
  · rename_i e
    exact paused (by rw [e]; rfl)
  · rename_i e
    exact paused (by rw [e]; rfl)

theorem wake (tag : Byte) (c : List Byte) (s : State) : Serves 1 s (serveWake tag c s) := by
  unfold serveWake
  split
  · exact (refl s).refuse _ _ _
  · dsimp only
    split
    · exact ((of_keeps (keeps_wakeCamera _ s)).answer _ _ _ _).finish
    · exact (refl s).refuse _ _ _

theorem keeps_pauseCamera (h : Keeps b s t) (p : PortId) (x : Target) : Keeps b s (pauseCamera p x t) := by
  unfold pauseCamera
  exact (((h.setHostPause p _).releaseUnstarted p).exclude p _).takePause p _

theorem pause (tag : Byte) (c : List Byte) (s : State) : Serves 1 s (servePause tag c s) := by
  unfold servePause
  split
  · split
    · exact ((of_keeps (keeps_pauseCamera (Keeps.refl true s) _ _)).answer _ _ _ _).finish
    · exact (refl s).refuse _ _ _
  · exact (refl s).refuse _ _ _

/-- A host job joins a queue that has room. -/
theorem enqueueHost (k : ReqKind) (tag : Byte) (p : PortId) (job : Nat → JobKind) (s : State)
    (room : (s.port p).hasRoom = true) : Serves 1 s (enqueueHost k tag p job s) := by
  have h := (refl s).awaitAnswer k tag
  unfold Machine.enqueueHost
  refine { h with ports := fun ok q => ?_, budgets := fun w => within_figures w rfl }
  rw [port_modPort]
  split
  · subst p
    exact pushJob_ok _ (ok q) room
  · exact ok q

theorem attrGet (tag : Byte) (c : List Byte) (s : State) : Serves 1 s (serveAttrGet tag c s) := by
  unfold serveAttrGet
  dsimp only
  repeat' split
  · exact (refl s).refuse _ _ _
  · exact (refl s).refuse _ _ _
  · exact (refl s).answer _ _ _ _
  · exact (refl s).refuse _ _ _
  · exact (refl s).refuse _ _ _
  · rename_i h
    exact (enqueueHost _ _ _ _ s (by simpa using h)).finish

theorem attrSet (tag : Byte) (c : List Byte) (s : State) : Serves 1 s (serveAttrSet tag c s) := by
  unfold serveAttrSet
  dsimp only
  repeat' split
  · exact (refl s).refuse _ _ _
  · exact (refl s).refuse _ _ _
  · exact (refl s).refuse _ _ _
  · exact (refl s).refuse _ _ _
  · rename_i h
    exact (enqueueHost _ _ _ _ s (by simpa using h)).finish

/-! ## The requests of the station store -/

theorem setStation (h : Serves n s t) (st : StationId) (f : Station) : Serves n s (setStation st f t) :=
  h.trans (m := 0) ⟨rfl, rfl, rfl, rfl, le_rfl, id, id, id, id, id, id, id, id⟩

theorem keeps_changeMembership (h : Keeps b s t) (st : StationId) (ports : List PortId) (p : PortId) :
    Keeps b s (changeMembership st ports p t) := by
  unfold changeMembership
  repeat' split
  · exact h
  · unfold joinStation
    exact (h.mod p _).startRest p
  · unfold leaveStation
    exact h.mod p _
  · exact h

theorem stationSet (tag : Byte) (c : List Byte) (s : State) : Serves 1 s (serveStationSet tag c s) := by
  unfold serveStationSet
  split
  · dsimp only
    repeat' split
    · exact (refl s).refuse _ _ _
    · exact (refl s).refuse _ _ _
    · exact (refl s).refuse _ _ _
    · exact ((((refl s).setStation _ _).keeps ((Keeps.refl true _).forEach _ _ fun p _ g =>
        keeps_changeMembership g _ _ p)).answer _ _ _ _).finish
  · exact (refl s).refuse _ _ _

theorem stationGet (tag : Byte) (c : List Byte) (s : State) : Serves 1 s (serveStationGet tag c s) := by
  unfold serveStationGet
  split
  · exact (refl s).answer _ _ _ _
  · exact (refl s).refuse _ _ _

theorem clampProfiles (h : Serves n s t) (a c : Nat) (ha : t.committed ≤ a) (hc : t.highestOccupancy ≤ c) :
    Serves n s (clampProfiles { t with steady := a, inrush := c }) := by
  have e (p : PortId) : ((Machine.clampProfiles { t with steady := a, inrush := c }).port p) = (t.port p).clampTo c := by
    simp [Machine.clampProfiles, State.port]
  refine h.trans (m := 0) ⟨rfl, rfl, rfl, rfl, le_rfl, id, fun ok p => ?_, id, id, id, id, fun w => ?_, fun g => ?_⟩
  · rw [e]
    exact (ok p).of_eq rfl rfl
  · exact within_of_eq (within_budgets w ha hc) rfl rfl rfl fun p => by rw [e]; rfl
  · exact unique_map g _ (fun _ => rfl) (fun _ => rfl)

/-- A budget as stored is no less than what is committed (R80). -/
theorem le_storedBudget (lo hi given floor_ : Nat) : floor_ ≤ storedBudget lo hi given floor_ := by
  unfold storedBudget roundUp100 ceilDiv
  dsimp only
  split <;> omega

theorem budgetSet (tag : Byte) (c : List Byte) (s : State) : Serves 1 s (serveBudgetSet tag c s) := by
  unfold serveBudgetSet
  exact ((refl s).clampProfiles _ _ (le_storedBudget _ _ _ _) (le_storedBudget _ _ _ _)).answer _ _ _ _

theorem keeps_setEnabled (h : Keeps b s t) (p : PortId) (en : Bool) : Keeps false s (setEnabled p en t) := by
  unfold setEnabled
  dsimp only
  have g := h.mod p ({ · with enabled := en })
  repeat' split
  · exact h.loose
  · exact g.loose.presenceRise p
  · exact g.loose
  · exact g.presenceFall p

theorem portSet (tag : Byte) (c : List Byte) (s : State) : Serves 1 s (servePortSet tag c s) := by
  unfold servePortSet
  split
  · exact ((of_keeps (keeps_setEnabled ((Keeps.refl true s).mod _ _) _ _)).answer _ _ _ _).finish
  · exact (refl s).refuse _ _ _

/-! ## The requests of the cue list, the advance table and the fire unit -/

theorem length_insertCue (now : Nat) (c : Cue) (l : List Cue) : (insertCue now c l).length = l.length + 1 := by
  induction l with
  | nil => rfl
  | cons d ds ih =>
    unfold insertCue
    split
    · simp [ih]
    · simp

/-- A cue joins a list that has room. -/
theorem postCue (c : Cue) (s : State) (room : s.cues.length < 16) : Serves 0 s (postCue c s) := by
  have h : Serves 0 s { s with cues := insertCue s.clock c s.cues, lastCue := c.id, postings := c.posting } :=
    { refl s with cues := fun _ => by simp only [length_insertCue]; omega }
  unfold Machine.postCue
  dsimp only
  split
  · exact h.keeps ((Keeps.refl true _).planAndEnter _)
  · exact h

theorem room_of_postRefusal {st : StationId} {time : Nat} (h : s.postRefusal st time = none) : s.cues.length < 16 := by
  unfold State.postRefusal at h
  dsimp only at h
  repeat' split at h
  all_goals try contradiction
  rename_i g
  simp only [Config.cueCapacity] at g
  omega

theorem cuePost (tag : Byte) (c : List Byte) (s : State) : Serves 1 s (serveCuePost tag c s) := by
  unfold serveCuePost
  dsimp only
  repeat' split
  · exact (refl s).refuse _ _ _
  · exact (refl s).refuse _ _ _
  · rename_i h
    exact ((postCue _ s (room_of_postRefusal h)).answer _ _ _ _).finish
  · exact (refl s).refuse _ _ _

theorem cueCancel (tag : Byte) (c : List Byte) (s : State) : Serves 1 s (serveCueCancel tag c s) := by
  have done (d : Cue) : Serves 1 s (Machine.finish (Machine.answer .cueCancel tag .ok [] (cancelCue d s))) :=
    ((of_keeps ((Keeps.refl true s).cancelCue d)).answer _ _ _ _).finish
  unfold serveCueCancel
  repeat' split
  · exact (refl s).refuse _ _ _
  · exact (refl s).refuse _ _ _
  · exact done _
  · exact done _
  · exact done _
  · exact done _
  · exact (refl s).refuse _ _ _
  · exact (refl s).refuse _ _ _
  · exact (refl s).refuse _ _ _

theorem cueList (tag : Byte) (c : List Byte) (s : State) : Serves 1 s (serveCueList tag c s) := by
  unfold serveCueList
  dsimp only
  split
  · exact (refl s).refuse _ _ _
  · exact (refl s).answer _ _ _ _

theorem settle (tag : Byte) (c : List Byte) (s : State) : Serves 1 s (serveSettle tag c s) := by
  unfold serveSettle
  dsimp only
  repeat' split
  · exact (refl s).refuse _ _ _
  · exact (refl s).refuse _ _ _
  · exact (refl s).answer _ _ _ _
  · exact one ⟨rfl, rfl, rfl, rfl, le_rfl, id, id, id, id, id, id, id, id⟩

theorem keeps_setOrder (h : Keeps b s t) (p : PortId) (o : Order) : Keeps b s (setOrder p o t) := by
  unfold setOrder
  exact h.mod p _

theorem keeps_aheadOne (h : Keeps b s t) (p : PortId) (o : Order) : Keeps b s (aheadOne p o t).2 := by
  have paused : Keeps b s (aheadPaused p o t).2 := by
    unfold aheadPaused
    dsimp only
    repeat' split
    · exact h
    · exact h
    · exact keeps_setOrder h p o
    · exact keeps_setOrder (((h.releaseUnstarted p).commit p ‹_›).placeAsap p) p o
    · exact (h.releaseUnstarted p).replan p
  unfold aheadOne
  dsimp only
  split
  · exact h
  · exact h
  · exact (keeps_setOrder (h.startRest p) p o).handOver p
  · exact keeps_setOrder h p o
  · exact keeps_setOrder h p o
  · split
    · exact h
    · exact (keeps_setOrder (h.enterReady p _) p o).handOver p
  · repeat' split
    · exact keeps_setOrder h p o
    · exact h
    · exact paused
  · repeat' split
    · exact keeps_setOrder h p o
    · exact h
    · exact paused
  · split
    · exact h
    · exact paused

theorem keeps_aheadPorts (h : Keeps b s t) (o : Order) (ps : List PortId) : Keeps b s (aheadPorts o ps t).2 := by
  induction ps generalizing t with
  | nil => exact h
  | cons p ps ih => exact ih (keeps_aheadOne h p o)

theorem aheadWake (tag : Byte) (c : List Byte) (s : State) : Serves 1 s (serveAheadWake tag c s) := by
  unfold serveAheadWake
  dsimp only
  repeat' split
  · exact (refl s).refuse _ _ _
  · exact (refl s).refuse _ _ _
  · exact (refl s).refuse _ _ _
  · exact (refl s).refuse _ _ _
  · exact ((of_keeps (keeps_aheadPorts (Keeps.refl true s) _ _)).answer _ _ _ _).finish

theorem keeps_dropAhead (h : Keeps b s t) (p : PortId) : Keeps b s (dropAhead p t) := by
  unfold dropAhead
  exact h.modPort p _ fun c ok => cutFlight_ok _ _ (removeJobs_ok _ (ok.of_eq rfl rfl))

theorem aheadDrop (tag : Byte) (c : List Byte) (s : State) : Serves 1 s (serveAheadDrop tag c s) := by
  unfold serveAheadDrop
  split
  · exact (refl s).refuse _ _ _
  · refine Serves.finish (Serves.answer (of_keeps (b := true) ?_) _ _ _ _)
    exact ((Keeps.refl true s).fewerAdv _ (List.length_filter_le _ _)).forEach _ _ fun p _ g => keeps_dropAhead g p

theorem fireUnlock (tag : Byte) (c : List Byte) (s : State) : Serves 1 s (serveFireUnlock tag c s) := by
  unfold serveFireUnlock
  split
  · exact (refl s).refuse _ _ _
  · split
    · exact ((of_keeps ((Keeps.refl true s).noLock.grantRule)).answer _ _ _ _).finish
    · exact (refl s).answer _ _ _ _

/-! ## The requests of the identity table and the event filter -/

theorem idList (tag : Byte) (c : List Byte) (s : State) : Serves 1 s (serveIdList tag c s) := by
  unfold serveIdList
  dsimp only
  split
  · exact (refl s).refuse _ _ _
  · exact (refl s).answer _ _ _ _

theorem keeps_copyProfile (h : Keeps b s t) (e : IdEntry) : Keeps b s (copyProfile e t) := by
  unfold copyProfile
  split
  · exact h.mod _ _
  · exact h

theorem pinIdentity (tag : Byte) (x : Ident) (o : Option StoredProfile) (v : Bool) (s : State) :
    Serves 1 s (pinIdentity tag x o v s) := by
  unfold Machine.pinIdentity
  split
  · rename_i k _
    split
    · rename_i e he
      split
      · exact (refl s).refuse _ _ _
      · have g : Keeps false s (s.setEntry k (some (e.pin o))) := by
          have := (Keeps.refl true s).changeEntry k (IdEntry.pin · o) (fun _ => rfl) (fun _ => Or.inl rfl)
          rwa [he] at this
        exact (of_keeps (Keeps.ite (keeps_copyProfile g _) g)).answer _ _ _ _
    · exact (refl s).one
  · rename_i hx
    split
    · rename_i k _
      refine (of_keeps ((Keeps.refl true s).setEntry k _ fun _ u => unique_set u k _ ?_)).answer _ _ _ _
      intro a ha j _ c hc
      simp only [Option.some.injEq] at ha
      subst ha
      exact ⟨(posOf_none hx j c hc).symm, by simp⟩
    · exact (refl s).refuse _ _ _

theorem idPin (tag : Byte) (c : List Byte) (s : State) : Serves 1 s (serveIdPin tag c s) := by
  unfold serveIdPin
  split
  · exact (refl s).refuse _ _ _
  · exact pinIdentity _ _ _ _ s
  · exact pinIdentity _ _ _ _ s

theorem idUnpin (tag : Byte) (c : List Byte) (s : State) : Serves 1 s (serveIdUnpin tag c s) := by
  unfold serveIdUnpin
  split
  · exact (refl s).refuse _ _ _
  · refine (of_keeps ((Keeps.refl true s).changeEntry _ _ (fun e => ?_) (fun e => ?_))).answer _ _ _ _
    · split <;> rfl
    · split <;> exact Or.inl rfl

theorem idClear (tag : Byte) (c : List Byte) (s : State) : Serves 1 s (serveIdClear tag c s) := by
  unfold serveIdClear
  split
  · exact (refl s).refuse _ _ _
  · refine Serves.answer ?_ _ _ _ _
    exact ⟨rfl, rfl, rfl, rfl, le_rfl, id, id, id, id, id, id, id, id⟩

theorem idAging (tag : Byte) (c : List Byte) (s : State) : Serves 1 s (serveIdAging tag c s) := by
  unfold serveIdAging
  dsimp only
  have g (v : Nat) : Serves 0 s (removeAged { s with aging := v }) :=
    Serves.keeps (t := { s with aging := v }) ⟨rfl, rfl, rfl, rfl, le_rfl, id, id, id, id, id, id, id, id⟩ (Keeps.refl true _).removeAged
  split
  · exact (g _).answer _ _ _ _
  · exact (g _).answer _ _ _ _

theorem trapSet (tag : Byte) (c : List Byte) (s : State) : Serves 1 s (serveTrapSet tag c s) := by
  unfold serveTrapSet
  split
  · refine Serves.answer ?_ _ _ _ _
    exact ⟨rfl, rfl, rfl, rfl, le_rfl, id, id, id, id, id, id, id, id⟩
  · exact (refl s).refuse _ _ _

theorem trapGet (tag : Byte) (c : List Byte) (s : State) : Serves 1 s (serveTrapGet tag c s) := by
  unfold serveTrapGet
  split
  · exact (refl s).answer _ _ _ _
  · exact (refl s).refuse _ _ _

theorem eventsFetch (tag : Byte) (c : List Byte) (s : State) : Serves 1 s (serveEventsFetch tag c s) := by
  have g : Serves 0 s { s with events := s.events.drop (clamp 1 32 (u8 c 0)) } :=
    { refl s with events := fun h => by simp only [List.length_drop]; omega }
  unfold serveEventsFetch
  exact ((g.keeps ((Keeps.refl true _).refillEvents 24)).answer _ _ _ _).finish

/-! ## The requests of the link and the time base -/

theorem describe (tag : Byte) (c : List Byte) (s : State) : Serves 1 s (serveDescribe tag c s) := by
  unfold serveDescribe
  exact (refl s).answer _ _ _ _

theorem clock_ (tag : Byte) (c : List Byte) (s : State) : Serves 1 s (serveClock tag c s) := by
  unfold serveClock
  exact (refl s).answer _ _ _ _

theorem restart (tag : Byte) (c : List Byte) (s : State) : Serves 1 s (serveRestart tag c s) := by
  unfold serveRestart
  split
  · exact (refl s).refuse _ _ _
  · refine Serves.answer ?_ _ _ _ _
    exact { refl s with line := by simpa using List.length_filter_le _ _ }

/-- A request handed to its owner. -/
theorem serve (k : ReqKind) (tag : Byte) (c : List Byte) (s : State) : Serves 1 s (serve k tag c s) := by
  cases k
  · exact describe tag c s
  · exact clock_ tag c s
  · exact restart tag c s
  · exact stationSet tag c s
  · exact stationGet tag c s
  · exact budgetSet tag c s
  · exact portSet tag c s
  · exact cameraGet tag c s
  · exact clearFault tag c s
  · exact wake tag c s
  · exact pause tag c s
  · exact attrGet tag c s
  · exact attrSet tag c s
  · exact cuePost tag c s
  · exact cueCancel tag c s
  · exact cueList tag c s
  · exact settle tag c s
  · exact aheadWake tag c s
  · exact aheadDrop tag c s
  · exact fireUnlock tag c s
  · exact idList tag c s
  · exact idPin tag c s
  · exact idUnpin tag c s
  · exact idClear tag c s
  · exact idAging tag c s
  · exact trapSet tag c s
  · exact trapGet tag c s
  · exact eventsFetch tag c s

theorem answerRaw (kind tag : Byte) (st : Status) (s : State) : Serves 1 s (answerRaw kind tag st s) :=
  { refl s with line := by simp [Machine.answerRaw] }

/-- An OUT transfer taken. -/
theorem dispatch (x : OutXfer) (s : State) : Serves 1 s (dispatch x s) := by
  unfold Machine.dispatch
  split
  · unfold takeRequest
    split
    · exact serve _ _ _ s
    · exact (refl s).refuse _ _ _
  · unfold takeUnknown
    split
    · exact (refl s).one
    · dsimp only
      repeat' split
      · exact answerRaw _ _ _ s
      · exact answerRaw _ _ _ s
      · exact answerRaw _ _ _ s

end Serves

end Sys2Proof.Machine
end

