-- ==== Sys2Proof/Laws/Inv.lean ====
section
/-! SUPPORT. `Inv` over the shared operations: those of the blocks (`Keeps`), a request (`Serves`), the OUT and IN endpoints and the two
resets. -/

namespace Sys2Proof.Machine

set_option Elab.async false

variable {b : Bool} {s t : State}

/-- The fields `Inv` speaks of are as they were. -/
theorem inv_of_eq (i : Inv s) (h : t.clock = s.clock ∧ t.ports = s.ports ∧ t.cues = s.cues ∧ t.adv = s.adv ∧
    t.events = s.events ∧ t.reports = s.reports ∧ t.line = s.line ∧ t.owner = s.owner ∧ t.lock = s.lock ∧
    t.table = s.table) : Inv t := by
  obtain ⟨a1, a2, a3, a4, a5, a6, a7, a8, a9, a10⟩ := h
  simp only [Inv, ClockInRange, Capacities, OneHolder, State.port] at i ⊢
  simp only [a1, a2, a3, a4, a5, a6, a7, a8, a9, a10]
  exact i

theorem inv_keeps (h : Keeps b s t) (i : Inv s) : Inv t := by
  obtain ⟨hc, ⟨h1, h2, h3, h4, h5, h6⟩, ho, ht⟩ := i
  have g := h.still
  simp only [State.still, Prod.mk.injEq] at g
  refine ⟨?_, ⟨h.ports h1, h.cues.trans h2, h.adv h3, h.events h4, h.reports h5, by rw [h.line]; exact h6⟩,
    h.holder ho, h.unique ht⟩
  unfold ClockInRange
  rw [g.1]
  exact hc

theorem inv_serves {n : Nat} (h : Serves n s t) (i : Inv s) (hl : s.line.length + n ≤ 32) : Inv t := by
  obtain ⟨hc, ⟨h1, h2, h3, h4, h5, _⟩, ho, ht⟩ := i
  refine ⟨?_, ⟨h.ports h1, h.cues h2, h.adv h3, h.events h4, h.reports h5, h.line.trans hl⟩, h.holder ho, h.unique ht⟩
  unfold ClockInRange
  rw [h.clock]
  exact hc

theorem inv_finish (i : Inv s) : Inv (finish s) := inv_keeps (Keeps.refl true s).finish i

/-! ## The meanings of single commands -/

theorem Keeps.startReservation (h : Keeps b s t) (p : PortId) (r : Reservation) (hr : (t.port p).resv = some r) :
    Keeps b s (startReservation p r t) := by
  have g := h.sameWindow { r with started := true } hr
  unfold Machine.startReservation
  generalize Machine.setResv p (some { r with started := true }) t = u at g ⊢
  dsimp only
  split
  · split
    · exact g.startDeepWake p _
    · split
      · exact g.mod p _
      · exact g.startResume p _
  · exact g.releaseResv p

/-- A sensed rail writes the record, and the free-value counter where the current shows as a free value. -/
theorem inv_railSensed (p : PortId) (n : Nat) (i : Inv s) : Inv (railSensed p n s) := by
  unfold railSensed
  split
  · exact inv_keeps ((Keeps.refl true s).mod p _) i
  · exact inv_of_eq (inv_keeps ((Keeps.refl true s).mod p _) i) ⟨rfl, rfl, rfl, rfl, rfl, rfl, rfl, rfl, rfl, rfl⟩

theorem Keeps.releaseReset (h : Keeps b s t) (p : PortId) (e : Nat) (w : Bool) : Keeps b s (releaseReset p e w t) := by
  unfold Machine.releaseReset
  split
  · exact h.beginInitWait p _
  · exact h.setPhase _ _ _

theorem Keeps.restDecision (h : Keeps b s t) (p : PortId) (st : StationId) : Keeps b s (restDecision p st t) := by
  unfold Machine.restDecision
  dsimp only
  split
  · exact h.mod p _
  · exact h.takePause p _

theorem Keeps.pressPort (h : Keeps b s t) (p : PortId) : Keeps b s (pressPort p t) := by
  unfold Machine.pressPort
  split
  · exact h.mod p _
  · exact h

theorem Keeps.visitPosition (h : Keeps b s t) (k : Position) : Keeps false s (visitPosition k t) := by
  unfold Machine.visitPosition
  repeat' split
  · exact h.loose
  · exact h.removeEntry k
  · exact h.loose

theorem Keeps.judgeResponse (h : Keeps b s t) (p : PortId) (e : Exchange) (st d ch : Byte) :
    Keeps false s (judgeResponse p e st d ch t) := by
  unfold Machine.judgeResponse
  split
  · exact h.exchangeSuccess p e _ _
  · exact h.attemptFailed p e

/-! ## The OUT endpoint -/

theorem inv_dispatch (x : OutXfer) (i : Inv s) (a : s.accepting = true) : Inv (dispatch x s) := by
  refine inv_serves (Serves.dispatch x s) i ?_
  simp only [State.accepting, Bool.and_eq_true, decide_eq_true_eq, Config.replyCapacity] at a
  omega

theorem inv_drain (xs : List OutXfer) (i : Inv s) : Inv (drain xs s) := by
  induction xs generalizing s with
  | nil => exact inv_of_eq i ⟨rfl, rfl, rfl, rfl, rfl, rfl, rfl, rfl, rfl, rfl⟩
  | cons x xs ih =>
    unfold drain
    split
    · exact ih (inv_dispatch x i ‹_›)
    · exact inv_of_eq i ⟨rfl, rfl, rfl, rfl, rfl, rfl, rfl, rfl, rfl, rfl⟩

/-! ## The resets -/

theorem inv_masterReset (s : State) : Inv (masterReset s) := by
  unfold masterReset
  refine inv_keeps (Keeps.finish (Keeps.forEach (Keeps.refl true _) _ _ fun p u g => (g.presenceRise p).ite g)) ?_
  refine ⟨by simp [ClockInRange, State.reset], ⟨fun p => ?_, ?_⟩, fun _ => rfl, unique_empty⟩
  · simp [State.port, masterReset_ok]
  · simp [State.reset]

theorem Keeps.warmPort (h : Keeps b s t) (p : PortId) : Keeps b s (warmPort p t) := by
  have g := (h.releaseUnstarted p).modPort p _ fun _ ok => warmJobs_ok ok
  unfold Machine.warmPort
  dsimp only
  generalize (Machine.releaseUnstarted p t).modPort p Port.warmJobs = u at g ⊢
  have k : Keeps b s (if (u.port p).power.isArmed then Machine.enterReady p false u else u) := (g.enterReady p _).ite g
  generalize (if (u.port p).power.isArmed then Machine.enterReady p false u else u) = v at k ⊢
  refine Keeps.modPort (Keeps.pausingEvent ?_ p) p _ fun _ ok => testPoll_ok ok
  unfold restartRest
  split
  · exact (k.mod p _).startRest p
  · exact k

theorem inv_warmReset (i : Inv s) : Inv (warmReset s) := by
  unfold warmReset drainHeld
  refine inv_drain _ (inv_keeps (Keeps.finish (Keeps.forEach (Keeps.refl true _) _ _ fun p u g => g.warmPort p)) ?_)
  obtain ⟨hc, ⟨h1, _⟩, _, ht⟩ := i
  refine ⟨hc, ⟨fun p => ?_, by simp [emptyTables, resetLink]⟩, fun _ => rfl, ht⟩
  have := h1 p
  simpa [emptyTables, resetLink, State.port, Port.Ok, Port.OnlyHeadStarted] using this

theorem inv_takeReset (r : Restart) (i : Inv s) : Inv (takeReset r s) := by
  unfold takeReset
  split
  · exact inv_masterReset s
  · exact inv_warmReset i

/-! ## The IN endpoint -/

theorem inv_serveMark (i : Inv s) (room : s.reports.length < 16) : Inv (serveMark s) := by
  have camera : ∀ w : State, Inv w → w.reports.length < 16 → Inv (serveCamMark w) := by
    intro w iw room
    unfold serveCamMark
    split
    · rename_i p _
      exact inv_keeps (((Keeps.refl true w).mod p ({ · with camMark := false })).addReport (.camera p) room) iw
    · exact iw
  unfold serveMark
  split
  · exact inv_keeps ((Keeps.refl true s).reportCue _) i
  · split
    · dsimp only
      split
      · exact camera _ (inv_keeps ((Keeps.refl true s).setEventsMark false) i) room
      · exact inv_keeps (((Keeps.refl true s).setEventsMark false).addReport .events room) i
    · exact camera s i room

theorem inv_reportSent (x : InXfer) (i : Inv s) : Inv (reportSent x s) := by
  have m : Inv (clearSent x s) := by
    unfold clearSent
    split
    · unfold clearCarried
      exact inv_keeps (b := true) (Keeps.mod (Keeps.refl _ _) _ _) i
    · exact i
  unfold reportSent
  generalize clearSent x s = u at m ⊢
  obtain ⟨hc, ⟨h1, h2, h3, h4, h5, h6⟩, ho, ht⟩ := m
  have l : u.reports.tail.length < 16 := by simp only [List.length_tail]; omega
  exact inv_serveMark ⟨hc, ⟨h1, h2, h3, h4, l.le, h6⟩, ho, ht⟩ l

theorem inv_replySent (i : Inv s) : Inv (replySent s) := by
  unfold replySent
  split
  · rename_i e rest h
    have k : Inv { s with line := rest } := by
      obtain ⟨hc, ⟨h1, h2, h3, h4, h5, h6⟩, ho, ht⟩ := i
      refine ⟨hc, ⟨h1, h2, h3, h4, h5, ?_⟩, ho, ht⟩
      rw [h] at h6
      simp only [List.length_cons] at h6
      show rest.length ≤ 32
      omega
    dsimp only
    split
    · split
      · exact inv_takeReset _ k
      · exact k
    · exact inv_drain _ k
  · exact i

theorem inv_completeIn (x : InXfer) (i : Inv s) : Inv (completeIn x s) := by
  have k : Inv { s with inXfer := none } := inv_of_eq i ⟨rfl, rfl, rfl, rfl, rfl, rfl, rfl, rfl, rfl, rfl⟩
  unfold completeIn
  dsimp only
  split
  · exact inv_of_eq i ⟨rfl, rfl, rfl, rfl, rfl, rfl, rfl, rfl, rfl, rfl⟩
  · exact inv_replySent k
  · exact inv_reportSent x k
  · exact k

/-! ## The budgets over the same operations -/

theorem within_railSensed (p : PortId) (n : Nat) (w : WithinBudgets s) : WithinBudgets (railSensed p n s) := by
  unfold railSensed
  split <;> exact within_figures w rfl

theorem within_drain (xs : List OutXfer) (w : WithinBudgets s) : WithinBudgets (drain xs s) := by
  induction xs generalizing s with
  | nil => exact w
  | cons x xs ih =>
    unfold drain
    split
    · exact ih ((Serves.dispatch x s).budgets w)
    · exact w

theorem within_masterReset (s : State) : WithinBudgets (masterReset s) := by
  unfold masterReset
  refine Keeps.budgets (fixed := true) (Keeps.finish (Keeps.forEach (Keeps.refl true _) _ _ fun p u g => (g.presenceRise p).ite g))
    (within_idle fun p => ?_)
  simp [State.port, Port.masterReset, Port.reset]

theorem within_warmReset (w : WithinBudgets s) : WithinBudgets (warmReset s) := by
  unfold warmReset drainHeld
  refine within_drain _ (Keeps.budgets (fixed := true) (Keeps.finish (Keeps.forEach (Keeps.refl true _) _ _ fun p u g =>
    g.warmPort p)) (within_of_eq w rfl rfl rfl fun p => ?_))
  simp [emptyTables, resetLink, State.port, Port.figures]

theorem within_takeReset (r : Restart) (w : WithinBudgets s) : WithinBudgets (takeReset r s) := by
  unfold takeReset
  split
  · exact within_masterReset s
  · exact within_warmReset w

theorem within_serveMark (w : WithinBudgets s) : WithinBudgets (serveMark s) := by
  have camera : ∀ u : State, WithinBudgets u → WithinBudgets (serveCamMark u) := by
    intro u wu
    unfold serveCamMark
    split
    · exact within_figures (f := ({ · with camMark := false })) wu rfl
    · exact wu
  unfold serveMark
  split
  · exact ((Keeps.refl true s).reportCue _).budgets w
  · split
    · dsimp only
      split
      · exact camera _ w
      · exact w
    · exact camera s w

theorem within_completeIn (x : InXfer) (w : WithinBudgets s) : WithinBudgets (completeIn x s) := by
  unfold completeIn
  dsimp only
  split
  · exact w
  · unfold replySent
    split
    · dsimp only
      split
      · split
        · exact within_takeReset _ w
        · exact w
      · exact within_drain _ w
    · exact w
  · unfold reportSent
    refine within_serveMark ?_
    unfold clearSent
    split
    · exact within_figures (f := fun c => { c with
        gradeChanged := c.gradeChanged && !x.grade
        noteAbandoned := c.noteAbandoned && !x.abandoned
        noteConflict := c.noteConflict && !x.conflict }) (s := { s with inXfer := none }) w rfl
    · exact w
  · exact w

end Sys2Proof.Machine
end

