-- ==== Sys2Proof/Laws/OnPort.lean ====
section
/-! SUPPORT. What the operations on one port leave to the others: the relation `OnPort`, and one lemma for each shared operation.
Every other port's record is as it was, and a CAMERA_CHANGE that was owed is owed still. -/

namespace Sys2Proof.Machine

set_option Elab.async false

/-! ## The report marks of a record -/

section
variable (c : Port)

@[simp] theorem camMark_pushJob (k : JobKind) : (pushJob k c).camMark = c.camMark := rfl

@[simp] theorem camMark_enqueue (k : JobKind) : (c.enqueue k).camMark = c.camMark := by
  unfold Port.enqueue; split <;> rfl

@[simp] theorem camMark_testPoll : c.testPoll.camMark = c.camMark := by
  unfold Port.testPoll; repeat' split
  all_goals rfl

@[simp] theorem camMark_oweThermal : c.oweThermal.camMark = c.camMark := by
  unfold Port.oweThermal; repeat' split
  all_goals rfl

@[simp] theorem camMark_owePing : c.owePing.camMark = c.camMark := by
  unfold Port.owePing; repeat' split
  all_goals rfl

@[simp] theorem camMark_oweIdentify : c.oweIdentify.camMark = c.camMark := by
  unfold Port.oweIdentify; split
  · rfl
  · simp

@[simp] theorem camMark_servePoll (n : Nat) : (c.servePoll n).camMark = c.camMark := by
  unfold Port.servePoll; split
  · dsimp only; split <;> rfl
  · rfl

@[simp] theorem camMark_serveThermal (n : Nat) : (c.serveThermal n).camMark = c.camMark := by
  unfold Port.serveThermal; split
  · dsimp only; split <;> rfl
  · rfl

@[simp] theorem camMark_servePing (n : Nat) : (c.servePing n).camMark = c.camMark := by
  unfold Port.servePing; split
  · dsimp only; split <;> rfl
  · rfl

@[simp] theorem camMark_serveUpTo (n : Nat) : (c.serveUpTo n).camMark = c.camMark := by
  simp [Port.serveUpTo, Port.serveLine]

@[simp] theorem camMark_serveRoom : c.serveRoom.camMark = c.camMark := by simp [Port.serveRoom]

@[simp] theorem camMark_removeJobs (f : Job → Bool) : (c.removeJobs f).camMark = c.camMark := by
  simp [Port.removeJobs]

@[simp] theorem camMark_cutFlight (f : Job → Bool) (v : Bool) : (c.cutFlight f v).camMark = c.camMark := by
  unfold Port.cutFlight; repeat' split
  all_goals simp

@[simp] theorem camMark_faultJobs : c.faultJobs.camMark = c.camMark := by
  simp [Port.faultJobs]

@[simp] theorem camMark_enter (now : Nat) (new : Power) : (Port.enter now new c).camMark = c.camMark := by
  have h (d : Port) (old : Power) : (d.railChange now old).camMark = d.camMark := by
    unfold Port.railChange; split
    · split <;> rfl
    · rfl
  have g (d : Port) : d.dropResumeWait.camMark = d.camMark := by
    unfold Port.dropResumeWait; split <;> rfl
  unfold Port.enter
  dsimp only
  split
  · simp [Port.dropPings, g, h]
  · simp [g, h]

end

/-- From s the operations on port p have reached t: the other ports are as they were, and what was owed to a CAMERA_CHANGE is
owed still. -/
structure OnPort (p : PortId) (s t : State) : Prop where
  others : ∀ q, q ≠ p → t.port q = s.port q
  marks : ∀ q, s.marked q → t.marked q

namespace OnPort

variable {p : PortId} {s t u : State}

theorem refl (p : PortId) (s : State) : OnPort p s s := ⟨fun _ _ => rfl, fun _ => id⟩

theorem trans (h : OnPort p s t) (g : OnPort p t u) : OnPort p s u :=
  ⟨fun q hq => (g.others q hq).trans (h.others q hq), fun q => g.marks q ∘ h.marks q⟩

/-- The record of the port itself is replaced by one with the same mark, or a set one. -/
theorem modPort (h : OnPort p s t) (f : Port → Port)
    (hf : ∀ c : Port, c.camMark = true → (f c).camMark = true := by intro c hc; (first | exact hc | simpa using hc)) :
    OnPort p s (t.modPort p f) :=
  h.trans
    { others := fun q hq => port_modPort_ne (Ne.symm hq) f t
      marks := fun q hq => by
        rcases hq with hq | hq
        · refine Or.inl ?_
          rw [Machine.port_modPort]
          split
          · exact hf _ hq
          · exact hq
        · exact Or.inr hq }

theorem mod (h : OnPort p s t) (f : Port → Port)
    (hf : ∀ c : Port, c.camMark = true → (f c).camMark = true := by intro c hc; (first | exact hc | simpa using hc)) :
    OnPort p s (t.modPort p f) := h.modPort f hf

theorem modCue (h : OnPort p s t) (id : Nat) (f : Cue → Cue) : OnPort p s (modCue id f t) :=
  h.trans { others := fun _ _ => rfl, marks := fun _ hq => hq }

theorem removeCue (h : OnPort p s t) (id : Nat) : OnPort p s (removeCue id t) :=
  h.trans { others := fun _ _ => rfl, marks := fun _ hq => hq }

theorem fewerAdv (h : OnPort p s t) (l : List AdvEntry) : OnPort p s { t with adv := l } :=
  h.trans { others := fun _ _ => rfl, marks := fun _ hq => hq }

/-- A report joins the report queue. -/
theorem addReport (h : OnPort p s t) (r : Report) : OnPort p s { t with reports := t.reports ++ [r] } :=
  h.trans { others := fun _ _ => rfl, marks := fun _ hq => hq.imp id (List.mem_append_left _) }

theorem setXfer (h : OnPort p s t) (x : Option InXfer) : OnPort p s { t with inXfer := x } :=
  h.trans { others := fun _ _ => rfl, marks := fun _ hq => hq }

theorem giveAnswer (h : OnPort p s t) (k : Nat) (body : List Byte) : OnPort p s (giveAnswer k body t) :=
  h.trans { others := fun _ _ => rfl, marks := fun _ hq => hq }

theorem setEntry (h : OnPort p s t) (k : Position) (e : Option IdEntry) : OnPort p s (t.setEntry k e) :=
  h.trans { others := fun _ _ => rfl, marks := fun _ hq => hq }

/-- A thing done for each of a list is on the port when each of its rounds is. -/
theorem forEach {α : Type} (h : OnPort p s t) (xs : List α) (f : α → State → State)
    (hf : ∀ x u, OnPort p s u → OnPort p s (f x u)) : OnPort p s (forEach xs f t) := by
  induction xs generalizing t with
  | nil => exact h
  | cons x xs ih => exact ih (hf x t h)

/-- Either branch of a choice. -/
theorem ite {c : Prop} [Decidable c] (h : OnPort p s t) (g : OnPort p s u) : OnPort p s (if c then t else u) := by
  split
  · exact h
  · exact g

theorem markPort (h : OnPort p s t) : OnPort p s (markPort p t) := by
  unfold Machine.markPort
  repeat' split
  · exact h
  · exact h.mod _
  · exact h
  · exact h.addReport _
  · exact h.mod _

theorem setGradeChanged (h : OnPort p s t) : OnPort p s (setGradeChanged p t) := by
  unfold Machine.setGradeChanged
  dsimp only
  split
  · exact ((h.setXfer _).mod _).markPort
  · exact (h.mod _).markPort

theorem addAbandoned (h : OnPort p s t) : OnPort p s (addAbandoned p t) := by
  unfold Machine.addAbandoned
  dsimp only
  split
  · exact ((h.setXfer _).mod _).markPort
  · exact (h.mod _).markPort

theorem addConflict (h : OnPort p s t) : OnPort p s (addConflict p t) := by
  unfold Machine.addConflict
  dsimp only
  split
  · exact ((h.setXfer _).mod _).markPort
  · exact (h.mod _).markPort

theorem setOffload (h : OnPort p s t) (v : Bool) : OnPort p s (setOffload p v t) := by
  unfold Machine.setOffload
  split
  · exact h
  · exact (h.mod _).markPort

theorem setMediaFull (h : OnPort p s t) (v : Bool) : OnPort p s (setMediaFull p v t) := by
  unfold Machine.setMediaFull
  split
  · exact h
  · exact (h.mod _).markPort

theorem setHostPause (h : OnPort p s t) (v : Bool) : OnPort p s (setHostPause p v t) := by
  unfold Machine.setHostPause
  split
  · exact h
  · exact (h.mod _).markPort

theorem answerBadState (h : OnPort p s t) (j : Job) : OnPort p s (answerBadState j t) := by
  unfold Machine.answerBadState
  split
  · exact h.giveAnswer _ _
  · exact h.giveAnswer _ _
  · exact h

theorem settleCommitment (h : OnPort p s t) : OnPort p s (settleCommitment p t) := by
  unfold Machine.settleCommitment
  split
  · exact h.mod _
  · exact h

theorem releaseResv (h : OnPort p s t) : OnPort p s (releaseResv p t) := by
  unfold Machine.releaseResv
  exact (h.mod _).settleCommitment

theorem releaseUnstarted (h : OnPort p s t) : OnPort p s (releaseUnstarted p t) := by
  unfold Machine.releaseUnstarted
  split
  · exact h.releaseResv
  · exact h

theorem setPower (h : OnPort p s t) (new : Power) : OnPort p s (setPower p new t) := by
  unfold Machine.setPower
  dsimp only
  have g := h.modPort (Port.enter t.clock new)
  split
  · exact g.markPort.settleCommitment
  · exact g.settleCommitment

theorem clearEntries (h : OnPort p s t) : OnPort p s (clearEntries p t) := by
  unfold Machine.clearEntries
  exact h.fewerAdv _

theorem dropEntry (h : OnPort p s t) (a : Nat) : OnPort p s (dropEntry p a t) := by
  unfold Machine.dropEntry
  exact h.fewerAdv _

theorem appendEntry (h : OnPort p s t) (pr : Pair) (v : Bool) (life : Nat) : OnPort p s (appendEntry p pr v life t) := by
  unfold Machine.appendEntry
  exact (h.dropEntry pr.attr).fewerAdv _

theorem startRest (h : OnPort p s t) : OnPort p s (startRest p t) := by
  unfold Machine.startRest
  split
  · exact h.mod _
  · exact h

theorem dropHold (h : OnPort p s t) (cue : Nat) : OnPort p s (dropHold cue p t) := by
  unfold Machine.dropHold
  split
  · split
    · exact h.mod _
    · exact h
  · exact h

theorem checkEntries (h : OnPort p s t) (form : CheckForm) (pairs : List Pair) :
    OnPort p s (checkEntries p form pairs t) := by
  unfold Machine.checkEntries
  split
  · exact h.fewerAdv _
  · exact h
  · exact h

theorem setPrep (h : OnPort p s t) (cue : Nat) (v : Prep) : OnPort p s (setPrep cue p v t) := by
  unfold Machine.setPrep
  exact h.modCue _ _

theorem prepareMember (h : OnPort p s t) (c : Cue) : OnPort p s (prepareMember c p t) := by
  unfold Machine.prepareMember
  dsimp only
  split
  · exact (h.checkEntries _ _).setPrep _ _
  · exact ((h.checkEntries _ _).modPort _).setPrep _ _

theorem checkOnReady (h : OnPort p s t) : OnPort p s (checkOnReady p t) := by
  unfold Machine.checkOnReady
  exact h.forEach _ _ fun c _ g => g.prepareMember c

theorem handOver (h : OnPort p s t) : OnPort p s (handOver p t) := by
  unfold Machine.handOver
  split
  · split
    · exact h.modPort _
    · exact h
  · exact h

theorem loseSettings (h : OnPort p s t) : OnPort p s (loseSettings p t) := by
  refine h.forEach _ _ fun c u g => ?_
  split
  · exact (g.modPort _).setPrep _ _
  · exact g.setPrep _ _
  all_goals exact g

theorem enqueueJob (h : OnPort p s t) (k : JobKind) : OnPort p s (enqueueJob p k t) := by
  unfold Machine.enqueueJob
  exact h.modPort _

theorem enterDoze (h : OnPort p s t) : OnPort p s (enterDoze p t) := by
  unfold Machine.enterDoze
  exact (h.setPower _).enqueueJob _

theorem enterDeep (h : OnPort p s t) : OnPort p s (enterDeep p t) := by
  unfold Machine.enterDeep
  exact (((h.setPower _).setOffload _).clearEntries).loseSettings

theorem startKeepwarm (h : OnPort p s t) : OnPort p s (startKeepwarm p t) := by
  unfold Machine.startKeepwarm
  split
  · exact h.mod _
  · exact h.enterDoze

theorem enterKeepwarm (h : OnPort p s t) : OnPort p s (enterKeepwarm p t) := by
  unfold Machine.enterKeepwarm
  exact ((h.setPower _).enqueueJob _).startKeepwarm

theorem pauseAction (h : OnPort p s t) (x : Target) : OnPort p s (pauseAction p x t) := by
  unfold Machine.pauseAction
  split
  · exact h.enterDoze
  · exact h.enterKeepwarm
  · exact h.enterDeep

theorem pauseReady (h : OnPort p s t) (ps : Pause) : OnPort p s (pauseReady p ps t) := by
  unfold Machine.pauseReady
  split
  · exact h.setPower _
  · exact h.pauseAction _

theorem pausingEvent (h : OnPort p s t) : OnPort p s (pausingEvent p t) := by
  unfold Machine.pausingEvent
  split
  · split
    · exact h
    · exact h.pauseAction _
  · exact h

theorem enterReady (h : OnPort p s t) (rest : Bool) : OnPort p s (enterReady p rest t) := by
  unfold Machine.enterReady
  dsimp only
  refine OnPort.handOver ?_
  have g := h.setPower (.ready none none)
  split
  · exact g.pauseReady _
  · split
    · exact (g.startRest).checkOnReady
    · exact g.checkOnReady

theorem wakeDone (h : OnPort p s t) : OnPort p s (wakeDone p t) := by
  unfold Machine.wakeDone
  split
  · exact h.enterReady _
  · exact h

theorem setDisp (h : OnPort p s t) (cue : Nat) (d : Option Disp) (r : Option Nat) :
    OnPort p s (setDisp cue p d r t) := by
  unfold Machine.setDisp
  exact h.modCue _ _

theorem setResv (h : OnPort p s t) (r : Option Reservation) : OnPort p s (setResv p r t) := by
  unfold Machine.setResv
  exact h.mod _

theorem placeFor (h : OnPort p s t) (cue req : Nat) : OnPort p s (placeFor p cue req t) := by
  unfold Machine.placeFor
  repeat' split
  · exact (h.setResv _).setDisp _ _ _
  · exact h
  · exact h

theorem commit (h : OnPort p s t) : OnPort p s (commit p t) := by
  unfold Machine.commit
  exact h.mod _

theorem withdraw (h : OnPort p s t) : OnPort p s (withdraw p t) := by
  unfold Machine.withdraw
  exact h.setResv _

theorem rewriteEntries (h : OnPort p s t) (x old : Nat) : OnPort p s (rewriteEntries p x old t) := by
  unfold Machine.rewriteEntries
  split
  · exact h.forEach _ _ fun c u g => g.setDisp _ _ _
  · exact h

theorem coverBy (h : OnPort p s t) (cue req ready : Nat) : OnPort p s (coverBy p cue req ready t) := by
  unfold Machine.coverBy
  exact h.setDisp _ _ _

theorem planPaused (h : OnPort p s t) (cue req : Nat) : OnPort p s (planPaused p cue req t) := by
  unfold Machine.planPaused
  repeat' split
  · exact h.coverBy _ _ _
  · exact h.setDisp _ _ _
  · exact (((h.withdraw).placeFor cue req).rewriteEntries cue _).settleCommitment
  · exact h.setDisp _ _ _
  · exact h.placeFor _ _
  · exact (h.commit).placeFor _ _
  · exact h.setDisp _ _ _

theorem planOne (h : OnPort p s t) (cue : Nat) : OnPort p s (planOne p cue t) := by
  unfold Machine.planOne
  split
  · exact h
  · dsimp only
    repeat' split
    all_goals first
      | exact h
      | exact h.setDisp _ _ _
      | exact h.coverBy _ _ _
      | exact h.planPaused _ _
      | exact (h.setDisp _ _ _).enterReady _

theorem replan (h : OnPort p s t) : OnPort p s (replan p t) := by
  unfold Machine.replan
  exact h.forEach _ _ fun _ _ g => g.planOne _

theorem undoReservation (h : OnPort p s t) : OnPort p s (undoReservation p t) := by
  unfold Machine.undoReservation
  split
  · exact ((h.withdraw).replan).settleCommitment
  · exact h

theorem reneed (h : OnPort p s t) (cue : Nat) : OnPort p s (reneed cue p t) := by
  unfold Machine.reneed
  repeat' split
  · exact h
  · exact (h.setResv _).replan
  · exact h.releaseResv
  · exact h

theorem placeAsap (h : OnPort p s t) : OnPort p s (placeAsap p t) := by
  unfold Machine.placeAsap
  repeat' split
  · exact h.setResv _
  · exact h
  · exact h

theorem exclude (h : OnPort p s t) (d : Disp) : OnPort p s (exclude p d t) := by
  unfold Machine.exclude
  exact h.forEach _ _ fun _ _ g => g.setDisp _ _ _

theorem startDeepWake (h : OnPort p s t) (r : Reservation) : OnPort p s (startDeepWake p r t) := by
  unfold Machine.startDeepWake
  exact (h.modPort _).setPower _

theorem startResume (h : OnPort p s t) (f : Forecast) : OnPort p s (startResume p f t) := by
  unfold Machine.startResume
  split
  · exact h
  · refine OnPort.setPower ?_ _
    exact h.modPort _ fun c hc => (camMark_removeJobs c _).trans hc
  · exact h

theorem reportCue (h : OnPort p s t) (id : Nat) : OnPort p s (reportCue id t) := by
  unfold Machine.reportCue
  repeat' split
  · exact (h.addReport _).removeCue id
  · exact h.modCue _ _
  · exact h

theorem finishCue (h : OnPort p s t) (id : Nat) : OnPort p s (finishCue id t) := by
  unfold Machine.finishCue
  exact (h.modCue _ _).reportCue id

theorem confirmEnd (h : OnPort p s t) (id : Nat) : OnPort p s (confirmEnd id t) := by
  unfold Machine.confirmEnd
  repeat' split
  · exact h.finishCue id
  · exact h
  · exact h

theorem restAfter (h : OnPort p s t) (cue : Nat) : OnPort p s (restAfter cue p t) := by
  unfold Machine.restAfter
  repeat' split
  · exact h.startRest
  · exact (h.dropHold cue).startRest
  · exact h
  · exact h

theorem recordLossIn (h : OnPort p s t) (d : Disp) (o : CamOutcome) (c : Cue) :
    OnPort p s (recordLossIn p d o c t) := by
  unfold Machine.recordLossIn
  repeat' split
  · exact h
  · exact h.modCue _ _
  · exact h.modCue _ _
  · exact h.modCue _ _
  · exact h.modCue _ _
  · exact (h.modCue _ _).confirmEnd _
  · exact h
  · exact h

theorem recordLoss (h : OnPort p s t) (d : Disp) (o : CamOutcome) : OnPort p s (recordLoss p d o t) := by
  unfold Machine.recordLoss
  exact h.forEach _ _ fun c _ g => g.recordLossIn d o c

theorem refuseQueued (h : OnPort p s t) : OnPort p s (refuseQueued p t) := by
  unfold Machine.refuseQueued
  exact h.forEach _ _ fun j _ g => g.answerBadState j

theorem enterFault (h : OnPort p s t) (x : FaultCause) : OnPort p s (enterFault p x t) := by
  unfold Machine.enterFault
  exact ((((((h.refuseQueued.modPort _).mod _).setPower _).clearEntries).setOffload _).modPort _).recordLoss _ _

theorem takePause (h : OnPort p s t) (ps : Pause) : OnPort p s (takePause p ps t) := by
  unfold Machine.takePause
  split
  · exact h.pauseReady _
  · exact h.mod _
  · exact h.mod _
  · exact h.mod _
  · split
    · exact (h.enterDeep).undoReservation
    · exact h
  · split
    · exact (h.enterDoze).undoReservation
    · exact (h.enterDeep).undoReservation
    · exact h
  · exact h
  · exact h
  · exact h

theorem thermalProtect (h : OnPort p s t) : OnPort p s (thermalProtect p t) := by
  unfold Machine.thermalProtect
  dsimp only
  have g := (h.releaseUnstarted).exclude .thermal
  repeat' split
  all_goals first
    | exact g
    | exact g.takePause _

theorem thermalRead (h : OnPort p s t) (v : Byte) : OnPort p s (thermalRead p v t) := by
  have step (u : State) (hu : OnPort p s u) : OnPort p s (u.modPort p ({ · with grade := some (thermalGrade v) })) :=
    hu.mod _
  have flag : OnPort p s (if (t.port p).grade != some (thermalGrade v) || thermalChanged v then Machine.setGradeChanged p t
      else t) := by
    split
    · exact h.setGradeChanged
    · exact h
  unfold Machine.thermalRead
  dsimp only
  generalize (if (t.port p).grade != some (thermalGrade v) || thermalChanged v then Machine.setGradeChanged p t
      else t) = u at flag
  have g := step u flag
  repeat' split
  · exact g.thermalProtect
  · exact g.replan
  · exact g

theorem powerModeFailed (h : OnPort p s t) (x : Target) : OnPort p s (powerModeFailed p x t) := by
  unfold Machine.powerModeFailed
  repeat' split
  · exact ((h.enterReady true).addAbandoned).undoReservation
  · exact ((h.commit).enterReady true).addAbandoned
  · exact h.enterDeep
  · exact h

theorem endRestore (h : OnPort p s t) : OnPort p s (endRestore p t) := by
  unfold Machine.endRestore
  repeat' split
  · exact h.mod _
  · exact h.wakeDone
  · exact h
  · exact h

theorem dropOrder (h : OnPort p s t) : OnPort p s (dropOrder p t) := by
  unfold Machine.dropOrder
  exact h.mod _

theorem identityChange (h : OnPort p s t) : OnPort p s (identityChange p t) := by
  unfold Machine.identityChange
  exact (((((((h.releaseUnstarted).clearEntries).dropOrder).markPort).loseSettings).replan).endRestore)

theorem prepEnd (h : OnPort p s t) (cue : Nat) (ok : Bool) : OnPort p s (prepEnd cue p ok t) := by
  unfold Machine.prepEnd
  repeat' split
  all_goals first
    | exact h
    | exact h.setPrep _ _

theorem returnOrder (h : OnPort p s t) (o : Order) : OnPort p s (returnOrder p o t) := by
  unfold Machine.returnOrder
  split
  · exact h.mod _
  · exact h

theorem startCheckFailed (h : OnPort p s t) (j : Job) : OnPort p s (startCheckFailed p j t) := by
  unfold Machine.startCheckFailed
  split
  · exact h.giveAnswer _ _
  · exact h.giveAnswer _ _
  · exact h.prepEnd _ _
  · exact h.returnOrder _
  all_goals exact h

theorem startWaitingResume (h : OnPort p s t) : OnPort p s (startWaitingResume p t) := by
  unfold Machine.startWaitingResume
  split
  · exact h.startResume _
  · exact h

/-- A job ends, whatever its result may do. -/
theorem jobEnd (h : OnPort p s t) (j : Job) (result : State → State)
    (hr : ∀ u, OnPort p s u → OnPort p s (result u)) : OnPort p s (jobEnd p j result t) := by
  have g := (hr _ (h.modPort (fun c => { c with queue := c.queue.tail }))).modPort Port.serveRoom
  unfold Machine.jobEnd
  dsimp only
  generalize (result (t.modPort p fun c => { c with queue := c.queue.tail })).modPort p Port.serveRoom = u at g ⊢
  have g1 : OnPort p s (if j.holdsPause then Machine.pausingEvent p u else u) := by
    split
    · exact g.pausingEvent
    · exact g
  generalize (if j.holdsPause then Machine.pausingEvent p u else u) = v at g1 ⊢
  have g2 : OnPort p s (if j.isPowerMode && j.started then Machine.startWaitingResume p v else v) := by
    split
    · exact g1.startWaitingResume
    · exact g1
  generalize (if j.isPowerMode && j.started then Machine.startWaitingResume p v else v) = w at g2 ⊢
  split
  · exact g2.modPort _
  · exact g2

theorem setLane (h : OnPort p s t) (e : Option Exchange) : OnPort p s (setLane p e t) := by
  unfold Machine.setLane
  exact h.mod _

theorem clearOwed (h : OnPort p s t) : OnPort p s (clearOwed p t) := by
  unfold Machine.clearOwed
  split
  · exact h.mod _
  · exact h

theorem markStarted (h : OnPort p s t) : OnPort p s (markStarted p t) := by
  unfold Machine.markStarted
  refine h.modPort _ fun c hc => ?_
  split <;> exact hc

theorem chooseNext (h : OnPort p s t) (n : Nat) : OnPort p s (chooseNext p n t) := by
  induction n generalizing t with
  | zero => exact h
  | succ n ih =>
    unfold Machine.chooseNext
    dsimp only
    split
    · exact h
    · split
      · exact (h.clearOwed).setLane _
      · split
        · exact h
        · split
          · split
            · exact ih (h.jobEnd _ id fun _ g => g)
            · exact h.setLane _
          · split
            · exact (h.markStarted).setLane _
            · exact ih (h.jobEnd _ _ fun _ g => g.startCheckFailed _)

/-- The choice of a lane. -/
theorem kick (h : OnPort p s t) : OnPort p s (kick p t) := by
  unfold Machine.kick
  exact h.chooseNext _

theorem setPhase (h : OnPort p s t) (ph : Phase) (o : Option WakeEx) : OnPort p s (setPhase p ph o t) := by
  unfold Machine.setPhase
  split
  · exact h.mod _
  · exact h

theorem beginCalibrate (h : OnPort p s t) : OnPort p s (beginCalibrate p t) := by
  unfold Machine.beginCalibrate
  exact h.setPhase _ _

theorem beginInitWait (h : OnPort p s t) (r : Nat) : OnPort p s (beginInitWait p r t) := by
  unfold Machine.beginInitWait
  exact h.setPhase _ _

theorem beginRestore (h : OnPort p s t) : OnPort p s (beginRestore p t) := by
  unfold Machine.beginRestore
  split
  · exact h.wakeDone
  · exact h.setPhase _ _

theorem resumeNotReady (h : OnPort p s t) (n : Nat) : OnPort p s (resumeNotReady p n t) := by
  unfold Machine.resumeNotReady
  split
  · exact h.setPhase _ _
  · exact h.enterFault _

theorem wakeSuccess (h : OnPort p s t) (e : WakeEx) (d : Byte) : OnPort p s (wakeSuccess p e d t) := by
  unfold Machine.wakeSuccess
  split
  · split
    · exact h.beginInitWait _
    · exact h.setPhase _ _
    · split
      · exact h.beginCalibrate
      · exact h
    · exact h.setPhase _ _
    · exact h.setPhase _ _
    · exact h.wakeDone
    · split
      · exact h.wakeDone
      · exact h.resumeNotReady _
    · exact h
  · exact h

theorem wakeFailure (h : OnPort p s t) (e : WakeEx) : OnPort p s (wakeFailure p e t) := by
  unfold Machine.wakeFailure
  split
  · split
    · exact h.enterFault _
    · exact h.enterFault _
    · exact h.enterFault _
    · exact h.resumeNotReady _
    · exact h
  · exact h

theorem recordWrite (h : OnPort p s t) (pr : Pair) (ok : Bool) (l : Nat) :
    OnPort p s (recordWrite p pr ok l t) := by
  unfold Machine.recordWrite
  split
  · exact h
  · exact h.appendEntry _ _ _

theorem setHead (h : OnPort p s t) (k : JobKind) : OnPort p s (setHead p k t) := by
  unfold Machine.setHead
  refine h.modPort _ fun c hc => ?_
  split <;> exact hc

theorem pingEnd (h : OnPort p s t) : OnPort p s (pingEnd p t) := by
  unfold Machine.pingEnd
  dsimp only
  split
  · split
    · exact h.startKeepwarm
    · exact (h.startKeepwarm).undoReservation
  · exact h

theorem countFailure (h : OnPort p s t) : OnPort p s (countFailure p t) := by
  have g := h.modPort (fun c => { c with
    run := min 3 (c.run + 1), grade := none, reading := if c.power.railOn then none else c.reading })
  unfold Machine.countFailure
  dsimp only
  generalize t.modPort p (fun c => { c with
    run := min 3 (c.run + 1), grade := none, reading := if c.power.railOn then none else c.reading }) = u at g
  have g1 : OnPort p s (if (t.port p).grade.isNone then u else Machine.setGradeChanged p u) := by
    split
    · exact g
    · exact g.setGradeChanged
  generalize (if (t.port p).grade.isNone then u else Machine.setGradeChanged p u) = v at g1
  have g2 : OnPort p s (if (v.port p).run = 3 && !(v.port p).power.isLost then Machine.enterFault p .laneLost v else v) := by
    split
    · exact g1.enterFault _
    · exact g1
  generalize (if (v.port p).run = 3 && !(v.port p).power.isLost then Machine.enterFault p .laneLost v else v) = w at g2
  split
  · exact g2
  · exact g2.modPort _

theorem unbindPort (h : OnPort p s t) : OnPort p s (unbindPort p t) := by
  unfold Machine.unbindPort
  split
  · exact h.setEntry _ _
  · exact h

theorem enterVacant (h : OnPort p s t) : OnPort p s (enterVacant p t) := by
  unfold Machine.enterVacant
  dsimp only
  refine OnPort.recordLoss (OnPort.setMediaFull (OnPort.setOffload (OnPort.setHostPause ?_ _) _) _) _ _
  refine OnPort.setPower (OnPort.clearEntries (OnPort.unbindPort ?_)) _
  exact (h.forEach _ _ fun j _ g => g.answerBadState j).modPort _

theorem presenceRise (h : OnPort p s t) : OnPort p s (presenceRise p t) := by
  unfold Machine.presenceRise
  split
  · dsimp only
    exact (OnPort.enterDeep (h.modPort _)).modPort _
  · exact h

theorem presenceFall (h : OnPort p s t) : OnPort p s (presenceFall p t) := by
  unfold Machine.presenceFall
  split
  · exact h
  · exact h.enterVacant

end OnPort

end Sys2Proof.Machine
end

