-- ==== Sys2Proof/Laws/PerInstr.lean ====
section
/-! SUPPORT. Per command: when its term is well-formed, read from the fields it carries. -/

namespace Sys2Proof.Laws.WfRow

set_option Elab.async false

/-- The cue id of a timed cue event. -/
def cue? : Instr → Option Nat
  | .horizonEntry c => some c
  | .preparationStart c => some c
  | .fireRequestTime c => some c
  | .slackExpiry c => some c
  | .confirmTimeout c => some c
  | _ => none

/-- The attribute number of an advance entry's expiry. -/
def attr? : Instr → Option Nat
  | .advanceEntryExpiry _ a => some a
  | _ => none

/-- The bytes of an UNKNOWN_KIND. -/
def bytes? : Instr → Option (List Byte)
  | .unknownKind bs => some bs
  | _ => none

/-- A command is well-formed exactly when the number it carries is in the range of its table: a cue id 1–255 (Table 27), an
attribute 16–23 (Table 45), bytes that name no request (R178, R179); any other command always is. -/
def Statement (i : Instr) : Prop :=
  i.wf = true ↔
    (∀ c, cue? i = some c → 1 ≤ c ∧ c ≤ 255) ∧ (∀ a, attr? i = some a → 16 ≤ a ∧ a ≤ 23) ∧
      (∀ bs, bytes? i = some bs → namesNoRequest bs = true)

/-- Nothing is asked of a field that is not carried. -/
theorem nope {α : Type} {o : Option α} {P : α → Prop} (h : o = none) (c : α) (e : o = some c) : P c := by
  rw [h] at e
  cases e

/-- What is asked of the field that is carried. -/
theorem only {α : Type} {o : Option α} {P : α → Prop} {n : α} (h : o = some n) (hp : P n) (c : α) (e : o = some c) :
    P c := by
  rw [h] at e
  cases e
  exact hp

/-- A command that carries none of these is well-formed. -/
theorem always {i : Instr} (h : i.wf = true) (hc : cue? i = none) (ha : attr? i = none)
    (hb : bytes? i = none) : Statement i :=
  ⟨fun _ => ⟨nope hc, nope ha, nope hb⟩, fun _ => h⟩

/-- A timed cue event is well-formed exactly for a cue id. -/
theorem ofCue {i : Instr} {n : Nat} (h : i.wf = decide (1 ≤ n ∧ n ≤ 255)) (hc : cue? i = some n) (ha : attr? i = none)
    (hb : bytes? i = none) : Statement i :=
  ⟨fun w => ⟨only hc (of_decide_eq_true (h.symm.trans w)), nope ha, nope hb⟩,
    fun g => h.trans (decide_eq_true (g.1 n hc))⟩

theorem describe (r : Request) : Statement (.describe r) :=
  always rfl rfl rfl rfl

theorem clock (r : Request) : Statement (.clock r) :=
  always rfl rfl rfl rfl

theorem restart (r : Request) : Statement (.restart r) :=
  always rfl rfl rfl rfl

theorem stationSet (r : Request) : Statement (.stationSet r) :=
  always rfl rfl rfl rfl

theorem stationGet (r : Request) : Statement (.stationGet r) :=
  always rfl rfl rfl rfl

theorem budgetSet (r : Request) : Statement (.budgetSet r) :=
  always rfl rfl rfl rfl

theorem portSet (r : Request) : Statement (.portSet r) :=
  always rfl rfl rfl rfl

theorem cameraGet (r : Request) : Statement (.cameraGet r) :=
  always rfl rfl rfl rfl

theorem clearFault (r : Request) : Statement (.clearFault r) :=
  always rfl rfl rfl rfl

theorem wake (r : Request) : Statement (.wake r) :=
  always rfl rfl rfl rfl

theorem pause (r : Request) : Statement (.pause r) :=
  always rfl rfl rfl rfl

theorem attrGet (r : Request) : Statement (.attrGet r) :=
  always rfl rfl rfl rfl

theorem attrSet (r : Request) : Statement (.attrSet r) :=
  always rfl rfl rfl rfl

theorem cuePost (r : Request) : Statement (.cuePost r) :=
  always rfl rfl rfl rfl

theorem cueCancel (r : Request) : Statement (.cueCancel r) :=
  always rfl rfl rfl rfl

theorem cueList (r : Request) : Statement (.cueList r) :=
  always rfl rfl rfl rfl

theorem settle (r : Request) : Statement (.settle r) :=
  always rfl rfl rfl rfl

theorem aheadWake (r : Request) : Statement (.aheadWake r) :=
  always rfl rfl rfl rfl

theorem aheadDrop (r : Request) : Statement (.aheadDrop r) :=
  always rfl rfl rfl rfl

theorem fireUnlock (r : Request) : Statement (.fireUnlock r) :=
  always rfl rfl rfl rfl

theorem idList (r : Request) : Statement (.idList r) :=
  always rfl rfl rfl rfl

theorem idPin (r : Request) : Statement (.idPin r) :=
  always rfl rfl rfl rfl

theorem idUnpin (r : Request) : Statement (.idUnpin r) :=
  always rfl rfl rfl rfl

theorem idClear (r : Request) : Statement (.idClear r) :=
  always rfl rfl rfl rfl

theorem idAging (r : Request) : Statement (.idAging r) :=
  always rfl rfl rfl rfl

theorem trapSet (r : Request) : Statement (.trapSet r) :=
  always rfl rfl rfl rfl

theorem trapGet (r : Request) : Statement (.trapGet r) :=
  always rfl rfl rfl rfl

theorem eventsFetch (r : Request) : Statement (.eventsFetch r) :=
  always rfl rfl rfl rfl

theorem unknownKind (bytes : List Byte) : Statement (.unknownKind bytes) :=
  ⟨fun w => ⟨nope rfl, nope rfl, only rfl w⟩, fun g => g.2.2 bytes rfl⟩

theorem inTransfer : Statement .inTransfer :=
  always rfl rfl rfl rfl

theorem inTransferComplete : Statement .inTransferComplete :=
  always rfl rfl rfl rfl

theorem inTransferAbandoned : Statement .inTransferAbandoned :=
  always rfl rfl rfl rfl

theorem restartExpiry : Statement .restartExpiry :=
  always rfl rfl rfl rfl

theorem masterReset : Statement .masterReset :=
  always rfl rfl rfl rfl

theorem usbReattach : Statement .usbReattach :=
  always rfl rfl rfl rfl

theorem presenceRise (p : PortId) (attention : Bool) : Statement (.presenceRise p attention) :=
  always rfl rfl rfl rfl

theorem presenceFall (p : PortId) : Statement (.presenceFall p) :=
  always rfl rfl rfl rfl

theorem attentionRise (p : PortId) : Statement (.attentionRise p) :=
  always rfl rfl rfl rfl

theorem railOvercurrent (p : PortId) : Statement (.railOvercurrent p) :=
  always rfl rfl rfl rfl

theorem laneResponse (p : PortId) (status : Byte) (data : Byte) (check : Byte) (attention : Bool) : Statement (.laneResponse p status data check attention) :=
  always rfl rfl rfl rfl

theorem responseLimitExpiry (p : PortId) (attention : Bool) : Statement (.responseLimitExpiry p attention) :=
  always rfl rfl rfl rfl

theorem reservationStart (p : PortId) : Statement (.reservationStart p) :=
  always rfl rfl rfl rfl

theorem reservationWindowEnd (p : PortId) : Statement (.reservationWindowEnd p) :=
  always rfl rfl rfl rfl

theorem rampEnd (p : PortId) : Statement (.rampEnd p) :=
  always rfl rfl rfl rfl

theorem resetHoldEnd (p : PortId) : Statement (.resetHoldEnd p) :=
  always rfl rfl rfl rfl

theorem initWaitRead (p : PortId) : Statement (.initWaitRead p) :=
  always rfl rfl rfl rfl

theorem initMaxExpiry (p : PortId) : Statement (.initMaxExpiry p) :=
  always rfl rfl rfl rfl

theorem calibrateWaitEnd (p : PortId) : Statement (.calibrateWaitEnd p) :=
  always rfl rfl rfl rfl

theorem resumeRead (p : PortId) : Statement (.resumeRead p) :=
  always rfl rfl rfl rfl

theorem keepwarmTimerExpiry (p : PortId) : Statement (.keepwarmTimerExpiry p) :=
  always rfl rfl rfl rfl

theorem dozeLimitExpiry (p : PortId) : Statement (.dozeLimitExpiry p) :=
  always rfl rfl rfl rfl

theorem pauseWaitExpiry (p : PortId) : Statement (.pauseWaitExpiry p) :=
  always rfl rfl rfl rfl

theorem restTimerExpiry (p : PortId) : Statement (.restTimerExpiry p) :=
  always rfl rfl rfl rfl

theorem horizonEntry (cue : Nat) : Statement (.horizonEntry cue) :=
  ofCue rfl rfl rfl rfl

theorem preparationStart (cue : Nat) : Statement (.preparationStart cue) :=
  ofCue rfl rfl rfl rfl

theorem fireRequestTime (cue : Nat) : Statement (.fireRequestTime cue) :=
  ofCue rfl rfl rfl rfl

theorem slackExpiry (cue : Nat) : Statement (.slackExpiry cue) :=
  ofCue rfl rfl rfl rfl

theorem fullPress : Statement .fullPress :=
  always rfl rfl rfl rfl

theorem syncPulse : Statement .syncPulse :=
  always rfl rfl rfl rfl

theorem syncPulseEnd : Statement .syncPulseEnd :=
  always rfl rfl rfl rfl

theorem release : Statement .release :=
  always rfl rfl rfl rfl

theorem freeing : Statement .freeing :=
  always rfl rfl rfl rfl

theorem confirmTimeout (cue : Nat) : Statement (.confirmTimeout cue) :=
  ofCue rfl rfl rfl rfl

theorem lockExpiry : Statement .lockExpiry :=
  always rfl rfl rfl rfl

theorem settleTimeout (st : StationId) : Statement (.settleTimeout st) :=
  always rfl rfl rfl rfl

theorem idAgingExpiry (k : Position) : Statement (.idAgingExpiry k) :=
  always rfl rfl rfl rfl

theorem clearWalkVisit : Statement .clearWalkVisit :=
  always rfl rfl rfl rfl

theorem clearWalkEnd : Statement .clearWalkEnd :=
  always rfl rfl rfl rfl

theorem advanceEntryExpiry (p : PortId) (attr : Nat) : Statement (.advanceEntryExpiry p attr) :=
  ⟨fun w => ⟨nope rfl, only rfl (of_decide_eq_true w), nope rfl⟩,
    fun g => decide_eq_true (g.2.1 attr rfl)⟩

theorem orderExpiry (p : PortId) : Statement (.orderExpiry p) :=
  always rfl rfl rfl rfl

theorem railSense (p : PortId) (current : Nat) : Statement (.railSense p current) :=
  always rfl rfl rfl rfl

end Sys2Proof.Laws.WfRow
end

