-- ==== Sys2Proof/Laws/Records.lean ====
section
/-! SUPPORT. What the operations on a port's record leave of it: the job operations write the queue and its marks alone, an entry
to a camera state writes the state, the rail's fields and the marks. Cited in place of unfolding them. -/

namespace Sys2Proof.Machine

set_option Elab.async false

/-! ## The record without its jobs -/

/-- A record with no job and no mark of one. -/
def Port.body (c : Port) : Port :=
  { c with queue := [], waitLine := [], markPoll := false, markThermal := false, markPing := false }

section
variable (c : Port)

@[simp] theorem body_pushJob (k : JobKind) : (pushJob k c).body = c.body := rfl

@[simp] theorem body_enqueue (k : JobKind) : (c.enqueue k).body = c.body := by
  unfold Port.enqueue; split <;> rfl

@[simp] theorem body_testPoll : c.testPoll.body = c.body := by
  unfold Port.testPoll; repeat' split
  all_goals rfl

@[simp] theorem body_oweThermal : c.oweThermal.body = c.body := by
  unfold Port.oweThermal; repeat' split
  all_goals rfl

@[simp] theorem body_owePing : c.owePing.body = c.body := by
  unfold Port.owePing; repeat' split
  all_goals rfl

@[simp] theorem body_oweIdentify : c.oweIdentify.body = c.body := by
  unfold Port.oweIdentify; split
  · rfl
  · simp

@[simp] theorem body_servePoll (n : Nat) : (c.servePoll n).body = c.body := by
  unfold Port.servePoll; split
  · dsimp only; split <;> rfl
  · rfl

@[simp] theorem body_serveThermal (n : Nat) : (c.serveThermal n).body = c.body := by
  unfold Port.serveThermal; split
  · dsimp only; split <;> rfl
  · rfl

@[simp] theorem body_servePing (n : Nat) : (c.servePing n).body = c.body := by
  unfold Port.servePing; split
  · dsimp only; split <;> rfl
  · rfl

@[simp] theorem body_serveLine (n : Nat) : (c.serveLine n).body = c.body := rfl

@[simp] theorem body_serveUpTo (n : Nat) : (c.serveUpTo n).body = c.body := by simp [Port.serveUpTo]

@[simp] theorem body_serveRoom : c.serveRoom.body = c.body := by simp [Port.serveRoom]

@[simp] theorem body_removeJobs (f : Job → Bool) : (c.removeJobs f).body = c.body := by
  rw [Port.removeJobs, body_serveUpTo]
  rfl

@[simp] theorem body_cutFlight (f : Job → Bool) (v : Bool) : (c.cutFlight f v).body = c.body := by
  unfold Port.cutFlight
  split
  · split
    · split
      · rfl
      · rw [body_serveUpTo]
        rfl
    · rfl
  · rfl

@[simp] theorem body_dropPings : c.dropPings.body = c.body := by
  rw [Port.dropPings, body_removeJobs]
  rfl

@[simp] theorem body_warmJobs : c.warmJobs.body = c.body := by simp [Port.warmJobs]

@[simp] theorem body_faultJobs : c.faultJobs.body = c.body := by
  rw [Port.faultJobs, body_cutFlight]
  rfl

end

/-- A queue with no mark and nothing in line has nothing to serve. -/
theorem serveRoom_idle {c : Port} (hp : c.markPoll = false) (ht : c.markThermal = false) (hg : c.markPing = false)
    (hw : c.waitLine = []) : c.serveRoom = c := by
  have p (n : Nat) : c.servePoll n = c := by simp [Port.servePoll, hp]
  have t (n : Nat) : c.serveThermal n = c := by simp [Port.serveThermal, ht]
  have g (n : Nat) : c.servePing n = c := by simp [Port.servePing, hg]
  simp only [Port.serveRoom, Port.serveUpTo, p, t, g, Port.serveLine, hw, List.take_nil, List.drop_nil, List.append_nil]
  cases c
  simp_all

/-! ## Entry to a camera state -/

/-- What an entry to a camera state leaves of a record: all but the state, the rail's fields, the waiting resume and the jobs. -/
def Port.kept (c : Port) : Port :=
  { c.body with power := .vacant, overFrom := none, sensed := none, limitInForce := 0, reading := none, resumeWait := none }

section
variable (c : Port) (now : Nat) (new : Power)

@[simp] theorem power_enter : (Port.enter now new c).power = new := by
  have h : (({ c with power := new } : Port).railChange now c.power).dropResumeWait.power = new := by
    unfold Port.dropResumeWait Port.railChange
    repeat' split
    all_goals rfl
  unfold Port.enter
  dsimp only
  split
  · exact (congrArg Port.power (body_dropPings _)).trans h
  · exact h

@[simp] theorem kept_enter : (Port.enter now new c).kept = c.kept := by
  have h : (({ c with power := new } : Port).railChange now c.power).dropResumeWait.kept = c.kept := by
    unfold Port.dropResumeWait Port.railChange
    repeat' split
    all_goals rfl
  unfold Port.enter
  dsimp only
  split
  · unfold Port.kept at *
    rw [body_dropPings]
    exact h
  · exact h

end

variable {s : State} {p q : PortId}

/-- The report mark aside, a record is as it was. -/
def Port.unmarked (c : Port) : Port := { c with camMark := false }

@[simp] theorem unmarked_markPort (p q : PortId) (s : State) : ((markPort p s).port q).unmarked = (s.port q).unmarked := by
  unfold markPort
  repeat' split
  all_goals first
    | rfl
    | (rw [port_modPort]; split <;> rfl)

/-- The commitment aside, a record is as it was. -/
@[simp] theorem port_settleCommitment (p q : PortId) (s : State) :
    ((settleCommitment p s).port q) = s.port q ∨
      ((settleCommitment p s).port q) = { s.port q with commitment := none } := by
  unfold settleCommitment
  split
  · rw [port_modPort]
    split
    · exact .inr rfl
    · exact .inl rfl
  · exact .inl rfl

/-- What an entry to a camera state leaves of the port's record. -/
def Port.base (c : Port) : Port := { c.kept.unmarked with commitment := none }

theorem setPower_record (p : PortId) (new : Power) (s : State) :
    ((setPower p new s).port p).power = new ∧ ((setPower p new s).port p).base = (s.port p).base := by
  unfold setPower
  dsimp only
  have e : ∀ t : State, (t.port p).unmarked = (Port.enter s.clock new (s.port p)).unmarked →
      ((settleCommitment p t).port p).power = new ∧ ((settleCommitment p t).port p).base = (s.port p).base := by
    intro t h
    have hp : (t.port p).power = new := by
      have := congrArg Port.power h
      exact this.trans (power_enter _ _ _)
    have hk : (t.port p).base = (s.port p).base := by
      have a : (t.port p).base = (Port.enter s.clock new (s.port p)).base := by
        have := congrArg (fun c : Port => ({ c.kept with commitment := none } : Port)) h
        exact this
      rw [a]
      have := congrArg (fun c : Port => ({ c.unmarked with commitment := none } : Port)) (kept_enter (s.port p) s.clock new)
      exact this
    rcases port_settleCommitment p p t with g | g <;> rw [g]
    · exact ⟨hp, hk⟩
    · exact ⟨hp, hk⟩
  refine e _ ?_
  split
  · rw [unmarked_markPort, port_modPort_self]
  · rw [port_modPort_self]

@[simp] theorem power_setPower (p : PortId) (new : Power) (s : State) : ((setPower p new s).port p).power = new :=
  (setPower_record p new s).1

end Sys2Proof.Machine
end

