-- ==== Sys2Proof/Laws/Requests.lean ====
section
/-! SUPPORT. How a request reaches its owner: a transfer that is taken and well framed is the owner's operation, one that is
not is answered by the link, and what a reply does to the state. -/

namespace Sys2Proof.Machine

set_option Elab.async false

variable {k : ReqKind} {r : Request} {s : State}

/-- Every request of Table 66 is an OUT transfer. -/
theorem exec_ofRequest (k : ReqKind) (r : Request) (s : State) :
    exec (ofRequest k r) s = .next (takeOut (.request k r) s) := by
  cases k <;> rfl

/-- An open link takes a transfer as it completes. -/
theorem takeOut_open (h : Open s) (x : OutXfer) : takeOut x s = dispatch x s := by
  obtain ⟨a, r, l, o⟩ := h
  simp [takeOut, State.accepting, a, r, l, o, Config.replyCapacity]

/-- The checks of R178 and R179 pass exactly for a framed request. -/
theorem framed_iff : (framingOk r && lengthOk k r.body) = true ↔ Framed k r := by
  unfold framingOk Framed
  simp only [Bool.and_eq_true, decide_eq_true_eq, beq_iff_eq, Config.maxMessage]
  constructor
  · rintro ⟨⟨h, g⟩, l⟩
    exact ⟨g, by omega, l⟩
  · rintro ⟨g, h, l⟩
    exact ⟨⟨by omega, g⟩, l⟩

/-- A framed request is handed to its owner. -/
theorem takeRequest_framed (h : Framed k r) (s : State) : takeRequest k r s = serve k r.tag r.body s := by
  rw [takeRequest, if_pos (framed_iff.mpr h)]

/-- A request that is not framed is answered BAD_LENGTH. -/
theorem takeRequest_unframed (h : ¬ Framed k r) (s : State) : takeRequest k r s = refuse k r.tag .badLength s := by
  rw [takeRequest, if_neg (fun g => h (framed_iff.mp g))]

/-- A taken request is its owner's operation. -/
theorem exec_taken (h : Taken k r s) : exec (ofRequest k r) s = .next (serve k r.tag r.body s) := by
  rw [exec_ofRequest, takeOut_open h.1]
  exact congrArg _ (takeRequest_framed h.2 s)

/-- The body of a taken request has the length its kind requires. -/
theorem Taken.length (h : Taken k r s) : lengthOk k r.body = true := h.2.2.2

/-- A reply is what joins the reply line, and nothing else but the next ticket number. -/
theorem answer_eq (k : ReqKind) (tag : Byte) (st : Status) (c : List Byte) (s : State) :
    answer k tag st c s = s.replied (replyKind k) tag (st.code :: c) := rfl

theorem refuse_eq (k : ReqKind) (tag : Byte) (st : Status) (s : State) :
    refuse k tag st s = s.replied (replyKind k) tag [st.code] := rfl

end Sys2Proof.Machine
end

