-- ==== Sys2Proof/Tests/Slice0.lean ====
section
/-! SUPPORT. The model's own tests: the checks of WellFormed on ill-formed terms, single commands on small states, and for every
statement with hypotheses a state and operands that meet them. -/

namespace Sys2Proof.Tests

set_option Elab.async false
set_option maxRecDepth 20000

open Sys2Proof Sys2Proof.Machine

/-! ## Small states -/

/-- The module attached at 1,000 ms after its reset. -/
def live : State := { State.reset with attached := true, reattachAt := none, clock := 1000 }

/-- A request with a body. -/
def req (b : List Byte) : Request := ⟨7#8, BitVec.ofNat 16 b.length, b⟩

/-- A profile. -/
def prof : Profile := ⟨4, 50, 600, 3, 400, 300⟩

/-- A fitted camera in a state. -/
def cam (w : Power) : Port := { Port.reset with power := w, presence := true, grade := some 2, profile := some prof }

/-- The live module with a camera on port 3. -/
def put (c : Port) : State := live.modPort 3 (fun _ => c)

/-- A job not yet started. -/
def job (k : JobKind) : Job := ⟨k, false, false, false⟩

/-- A job in flight. -/
def flying (k : JobKind) : Job := ⟨k, true, false, false⟩

/-- The first attempt of an exchange of a job, begun at 999 ms. -/
def exch (op : LaneOp) (a : Nat) : Exchange := ⟨op, a, 0#8, false, .job, 999⟩

/-- A cue of station 1 with one member, port 3. -/
def cueIn (st : CueState) (t : Nat) : Cue where
  id := 9
  station := 1
  time := t
  posting := 1
  profile := [⟨16, 5#8⟩]
  form := .clear
  state := st
  members := [⟨3, none, none, .complete, none⟩]
  grant := none
  confirm := []
  timer := none
  mark := false

/-- The live module with a cue, and a camera on port 3. -/
def spin (c : Cue) (w : Power) : State := { put { cam w with station := some 1 } with cues := [c] }

/-- An owner of the fire unit whose grant lay 900 ms back. -/
def owner : Owner := ⟨9, 1, 100, 200, 5, 100, false, 10, false, false, false⟩

/-- An identity entry. -/
def entry (x : Ident) (b : Option PortId) : IdEntry := ⟨x, b, false, some ⟨prof, false, false⟩, [⟨16, 1#8⟩], none⟩

/-- The live module with identity 5 bound to a port, and a camera on port 3. -/
def bound5 (p : PortId) (w : Power) : State := (put (cam w)).setEntry 0 (some (entry 5#48 (some p)))

/-- The live module with 32 unbound identities from 100 on, all pinned or none. -/
def fullTable (pinned : Bool) : State :=
  { live with table := Vector.ofFn (fun i : Position =>
      some { entry (BitVec.ofNat 48 (100 + i.val)) none with pinned := pinned, unbind := some 900 }) }

/-- A table whose entries differ in their identities and in their ports is unique, as a computation says. -/
theorem unique_of {t : Vector (Option IdEntry) 32} (h : ∀ i j : Position, i ≠ j → ∀ a ∈ t[i], ∀ b ∈ t[j],
    a.ident ≠ b.ident ∧ ∀ p ∈ a.bound, b.bound ≠ some p) : TableUnique t :=
  fun i j hij a b ha hb => h i j hij a ha b hb

/-- A reservation of a camera in a paused state, from slot 100. -/
def resv (t : Target) (started : Bool) : Reservation :=
  ⟨if t = .deep then .deep else .resume, t, 100, 1, 300, 4, 104, none, started⟩

/-- An event record. -/
def event : EventRec := ⟨3, none, .button, 1#8, 990⟩

/-! ## WellFormed refuses what spells no command -/

theorem test_wf_unknownKind : Instr.wf (.unknownKind [0x01#8, 0#8, 0#8, 0#8]) = false := by decide
theorem test_wf_unknownKind_short : Instr.wf (.unknownKind [0x01#8, 0#8, 0#8]) = true := by decide
theorem test_wf_entry : Instr.wf (.advanceEntryExpiry 0 15) = false ∧ Instr.wf (.advanceEntryExpiry 0 24) = false := by decide
theorem test_wf_horizon : Instr.wf (.horizonEntry 0) = false ∧ Instr.wf (.horizonEntry 256) = false := by decide
theorem test_wf_prep : Instr.wf (.preparationStart 0) = false ∧ Instr.wf (.preparationStart 256) = false := by decide
theorem test_wf_fire : Instr.wf (.fireRequestTime 0) = false ∧ Instr.wf (.fireRequestTime 256) = false := by decide
theorem test_wf_slack : Instr.wf (.slackExpiry 0) = false ∧ Instr.wf (.slackExpiry 256) = false := by decide
theorem test_wf_confirm : Instr.wf (.confirmTimeout 0) = false ∧ Instr.wf (.confirmTimeout 256) = false := by decide

/-! ## Single commands -/

/-- R193: a READ of attribute 0 carries 0x5B. -/
theorem test_check_byte : requestCheck .read 0 0#8 = 0x5B#8 := by decide

/-- Table 73: the request frame of that READ, bit by bit. -/
theorem test_frame : (exch .read 0).frame = List.replicate 16 true ++ [true, false] ++ [false, false, true] ++
    List.replicate 6 false ++ List.replicate 8 false ++ [false, true, false, true, true, false, true, true] := by decide

/-- The next state of a command. -/
def after (c : Instr) (s : State) : Option State :=
  match exec c s with
  | .next t => some t
  | .fault _ => none
  | .refused _ => none

/-- R178: a transfer of an unknown kind is answered UNKNOWN_KIND, its kind with the top bit set. -/
theorem test_unknown_kind : after (.unknownKind [0x30#8, 7#8, 0#8, 0#8]) live =
    some { live with line := [⟨0, 0xB0#8, 7#8, some [0x03#8]⟩], tickets := 1 } := by decide

/-- R4, R40: a presence rise puts the camera in DEEP and reads its first identity byte. -/
theorem test_presence_rise : (after (.presenceRise 3 false) live).map (fun t => ((t.port 3).power, (t.port 3).lane, t.reports)) =
    some (.deep, some ⟨.read, 1, 0#8, false, .job, 1000⟩, [.camera 3]) := by decide

/-- R25, R118: a WAKE of a camera in DOZE places a resume at the next slot. -/
theorem test_wake : (after (.wake (req [3#8])) (put (cam (.doze none)))).map (fun t => ((t.port 3).resv, (t.port 3).commitment)) =
    some (some ⟨.resume, .doze, 101, 1, 300, 4, 105, none, false⟩, some 400) := by decide

/-- R188, R190: when the reply of a RESTART WARM has been sent, the module is as it was. -/
theorem test_restart_warm : ((after (.restart (req [1#8])) live).bind (fun t => (after .inTransfer t).bind
    (after .inTransferComplete))) = some { live with tickets := 1 } := by decide +kernel

/-- R19, R21, R50: a PAUSE of a READY camera to DOZE frees its commitment and writes 0x01 to attribute 15. -/
theorem test_pause : (after (.pause (req [3#8, 1#8])) (put { cam (.ready none none) with commitment := some 400 })).map
    (fun t => ((t.port 3).power, (t.port 3).commitment, (t.port 3).hostPause, (t.port 3).lane)) =
    some (.doze none, none, true, some ⟨.write, 15, 1#8, false, .job, 1000⟩) := by decide

/-- R6, R8: overcurrent faults a camera whose rail is on. -/
theorem test_overcurrent : (after (.railOvercurrent 3) (put { cam (.ready none none) with overFrom := some 990 })).map
    (fun t => ((t.port 3).power, (t.port 3).reading)) = some (.fault .railOvercurrent, some 0) := by decide

/-- R6, R79: a current above the old limit alone, under a limit raised since, faults nothing. -/
theorem test_raised_limit : after (.railOvercurrent 3) (put { cam (.ready none none) with
      overFrom := some 990, sensed := some ⟨990, 2100⟩, limitInForce := 2000, railLimit := 4000 }) =
    some (put { cam (.ready none none) with
      overFrom := some 990, sensed := some ⟨990, 2100⟩, limitInForce := 2000, railLimit := 4000 }) := by decide

/-- R1, log 37: a sensed current above 8000 mA is compared as it is, and what the reading shows is free. -/
theorem test_over_range : (after (.railSense 3 9000) (put { cam (.ready none none) with reading := some 0 })).map
    (fun t => ((t.port 3).sensed, (t.port 3).overFrom, t.freeCount)) = some (some ⟨1000, 9000⟩, some 1000, 1) := by decide

/-- R95, R149, R152: a fire request of a free unit is granted, and the prepared camera is ARMED. -/
theorem test_grant : (after (.fireRequestTime 9) (spin (cueIn .preparing 1200) (.ready none none))).map
    (fun t => ((t.port 3).power, t.owner, (t.cue? 9).map (fun c => (c.state, c.confirm)))) =
    some (.armed none false, some ⟨9, 1, 1000, 200, 5, 100, false, (live.station 1).lockTimeout, false, false, false⟩, some (.firing, [3])) := by decide

/-- R39, R166: a POLL that brings a CARD_FULL of the awaited sequence bit sets the media-full flag and queues the event. -/
theorem test_poll : (after (.laneResponse 3 0x45#8 0#8 (responseCheck 0x45#8 0#8) false)
      (put { cam (.ready none none) with queue := [flying .poll], lane := some (exch .poll 0) })).map
    (fun t => ((t.port 3).mediaFull, (t.port 3).pollBit, t.events, t.reports)) =
    some (true, true, [⟨3, none, .cardFull, 0#8, 1000⟩], [.camera 3, .events]) := by decide

/-- R31: a third failed exchange is LANE_LOST. -/
theorem test_lane_lost : (after (.responseLimitExpiry 3 false) (put { cam (.ready none none) with
      run := 2, queue := [flying .thermalRead], lane := some { exch .read 12 with retry := true, started := 997 } })).map
    (fun t => ((t.port 3).power, (t.port 3).run, (t.port 3).queue)) = some (.fault .laneLost, 3, []) := by decide

/-- R56: an identity read on a port takes the lowest free position. -/
theorem test_learn : ((identifyDone 3 0xABC#48 prof (put (cam .deep))).entryAt 0) =
    some ⟨0xABC#48, some 3, false, some ⟨prof, false, false⟩, [], none⟩ := by decide

/-- R89, R90: a post within the horizon is planned, and answered with its id, its state and its member's disposition. -/
theorem test_post : (after (.cuePost (req [1#8, 1#8, 0x10#8, 0x27#8, 0#8, 0#8, 0#8])) (put { cam (.ready none none) with
      station := some 1 })).map (fun t => t.line.map (·.body)) =
    some [some ([0x00#8, 1#8, 2#8, 1#8] ++ [3#8, 1#8, 0xFF#8, 0xFF#8, 0xFF#8, 0xFF#8, 1#8, 0#8])] := by decide

/-! ## Witnesses: a state and operands that meet the hypotheses of each statement -/

theorem test_wit_EmptyQueueLetsTimePass :
    (live.pending = [] ∧ live.dueEvents = []) ∧
    (({ live with syncEnd := some 1000 } : State).dueEvents = [.syncPulseEnd]) ∧
    (({ live with syncEnd := some 1000, lock := some ⟨1, 1000⟩ } : State).dueEvents = [.syncPulseEnd, .lockExpiry]) :=
  by and_intros <;> decide

theorem test_wit_CommandNotDueChangesNothing :
    (live.startDue 3 = false ∧ live.windowDue 3 = false ∧ live.rampDue 3 = false ∧ live.resetHoldDue 3 = false ∧
      live.initReadDue 3 = false ∧ live.initMaxDue 3 = false ∧ live.calibrateDue 3 = false ∧
      live.resumeReadDue 3 = false ∧ live.keepwarmDue 3 = false ∧ live.dozeDue 3 = false ∧ live.waitDue 3 = false ∧
      live.restDue 3 = false ∧ live.overcurrentDue 3 = false ∧ live.horizonDue 9 = false ∧ live.prepDue 9 = false ∧
      live.fireReqDue 9 = false ∧ live.slackDue 9 = false ∧ live.pulseDue = false ∧ live.confirmDue 9 = false ∧
      live.lockDue = false ∧ live.agingDue 31 = false ∧ live.walkEndDue = false ∧ live.entryDue 3 16 = false ∧
      live.orderDue 3 = false ∧ live.reattachDue = false) ∧
    (live.restartDue = none ∧ live.pressDue = none ∧ live.syncDue = none ∧ live.releaseDue = none ∧
      live.freeDue = none ∧ live.settleDue 3 = none ∧ live.visitDue = none) :=
  by and_intros <;> decide

theorem test_wit_EveryCommandRuns :
    (ReqKind.ofByte 0x01#8 = some .describe ∧ ReqKind.ofByte 0x11#8 = some .aheadWake ∧
      ReqKind.ofByte 0x30#8 = none) := by decide

theorem test_wit_MasterResetState :
    ((live.port 3).presence = false ∧ ((put (cam .deep)).port 3).presence = true) := by decide

theorem test_wit_MalformedTransferAnswered :
    (Open live ∧ namesNoRequest [] = true ∧ namesNoRequest [0x01#8, 7#8] = true) ∧
    (namesNoRequest [0x30#8, 7#8, 0#8, 0#8] = true ∧ namesNoRequest [0x30#8, 7#8, 1#8, 0#8] = true) ∧
    (¬ Framed .clock (req [0#8]) ∧ ¬ Framed .wake ⟨7#8, 2#16, [3#8]⟩) := 
  by and_intros <;> decide

theorem test_wit_TransferHeldOff :
    (State.reset.attached = false) ∧
    (({ live with restart := some ⟨false, 900, 0⟩ } : State).attached = true ∧
      ¬ Open { live with restart := some ⟨false, 900, 0⟩ }) ∧
    (¬ Open { live with line := List.replicate 32 ⟨0, 0x8B#8, 7#8, none⟩ }) := 
  by and_intros <;> decide

theorem test_wit_RefusalLeavesState : Taken .stationGet (req [4#8]) live ∧
    exec (ofRequest .stationGet (req [4#8])) live = .next (live.replied 0x85#8 7#8 [0x04#8]) ∧
    (live.replied 0x85#8 7#8 [0x04#8]).line = live.line ++ [⟨live.tickets, replyKind .stationGet, 7#8, some [0x04#8]⟩] :=
  ⟨by decide, rfl, rfl⟩

theorem test_wit_DescribeAndClock :
    (Taken .describe (req []) live) ∧
    (Taken .clock (req []) live) ∧
    ((req [1#8]).body.length = (req [1#8]).len.toNat ∧ (req [1#8]).body ≠ []) := 
  by and_intros <;> decide

theorem test_wit_RestartTaken :
    (Taken .restart (req [0#8]) live ∧ u8 (req [0#8]).body 0 ≠ 1 ∧ u8 (req [0#8]).body 0 ≠ 2) ∧
    (Taken .restart (req [1#8]) live ∧ u8 (req [1#8]).body 0 = 1) ∧
    (Taken .restart (req [2#8]) live ∧ u8 (req [2#8]).body 0 = 2) := 
  by and_intros <;> decide

theorem test_wit_RestartExpiryAndReattach :
    (({ live with restart := some ⟨true, 500, 0⟩ } : State).restart = some ⟨true, 500, 0⟩ ∧
      reachedMs live.clock (addMs 500 500) = true) ∧
    (({ live with restart := some ⟨false, 500, 0⟩ } : State).heldOut = []) ∧
    (({ State.reset with clock := 100 } : State).reattachAt = some 100 ∧ reachedMs 100 100 = true) := 
  by and_intros <;> decide

theorem test_wit_InTransferChooses :
    (live.attached = true ∧ live.inXfer = none ∧ live.resend = none ∧ live.settleReady = [] ∧ live.line = [] ∧
      live.reports = []) ∧
    (({ live with settleReady := [⟨7#8, [0#8]⟩] } : State).settleReady = [⟨7#8, [0#8]⟩] ∧ live.lastReport = true) ∧
    (({ live with line := [⟨0, 0x81#8, 7#8, some [0#8]⟩], reports := [.events] } : State).line = [⟨0, 0x81#8, 7#8, some [0#8]⟩] ∧
      live.lastReport = true) ∧
    (({ live with reports := [.camera 3], lastReport := false } : State).lastReport = false ∧ live.restart = none) := 
  by and_intros <;> decide

theorem test_wit_InTransferEnds :
    (({ live with inXfer := some ⟨.settle, [], false, false, false⟩ } : State).inXfer = some ⟨.settle, [], false, false, false⟩ ∧
      live.attached = true) ∧
    (({ live with line := [⟨0, 0x81#8, 7#8, some [0#8]⟩], restart := some ⟨false, 900, 0⟩ } : State).restart = some ⟨false, 900, 0⟩ ∧
      live.heldOut = []) ∧
    (∀ p : PortId, (live.port p).camMark = false) ∧
    (({ spin { cueIn .done 1200 with mark := true } (.ready none none) with reports := [.events] } : State).cues.find? (fun c => c.mark) = some { cueIn .done 1200 with mark := true }) ∧
    (({ live with eventsMark := true, events := [event] } : State).events ≠ [] ∧ ∀ c ∈ live.cues, c.mark = false) ∧
    (((put { cam .deep with camMark := true }).port 3).camMark = true ∧
      ∀ q : PortId, q < 3 → ((put { cam .deep with camMark := true }).port q).camMark = false) :=
  by and_intros <;> decide

theorem test_wit_CheckByte :
    ((0x5A#8) ≠ responseCheck 0x40#8 0#8) := by decide

theorem test_wit_ResponseVerdict :
    (((put { cam (.ready none none) with lane := some (exch .poll 0) }).port 3).lane = some (exch .poll 0)) ∧
    (live.attemptAge (exch .poll 0) ≤ 3 ∧
      attemptSucceeds (exch .poll 0) 0x4A#8 0#8 (responseCheck 0x4A#8 0#8) = false) ∧
    (attemptSucceeds (exch .poll 0) 0x49#8 0#8 (responseCheck 0x49#8 0#8) = true) := 
  by and_intros <;> decide

theorem test_wit_AttemptFailure :
    ((exch .read 12).retry = false ∧ live.attemptAge (exch .read 12) ≤ 3 ∧
      attemptSucceeds (exch .read 12) 0x80#8 0#8 (responseCheck 0x80#8 0#8) = false) ∧
    (2 ≤ live.attemptAge { exch .read 12 with started := 998 }) ∧
    (3 < live.attemptAge { exch .read 12 with started := 996 } ∧ (live.port 3).lane = none) := 
  by and_intros <;> decide

theorem test_wit_StartChecks :
    (let s := put { cam (.deep) with queue := [job (.hostRead 0 16), job .thermalRead] }; (s.port 3).lane = none ∧
      (s.port 3).power ≠ .vacant ∧ (s.port 3).power.owed? = none ∧
      (s.port 3).queue = job (.hostRead 0 16) :: [job .thermalRead] ∧ (job (.hostRead 0 16)).started = false ∧
      (job (.hostRead 0 16)).kind = .hostRead 0 16 ∧ (job (.hostRead 0 16)).mayStart (s.port 3) = false) ∧
    (let s := put { cam (.deep) with queue := [job (.hostRead 0 23), job .thermalRead] }; (s.port 3).lane = none ∧
      (s.port 3).power ≠ .vacant ∧ (s.port 3).power.owed? = none ∧
      (s.port 3).queue = job (.hostRead 0 23) :: [job .thermalRead] ∧ (job (.hostRead 0 23)).started = false ∧
      (job (.hostRead 0 23)).kind = .hostRead 0 23 ∧ (job (.hostRead 0 23)).mayStart (s.port 3) = false) ∧
    (let s := put { cam (.deep) with queue := [job (.hostWrite 0 13 5#8), job .thermalRead] };
      (s.port 3).lane = none ∧
      (s.port 3).power ≠ .vacant ∧ (s.port 3).power.owed? = none ∧
      (s.port 3).queue = job (.hostWrite 0 13 5#8) :: [job .thermalRead] ∧ (job (.hostWrite 0 13 5#8)).started = false ∧
      (job (.hostWrite 0 13 5#8)).kind = .hostWrite 0 13 5#8 ∧
      (job (.hostWrite 0 13 5#8)).mayStart (s.port 3) = false) ∧
    (let s := put { cam (.doze none) with queue := [job (.aheadWrite [] 1 2 3), job .thermalRead] };
      (s.port 3).lane = none ∧
      (s.port 3).power ≠ .vacant ∧ (s.port 3).power.owed? = none ∧
      (s.port 3).queue = job (.aheadWrite [] 1 2 3) :: [job .thermalRead] ∧
      (job (.aheadWrite [] 1 2 3)).started = false ∧ (job (.aheadWrite [] 1 2 3)).kind = .aheadWrite [] 1 2 3 ∧
      (job (.aheadWrite [] 1 2 3)).mayStart (s.port 3) = false) ∧
    (let s := put { cam (.doze none) with queue := [job (.ping), job .thermalRead] }; (s.port 3).lane = none ∧
      (s.port 3).power ≠ .vacant ∧ (s.port 3).power.owed? = none ∧
      (s.port 3).queue = job (.ping) :: [job .thermalRead] ∧ (job (.ping)).started = false ∧
      (job (.ping)).kind = .ping ∧ (job (.ping)).mayStart (s.port 3) = false) ∧
    (let s := put { cam (.deep) with queue := [job (.powerMode .doze), job .thermalRead] }; (s.port 3).lane = none ∧
      (s.port 3).power ≠ .vacant ∧ (s.port 3).power.owed? = none ∧
      (s.port 3).queue = job (.powerMode .doze) :: [job .thermalRead] ∧ (job (.powerMode .doze)).started = false ∧
      (job (.powerMode .doze)).kind = .powerMode .doze ∧ (job (.powerMode .doze)).mayStart (s.port 3) = false) ∧
    (let s := put { cam .deep with queue := [job .poll], held := some event }; (s.port 3).lane = none ∧
      (s.port 3).queue = [job .poll] ∧ (job .poll).mayStart (s.port 3) = false) ∧
    (let s : State := { put { cam .deep with queue := [job (.prepWrite 9 true [])] } with cues := [{ cueIn .preparing 1200 with members := [⟨3, none, none, .writing, none⟩] }] };
      (s.port 3).lane = none ∧
      (s.port 3).power ≠ .vacant ∧ (s.port 3).power.owed? = none ∧
      (job (.prepWrite 9 true [])).mayStart (s.port 3) = false ∧ ∃ c, s.cue? 9 = some c ∧ c.state = .preparing ∧
      c.members.find? (fun m => m.port == 3) = some ⟨3, none, none, .writing, none⟩) ∧
    (let s : State := { put { cam .deep with queue := [job (.prepWrite 9 true [])] } with cues := [{ cueIn .preparing 1200 with members := [⟨3, none, none, .late, none⟩] }] };
      (s.port 3).lane = none ∧
      (s.port 3).power ≠ .vacant ∧ (s.port 3).power.owed? = none ∧
      (job (.prepWrite 9 true [])).mayStart (s.port 3) = false ∧ ∃ c, s.cue? 9 = some c ∧ c.state = .preparing ∧
      c.members.find? (fun m => m.port == 3) = some ⟨3, none, none, .late, none⟩) ∧
    ((job (.hostRead 0 15)).mayStart (cam .deep) = true ∧ (job (.hostRead 0 24)).mayStart (cam .deep) = true ∧
      (job (.hostWrite 0 12 5#8)).mayStart (cam .deep) = true) :=
  by and_intros <;> decide

theorem test_wit_LaneChooses :
    ((live.port 3).power = .vacant) ∧
    (((put (cam (.waking ⟨.resume none 0, some .resumeRead, ⟨104, none⟩, none⟩))).port 3).lane = none ∧
      ((put (cam (.waking ⟨.resume none 0, some .resumeRead, ⟨104, none⟩, none⟩))).port 3).power = .waking ⟨.resume none 0, some .resumeRead, ⟨104, none⟩, none⟩) ∧
    ((job .poll).mayStart (cam .deep) = true ∧ (cam .deep).power.owed? = none ∧
      ({ cam .deep with queue := [job .poll] } : Port).lane = none) ∧
    (let s := put { cam .deep with queue := [flying (.identify [7#8]), job .poll] }; (s.port 3).lane = none ∧
      (s.port 3).power ≠ .vacant ∧ (s.port 3).power.owed? = none ∧
      (s.port 3).queue = flying (.identify [7#8]) :: [job .poll] ∧ (flying (.identify [7#8])).cut = false) ∧
    (((put (cam .deep)).port 3).queue = [] ∧ (cam .deep).lane = none ∧ (cam .deep).power.owed? = none) := 
  by and_intros <;> decide

theorem test_wit_HostReadAnswered :
    (let s := put { cam (.ready none none) with lane := some (exch .read 32), queue := [flying (.hostRead 0 32), job .poll] };
      (s.port 3).lane = some (exch .read 32) ∧
      (exch .read 32).src = .job ∧ (exch .read 32).op = .read ∧ s.attemptAge (exch .read 32) ≤ 3 ∧
      attemptSucceeds (exch .read 32) 0x40#8 1#8 (responseCheck 0x40#8 1#8) = true ∧
      (s.port 3).queue = flying (.hostRead 0 32) :: [job .poll] ∧ (flying (.hostRead 0 32)).started = true ∧
      (flying (.hostRead 0 32)).kind = .hostRead 0 32 ∧ (s.port 3).power.isFault = false ∧
      (s.port 3).power.isPausing = false ∧ (s.port 3).waitLine = [] ∧ (s.port 3).markPoll = false ∧
      (s.port 3).markThermal = false ∧ (s.port 3).markPing = false) := by decide

theorem test_wit_ThermalRead :
    ((cam .deep).grade = some 2 ∧ (0x03#8).toNat % 8 ≠ 7 ∧ (0x82#8 : Byte).toNat.testBit 7 = true ∧
      2 = (0x02#8).toNat % 8) ∧
    (let s := put { cam (.ready none none) with lane := some (exch .read 12), queue := [flying .thermalRead] };
      (s.port 3).lane = some (exch .read 12) ∧
      s.attemptAge (exch .read 12) ≤ 3 ∧ attemptSucceeds (exch .read 12) 0x40#8 6#8 (responseCheck 0x40#8 6#8) = true ∧
      (s.port 3).queue = [flying .thermalRead] ∧ (s.port 3).power.isFault = false ∧ (s.port 3).grade = some 2 ∧
      (6#8).toNat % 8 ≠ 7) ∧
    ((0x0F#8).toNat % 8 = 7 ∧ (0x87#8).toNat % 8 = 7 ∧ (0x87#8 : Byte).toNat.testBit 7 = true ∧
      (cam .deep).grade ≠ some 7) ∧
    (let s := spin (cueIn .planned 1200) (.ready (some 2000) none); (s.port 3).power = .ready (some 2000) none ∧
      (s.port 3).offload = false ∧ (s.port 3).pauseHeldByJob = false ∧ ∃ c ∈ s.cues, c.state.planned? = true ∧
      ∃ m ∈ c.members, m.port = 3) ∧
    (({ cam (.ready none none) with queue := [flying (.hostRead 0 32)] } : Port).pauseHeldByJob = true ∧
      (cam (.keepwarm none)).power = .keepwarm none ∧ (cam (.doze none)).power = .doze none) ∧
    ((cam (.waking ⟨.resume none 0, some .resumeRead, ⟨104, none⟩, none⟩)).power = .waking ⟨.resume none 0, some .resumeRead, ⟨104, none⟩, none⟩ ∧
      (cam (.armed (some ⟨.deep, .host⟩) true)).power = .armed (some ⟨.deep, .host⟩) true ∧
      (cam (.pausing ⟨.keepwarm, .host⟩ 2000)).power = .pausing ⟨.keepwarm, .host⟩ 2000) ∧
    (((put { cam (.doze none) with grade := some 7 }).port 3).grade = some 7 ∧
      ((put { cam (.doze none) with grade := none }).port 3).grade = none) :=
  by and_intros <;> decide

theorem test_wit_FailedExchangeCounts :
    (let e : Exchange := { exch .read 12 with retry := true, started := 998, src := .job };
      let s := put { cam (.doze none) with lane := some e, queue := [flying .thermalRead] };
      (s.port 3).lane = some e ∧
      2 ≤ s.attemptAge e ∧ (s.port 3).queue = [flying .thermalRead] ∧ (s.port 3).power.railOn = true ∧
      (s.port 3).run < 2 ∧ ({ cam (.doze none) with run := 2 } : Port).run = 2) := by decide

theorem test_wit_WakeExchangeSucceeds :
    (let e : Exchange := { exch .write 14 with src := .wake (.resetWrite), started := 999 };
      let s := put { cam (.waking ⟨.resetHold 105 true false, none, ⟨120, none⟩, none⟩) with lane := some e };
      (s.port 3).lane = some e ∧
      s.attemptAge e < 2 ∧ attemptSucceeds e 0x40#8 0#8 (responseCheck 0x40#8 0#8) = true ∧ e.throughPart = false ∧
      (s.port 3).power = .waking ⟨.resetHold 105 true false, none, ⟨120, none⟩, none⟩) ∧
    (let e : Exchange := { exch .write 14 with src := .wake (.resetWrite), started := 999 };
      let s := put { cam (.waking ⟨.resetHold 105 false false, none, ⟨120, none⟩, none⟩) with lane := some e };
      (s.port 3).lane = some e ∧
      s.attemptAge e < 2 ∧ attemptSucceeds e 0x40#8 0#8 (responseCheck 0x40#8 0#8) = true ∧ e.throughPart = false ∧
      (s.port 3).power = .waking ⟨.resetHold 105 false false, none, ⟨120, none⟩, none⟩) ∧
    (let e : Exchange := { exch .read 0 with src := .wake (.initRead), started := 999 };
      let s := put { cam (.waking ⟨.initWait 105 110, none, ⟨120, none⟩, none⟩) with lane := some e };
      (s.port 3).lane = some e ∧
      s.attemptAge e < 2 ∧ attemptSucceeds e 0x40#8 1#8 (responseCheck 0x40#8 1#8) = true ∧ e.throughPart = false ∧
      (s.port 3).power = .waking ⟨.initWait 105 110, none, ⟨120, none⟩, none⟩) ∧
    (let e : Exchange := { exch .read 0 with src := .wake (.initRead), started := 999 };
      let s := put { cam (.waking ⟨.initWait 105 110, none, ⟨120, none⟩, none⟩) with lane := some e };
      (s.port 3).lane = some e ∧
      s.attemptAge e < 2 ∧ attemptSucceeds e 0x40#8 0#8 (responseCheck 0x40#8 0#8) = true ∧ e.throughPart = false ∧
      (s.port 3).power = .waking ⟨.initWait 105 110, none, ⟨120, none⟩, none⟩) ∧
    (let e : Exchange := { exch .write 13 with src := .wake (.calWrite), started := 999 };
      let s := put { cam (.waking ⟨.calibrate none, none, ⟨120, none⟩, none⟩) with lane := some e };
      (s.port 3).lane = some e ∧
      s.attemptAge e < 2 ∧ attemptSucceeds e 0x40#8 0#8 (responseCheck 0x40#8 0#8) = true ∧ e.throughPart = false ∧
      (s.port 3).power = .waking ⟨.calibrate none, none, ⟨120, none⟩, none⟩) ∧
    (let e : Exchange := { exch .write 16 with src := .wake (.restoreWrite ⟨16, 5#8⟩), started := 999 };
      let s := put { cam (.waking ⟨.restore [⟨16, 5#8⟩, ⟨17, 6#8⟩], none, ⟨120, none⟩, none⟩) with lane := some e };
      (s.port 3).lane = some e ∧
      s.attemptAge e < 2 ∧ attemptSucceeds e 0x40#8 0#8 (responseCheck 0x40#8 0#8) = true ∧ e.throughPart = true ∧
      (s.port 3).power = .waking ⟨.restore [⟨16, 5#8⟩, ⟨17, 6#8⟩], none, ⟨120, none⟩, none⟩) ∧
    (let e : Exchange := { exch .write 16 with src := .wake (.restoreWrite ⟨16, 5#8⟩), started := 999 };
      let s := put { cam (.waking ⟨.restore [⟨16, 5#8⟩], none, ⟨120, none⟩, none⟩) with lane := some e };
      (s.port 3).lane = some e ∧
      s.attemptAge e < 2 ∧ attemptSucceeds e 0x40#8 0#8 (responseCheck 0x40#8 0#8) = true ∧ e.throughPart = true ∧
      (s.port 3).power = .waking ⟨.restore [⟨16, 5#8⟩], none, ⟨120, none⟩, none⟩) ∧
    (let e : Exchange := { exch .read 0 with src := .wake (.resumeRead), started := 999 };
      let s := put { cam (.waking ⟨.resume none 2, none, ⟨120, none⟩, none⟩) with lane := some e };
      (s.port 3).lane = some e ∧
      s.attemptAge e < 2 ∧ attemptSucceeds e 0x40#8 1#8 (responseCheck 0x40#8 1#8) = true ∧ e.throughPart = false ∧
      (s.port 3).power = .waking ⟨.resume none 2, none, ⟨120, none⟩, none⟩) ∧
    (let e : Exchange := { exch .read 0 with src := .wake (.resumeRead), started := 999 };
      let s := put { cam (.waking ⟨.resume none 3, none, ⟨120, none⟩, none⟩) with lane := some e };
      (s.port 3).lane = some e ∧
      s.attemptAge e < 2 ∧ attemptSucceeds e 0x40#8 0#8 (responseCheck 0x40#8 0#8) = true ∧ e.throughPart = false ∧
      (s.port 3).power = .waking ⟨.resume none 3, none, ⟨120, none⟩, none⟩) :=
  by and_intros <;> decide

theorem test_wit_WakeExchangeFails :
    (let e : Exchange := { exch .write 14 with src := .wake (.resetWrite), retry := true, started := 998 };
      let s := put { cam (.waking ⟨.resetHold 105 true false, none, ⟨120, none⟩, none⟩) with lane := some e, run := 2 };
      (s.port 3).lane = some e ∧
      e.retry = true ∧ 2 ≤ s.attemptAge e ∧ (s.port 3).run = 2) ∧
    (let e : Exchange := { exch .write 14 with src := .wake (.resetWrite), retry := true, started := 998 };
      let s := put { cam (.waking ⟨.resetHold 105 false false, none, ⟨120, none⟩, none⟩) with lane := some e, run := 0 };
      (s.port 3).lane = some e ∧
      e.retry = true ∧ 2 ≤ s.attemptAge e ∧ (s.port 3).run = 0) ∧
    (let e : Exchange := { exch .read 0 with src := .wake (.initRead), retry := true, started := 998 };
      let s := put { cam (.waking ⟨.initWait 105 110, none, ⟨120, none⟩, none⟩) with lane := some e, run := 1 };
      (s.port 3).lane = some e ∧
      e.retry = true ∧ 2 ≤ s.attemptAge e ∧ (s.port 3).run = 1) ∧
    (let e : Exchange := { exch .read 0 with src := .wake (.initRead), retry := true, started := 998 };
      let s := put { cam (.waking ⟨.initWait 105 110, none, ⟨120, none⟩, none⟩) with lane := some e, run := 0 };
      (s.port 3).lane = some e ∧
      e.retry = true ∧ 2 ≤ s.attemptAge e ∧ (s.port 3).run = 0) ∧
    (let e : Exchange := { exch .write 13 with src := .wake (.calWrite), retry := true, started := 998 };
      let s := put { cam (.waking ⟨.calibrate none, none, ⟨120, none⟩, none⟩) with lane := some e, run := 0 };
      (s.port 3).lane = some e ∧
      e.retry = true ∧ 2 ≤ s.attemptAge e ∧ (s.port 3).run = 0) ∧
    (let e : Exchange := { exch .write 16 with src := .wake (.restoreWrite ⟨16, 5#8⟩), retry := true, started := 998 };
      let s := put { cam (.waking ⟨.restore [⟨16, 5#8⟩, ⟨17, 6#8⟩], none, ⟨120, none⟩, none⟩) with lane := some e, run := 1 };
      (s.port 3).lane = some e ∧
      e.retry = true ∧ 2 ≤ s.attemptAge e ∧ (s.port 3).run = 1) ∧
    (let e : Exchange := { exch .write 16 with src := .wake (.restoreWrite ⟨16, 5#8⟩), retry := true, started := 998 };
      let s := put { cam (.waking ⟨.restore [⟨16, 5#8⟩], none, ⟨120, none⟩, none⟩) with lane := some e, run := 0 };
      (s.port 3).lane = some e ∧
      e.retry = true ∧ 2 ≤ s.attemptAge e ∧ (s.port 3).run = 0) ∧
    (let e : Exchange := { exch .read 0 with src := .wake (.resumeRead), retry := true, started := 998 };
      let s := put { cam (.waking ⟨.resume none 2, none, ⟨120, none⟩, none⟩) with lane := some e, run := 1 };
      (s.port 3).lane = some e ∧
      e.retry = true ∧ 2 ≤ s.attemptAge e ∧ (s.port 3).run = 1) ∧
    (let e : Exchange := { exch .read 0 with src := .wake (.resumeRead), retry := true, started := 998 };
      let s := put { cam (.waking ⟨.resume none 3, none, ⟨120, none⟩, none⟩) with lane := some e, run := 1 };
      (s.port 3).lane = some e ∧
      e.retry = true ∧ 2 ≤ s.attemptAge e ∧ (s.port 3).run = 1) :=
  by and_intros <;> decide

theorem test_wit_HostJobFails :
    (let e : Exchange := { exch .read 32 with retry := true, started := 998, src := .job };
      let s := put { cam (.doze none) with lane := some e, queue := [flying (.hostRead 0 32)] };
      (s.port 3).lane = some e ∧
      e.retry = true ∧ 2 ≤ s.attemptAge e ∧ (s.port 3).queue = [flying (.hostRead 0 32)] ∧ (s.port 3).run < 2) ∧
    (let e : Exchange := { exch .write 32 with retry := true, started := 998, src := .job };
      let s := put { cam (.doze none) with lane := some e, queue := [flying (.hostWrite 0 32 5#8)] };
      (s.port 3).lane = some e ∧
      e.retry = true ∧ 2 ≤ s.attemptAge e ∧ (s.port 3).queue = [flying (.hostWrite 0 32 5#8)] ∧ (s.port 3).run < 2) :=
  by and_intros <;> decide

theorem test_wit_PowerModeFails :
    (let e : Exchange := { exch .write 15 with retry := true, started := 998, src := .job };
      let s := put { cam (.doze none) with lane := some e, queue := [flying (.powerMode .doze)], resv := some (resv .doze false) };
      (s.port 3).lane = some e ∧
      e.throughPart = false ∧ 2 ≤ s.attemptAge e ∧ (s.port 3).queue = [flying (.powerMode .doze)] ∧ (s.port 3).run < 2 ∧
      (s.port 3).profile = some prof ∧ (s.port 3).resumeWait = none ∧ (s.port 3).power.paused? = some .doze ∧
      (s.port 3).resv.isSome = true) ∧
    (let e : Exchange := { exch .write 15 with retry := true, started := 998, src := .job };
      let s := put { cam (.doze none) with lane := some e, queue := [flying (.powerMode .doze)], resv := some (resv .doze true) };
      (s.port 3).lane = some e ∧
      e.throughPart = false ∧ 2 ≤ s.attemptAge e ∧ (s.port 3).queue = [flying (.powerMode .doze)] ∧ (s.port 3).run < 2 ∧
      (s.port 3).profile = some prof ∧ (s.port 3).resumeWait = none ∧ (s.port 3).power.paused? = some .doze ∧
      (s.port 3).startedResv = true) ∧
    (let e : Exchange := { exch .write 15 with retry := true, started := 998, src := .job };
      let s := put { cam (.doze none) with lane := some e, queue := [flying (.powerMode .doze)] };
      (s.port 3).lane = some e ∧
      e.throughPart = false ∧ 2 ≤ s.attemptAge e ∧ (s.port 3).queue = [flying (.powerMode .doze)] ∧ (s.port 3).run < 2 ∧
      (s.port 3).profile = some prof ∧ (s.port 3).resumeWait = none ∧ (s.port 3).resv = none ∧
      s.committed + prof.awake ≤ s.steady) ∧
    (let e : Exchange := { exch .write 15 with retry := true, started := 998, src := .job };
      let s := { put { cam (.doze none) with lane := some e, queue := [flying (.powerMode .doze)] } with steady := 399 };
      (s.port 3).lane = some e ∧
      e.throughPart = false ∧ 2 ≤ s.attemptAge e ∧ (s.port 3).queue = [flying (.powerMode .doze)] ∧ (s.port 3).run < 2 ∧
      (s.port 3).profile = some prof ∧ (s.port 3).resumeWait = none ∧ (s.port 3).resv = none ∧
      s.steady < s.committed + prof.awake) ∧
    (let e : Exchange := { exch .write 15 with retry := true, started := 998, src := .job };
      let s := put { cam (.ready none none) with lane := some e, queue := [flying (.powerMode .doze)] };
      (s.port 3).lane = some e ∧
      e.throughPart = false ∧ 2 ≤ s.attemptAge e ∧ (s.port 3).queue = [flying (.powerMode .doze)] ∧ (s.port 3).run < 2 ∧
      (s.port 3).profile = some prof ∧ (s.port 3).resumeWait = none ∧ (s.port 3).power.paused? ≠ some .doze ∧
      (s.port 3).power.isPausing = false) :=
  by and_intros <;> decide

theorem test_wit_InputEdges : ((live.port 3).enabled = true ∧ (live.port 3).power = .vacant) ∧
    (((put (cam .deep)).port 3).enabled = true ∧ ((put (cam .deep)).port 3).power ≠ .vacant) ∧
    ((put { cam .vacant with enabled := false }).port 3).enabled = false ∧ TableUnique (put (cam .deep)).table ∧
    ((put { cam .deep with queue := List.replicate 8 (job .ping) }).port 3).queue.length = 8 ∧
    ((put (cam .deep)).port 3).held = none ∧ ((put { cam .deep with held := some event }).port 3).held ≠ none :=
  ⟨by decide, by decide, by decide, unique_empty, by decide, by decide, by decide⟩

theorem test_wit_RailCurrent :
    (live.clock % 10 = 0 ∧ (cam (.doze none)).power.railOn = true ∧ 10 ≤ diffMs live.clock 990) ∧
    (({ live with clock := 1001 } : State).clock % 10 ≠ 0 ∧ 8000 ≤ 8000 ∧ 8000 < 8001) ∧
    (({ put { cam .deep with queue := [job (.hostRead 0 0)] } with line := [⟨0, 0x8B#8, 7#8, none⟩] } : State).line = [⟨0, 0x8B#8, 7#8, none⟩] ∧
      (job (.hostRead 0 0)).started = false) ∧
    (let c : Port := { cam (.ready none none) with overFrom := some 990, sensed := some ⟨1000, 2100⟩, limitInForce := 2000, railLimit := 4000 };
      c.overFrom = some 990 ∧
      (∀ x ∈ c.sensed, (if x.time = 1000 then c.limitInForce else c.railLimit) < x.current)) ∧
    (let c : Port := { cam (.ready none none) with overFrom := some 990, sensed := some ⟨990, 2100⟩, limitInForce := 2000, railLimit := 4000 };
      ∃ x ∈ c.sensed, x.current ≤ (if x.time = 1000 then c.limitInForce else c.railLimit)) :=
  by and_intros <;> decide

theorem test_wit_CameraGet :
    (Taken .cameraGet (req [23#8]) live ∧ u8 (req [23#8]).body 0 < 24) ∧
    (Taken .cameraGet (req [24#8]) live ∧ 24 ≤ u8 (req [24#8]).body 0) := 
  by and_intros <;> decide

theorem test_wit_ClearFault :
    (Taken .clearFault (req [3#8]) (put (cam (.fault .laneLost))) ∧
      ((put (cam (.fault .laneLost))).port 3).presence = true) ∧
    (({ cam (.fault .laneLost) with profile := none } : Port).profile = none ∧
      ({ cam (.fault .laneLost) with enabled := false } : Port).enabled = false) ∧
    ((cam .deep).power.isFault = false) := 
  by and_intros <;> decide

theorem test_wit_WakeByState :
    (Taken .wake (req [3#8]) (put (cam (.doze none))) ∧ ((put (cam (.doze none))).port 3).power.paused? = some .doze ∧
      ((put (cam (.doze none))).port 3).startedResv = false) ∧
    ((put (cam (.doze none))).committed - ((put (cam (.doze none))).port 3).unstartedFigure + prof.awake ≤ (put (cam (.doze none))).steady) ∧
    (({ put (cam .deep) with steady := 399 } : State).steady < (put (cam .deep)).committed - ((put (cam .deep)).port 3).unstartedFigure + prof.awake) ∧
    ((cam (.pausing ⟨.doze, .auto⟩ 2000)).power = .pausing ⟨.doze, .auto⟩ 2000 ∧
      (cam (.armed none true)).power.isArmed = true ∧ (cam (.fault .laneLost)).power.isLost = true) ∧
    (({ cam .deep with grade := some 7 } : Port).grade = some 7) ∧
    (Taken .wake (req [24#8]) live ∧ 24 ≤ u8 (req [24#8]).body 0) ∧
    (let s := put (cam (.doze none));
      EarliestFit (releaseUnstarted 3 s) (windowCurrent .doze prof) (windowLength .doze prof) 1) ∧
    (let s := put { cam .deep with resv := some (resv .deep false), commitment := some 400 };
      (s.port 3).startedResv = false ∧
      s.committed - (s.port 3).unstartedFigure + prof.awake ≤ s.steady ∧
      EarliestFit (releaseUnstarted 3 s) (windowCurrent .deep prof) (windowLength .deep prof) 1) ∧
    (((put { cam (.keepwarm none) with resv := some (resv .keepwarm true) }).port 3).startedResv = true ∧
      (cam (.keepwarm none)).power.paused? = some .keepwarm ∧ (cam (.keepwarm none)).profile = some prof) ∧
    ((spin (cueIn .waiting 5000) (.ready none none)).stationOf 3 ≠ none ∧
      (put (cam (.ready none none))).stationOf 3 = none) :=
  by and_intros <;> decide

theorem test_wit_PauseRequest :
    (Taken .pause (req [3#8, 3#8]) (put (cam (.ready none none))) ∧
      Target.ofCode (u8 (req [3#8, 3#8]).body 1) = some .deep ∧
      ((put (cam (.ready none none))).port 3).pauseHeldByJob = false) ∧
    (({ cam (.ready none none) with offload := true } : Port).offload = true ∧
      ({ cam (.ready none none) with grade := some 7 } : Port).grade = some 7) ∧
    (Taken .pause (req [24#8, 1#8]) live ∧ 24 ≤ u8 (req [24#8, 1#8]).body 0) ∧
    (Taken .pause (req [3#8, 4#8]) live ∧ Target.ofCode (u8 (req [3#8, 4#8]).body 1) = none) ∧
    ((cam (.doze none)).power.paused? = some .doze ∧ Target.ofCode (u8 (req [3#8, 2#8]).body 1) = some .keepwarm) ∧
    ((cam (.waking ⟨.resume none 0, some .resumeRead, ⟨104, none⟩, none⟩)).power = .waking ⟨.resume none 0, some .resumeRead, ⟨104, none⟩, none⟩ ∧
      (cam (.armed none false)).power = .armed none false) ∧
    (Taken .pause (req [3#8, 2#8]) (put (cam (.pausing ⟨.doze, .auto⟩ 2000))) ∧
      ((put (cam (.pausing ⟨.doze, .auto⟩ 2000))).port 3).power = .pausing ⟨.doze, .auto⟩ 2000) ∧
    (let s := put { cam (.doze none) with resv := some (resv .doze false), commitment := some 400 };
      Taken .pause (req [3#8, 3#8]) s ∧
      Target.ofCode 3 = some .deep ∧ (s.port 3).power.paused? = some .doze ∧ (s.port 3).unstarted = true) ∧
    (let s := put { cam (.keepwarm none) with resv := some (resv .keepwarm false), commitment := some 400 };
      Taken .pause (req [3#8, 3#8]) s ∧
      Target.ofCode 3 = some .deep ∧ (s.port 3).power.paused? = some .keepwarm ∧ (s.port 3).unstarted = true) ∧
    (let s := put { cam (.keepwarm none) with resv := some (resv .keepwarm false), commitment := some 400 };
      Taken .pause (req [3#8, 1#8]) s ∧
      Target.ofCode 1 = some .doze ∧ (s.port 3).power.paused? = some .keepwarm ∧ (s.port 3).unstarted = true) ∧
    (let s := put { cam (.doze none) with resv := some (resv .doze false), commitment := some 400 };
      Taken .pause (req [3#8, 1#8]) s ∧
      Target.ofCode 1 = some .doze ∧ (s.port 3).power.paused? = some .doze ∧ (s.port 3).unstarted = true) ∧
    (let s := put { cam (.deep) with resv := some (resv .deep false), commitment := some 400 };
      Taken .pause (req [3#8, 3#8]) s ∧
      Target.ofCode 3 = some .deep ∧ (s.port 3).power.paused? = some .deep ∧ (s.port 3).unstarted = true) ∧
    (let s := spin (cueIn .planned 3000) (.keepwarm none); Taken .pause (req [3#8, 2#8]) s ∧
      (s.port 3).power.isLost = false ∧ (s.port 3).power ≠ .deep ∧ (s.port 3).power.paused? ≠ some .doze ∧
      ∃ c ∈ s.cues, c.state.planned? = true ∧ ∃ m ∈ c.members, m.port = 3) ∧
    ((cam .vacant).power.isLost = true ∧ (cam (.fault .laneLost)).power.isLost = true ∧
      ({ cam (.keepwarm none) with resv := some (resv .keepwarm true) } : Port).startedResv = true) :=
  by and_intros <;> decide

theorem test_wit_AttrRequests :
    (Taken .attrGet (req [3#8, 32#8]) (put (cam .deep)) ∧ badReadAttr 32 = false ∧ writeOnlyAttr 32 = false ∧
      (cam .deep).power.admitsRead 32 = true ∧ (cam .deep).queue.length < 8) ∧
    (Taken .attrGet (req [3#8, 16#8]) (put (cam .deep)) ∧ (cam .deep).power.admitsRead 16 = false ∧
      badReadAttr 25 = true ∧ badReadAttr 64 = true ∧ writeOnlyAttr 13 = true ∧ writeOnlyAttr 15 = true) ∧
    (Taken .attrSet (req [3#8, 16#8, 5#8]) (put (cam (.ready none none))) ∧ badWriteAttr 16 = false ∧
      (cam (.ready none none)).power.admitsWrite 16 = true) ∧
    (badWriteAttr 12 = true ∧ badWriteAttr 24 = true ∧ (cam .deep).power.admitsWrite 13 = false) ∧
    (8 ≤ ({ cam .deep with queue := List.replicate 8 (job .ping) } : Port).queue.length) := 
  by and_intros <;> decide

theorem test_wit_WakePhaseTimers :
    (live.slotReached 100 = true ∧ reachedMs live.clock 1000 = true) ∧
    ((cam (.waking ⟨.ramp 100, none, ⟨104, none⟩, none⟩)).power = .waking ⟨.ramp 100, none, ⟨104, none⟩, none⟩ ∧
      (cam (.waking ⟨.resetHold 100 false true, none, ⟨104, none⟩, none⟩)).profile = some prof) ∧
    ((cam (.waking ⟨.initWait 100 100, none, ⟨104, none⟩, none⟩)).power = .waking ⟨.initWait 100 100, none, ⟨104, none⟩, none⟩) ∧
    ((cam (.waking ⟨.resume (some 1000) 3, none, ⟨104, none⟩, none⟩)).power = .waking ⟨.resume (some 1000) 3, none, ⟨104, none⟩, none⟩) :=
  by and_intros <;> decide

theorem test_wit_CalibrateWaitEnd :
    (live.slotReached 100 = true ∧
      (put (cam (.waking ⟨.calibrate (some 100), none, ⟨104, none⟩, none⟩))).shadowOf 3 = []) ∧
    (((put (cam (.waking ⟨.calibrate (some 100), none, ⟨104, none⟩, none⟩))).setEntry 0 (some (entry 5#48 (some 3)))).shadowOf 3 = [⟨16, 1#8⟩]) :=
  by and_intros <;> decide

theorem test_wit_RestStateTimers :
    (((put (cam (.keepwarm (some 1000)))).port 3).power = .keepwarm (some 1000) ∧ reachedMs live.clock 1000 = true ∧
      (cam (.keepwarm (some 1000))).markPing = false ∧
      (∀ j ∈ (cam (.keepwarm (some 1000))).queue, j.isPing = false)) ∧
    (8 ≤ ({ cam (.keepwarm (some 1000)) with queue := List.replicate 8 (job .poll) } : Port).queue.length ∧
      ∀ j ∈ List.replicate 8 (job .poll), j.isPing = false) ∧
    ((cam (.doze (some 1000))).power = .doze (some 1000) ∧
      (cam (.pausing ⟨.deep, .host⟩ 1000)).power = .pausing ⟨.deep, .host⟩ 1000) ∧
    ((cam (.keepwarm none)).grade ≠ some 7 ∧ ({ cam (.keepwarm none) with grade := some 7 } : Port).grade = some 7 ∧
      ({ cam (.keepwarm none) with grade := some 7 } : Port).unstarted = false) :=
  by and_intros <;> decide

theorem test_wit_RestTimerExpiry :
    (((spin (cueIn .waiting 5000) (.ready (some 1000) none)).port 3).station = some 1 ∧
      (spin (cueIn .waiting 5000) (.ready (some 1000) none)).nextNeed 1 = some (cueIn .waiting 5000)) ∧
    (let s := spin (cueIn .waiting 5000) (.ready (some 1000) none);
      diffSlot (s.requiredReady (cueIn .waiting 5000)) s.nowSlot ≤ 100 * (s.station 1).linger) ∧
    (let s := spin (cueIn .waiting 1010) (.ready (some 1000) none);
      200000000 ≤ diffSlot (s.requiredReady (cueIn .waiting 1010)) s.nowSlot) ∧
    (let s := spin (cueIn .waiting 9000000) (.ready (some 1000) none);
      100 * (s.station 1).linger < diffSlot (s.requiredReady (cueIn .waiting 9000000)) s.nowSlot ∧
      diffSlot (s.requiredReady (cueIn .waiting 9000000)) s.nowSlot < 200000000) ∧
    ((put { cam (.ready (some 1000) none) with station := some 1 }).nextNeed 1 = none) ∧
    ((cam (.ready (some 1000) none)).offload = false ∧ (cam (.ready (some 1000) none)).pauseHeldByJob = false ∧
      ({ cam (.ready (some 1000) none) with grade := some 7 } : Port).grade = some 7) :=
  by and_intros <;> decide

theorem test_wit_ReservationWindow :
    (live.slotReached (resv .deep false).start = true ∧ (resv .deep false).from_ = .deep ∧
      ({ cam .deep with resv := some (resv .deep false) } : Port).profile = some prof) ∧
    ((cam (.doze none)).power.paused? = some (resv .doze false).from_ ∧
      (cam .deep).power.paused? ≠ some (resv .doze false).from_) ∧
    (({ live with clock := 1010 } : State).slotReached (addSlot (resv .deep true).start (resv .deep true).length) = true ∧
      (resv .deep true).started = true) :=
  by and_intros <;> decide

theorem test_wit_CuePlanning :
    ((spin (cueIn .waiting 60000) (.ready none none)).cue? 9 = some (cueIn .waiting 60000) ∧
      live.slotReached (diffSlot (cueIn .waiting 60000).slot 6000) = true) ∧
    ((spin (cueIn .waiting 60000) (.ready none none)).slotReached ((spin (cueIn .waiting 60000) (.ready none none)).prepSlot (cueIn .waiting 60000)) = false) ∧
    ((spin (cueIn .planned 1200) (.ready none none)).slotReached ((spin (cueIn .planned 1200) (.ready none none)).prepSlot (cueIn .planned 1200)) = true) ∧
    (∀ d ∈ (spin (cueIn .planned 1200) (.ready none none)).cues, d.id = 9 → d = cueIn .planned 1200) ∧
    (((cueIn .planned 1200).members.map (·.port)).Nodup ∧ (cueIn .planned 1200).profile ≠ [] ∧
      ({ cueIn .planned 1200 with profile := [] } : Cue).profile = []) ∧
    ((spin (cueIn .planned 1200) (.ready none none)).missedPairs 3 .clear [⟨16, 5#8⟩] ≠ []) ∧
    (({ spin (cueIn .planned 1200) (.ready none none) with adv := [⟨3, 16, 5#8, true, 900, 2000⟩] } : State).missedPairs 3 .clear [⟨16, 5#8⟩] = []) :=
  by and_intros <;> decide

theorem test_wit_DispositionChecks :
    (let s := spin (cueIn .planned 3000) (.fault .laneLost); s.cue? 9 = some (cueIn .planned 3000) ∧
      (s.port 3).power.isFault = true) ∧
    ((cam .vacant).power = .vacant ∧ (cam .deep).power.isLost = false ∧
      (cam (.pausing ⟨.doze, .auto⟩ 2000)).power = .pausing ⟨.doze, .auto⟩ 2000) ∧
    ((cam (.waking ⟨.resume none 0, some .resumeRead, ⟨104, none⟩, none⟩)).power = .waking ⟨.resume none 0, some .resumeRead, ⟨104, none⟩, none⟩ ∧
      104 = (⟨.resume none 0, some .resumeRead, ⟨104, none⟩, none⟩ : Wake).forecast.ready) ∧
    ((resv .doze true).started = true ∧ (cam (.doze none)).power.paused?.isSome = true) ∧
    (let s := spin (cueIn .planned 3000) (.doze none); (resv .doze false).started = false ∧
      s.offset (resv .doze false).ready ≤ s.offset (s.requiredReady (cueIn .planned 3000))) ∧
    (let s := spin (cueIn .planned 3000) (.doze none); s.cue? 9 = some (cueIn .planned 3000) ∧
      (s.port 3).power.paused? = some .doze ∧ (s.port 3).resv = none ∧ (s.port 3).commitment = none ∧
      (s.port 3).profile = some prof ∧ s.committed + prof.awake ≤ s.steady) ∧
    (let s := { spin (cueIn .planned 3000) (.doze none) with steady := 399 }; s.steady < s.committed + prof.awake) ∧
    (let s := spin (cueIn .planned 1300) (.doze none); s.offset (s.requiredReady (cueIn .planned 1300)) = 5 ∧
      StartFor s (windowCurrent .doze prof) (windowLength .doze prof) (wakeLatency .doze prof (s.shadowOf 3).length) (s.requiredReady (cueIn .planned 1300)) 1 .placed) ∧
    (let s := spin (cueIn .planned 1260) (.doze none);
      StartFor s (windowCurrent .doze prof) (windowLength .doze prof) (wakeLatency .doze prof (s.shadowOf 3).length) (s.requiredReady (cueIn .planned 1260)) 1 .latePredicted) :=
  by and_intros <;> decide

theorem test_wit_Replacement :
    (let s := { put { cam (.doze none) with station := some 1, resv := some { resv .doze false with start := 200, ready := 204 }, commitment := some 400 } with cues := [cueIn .planned 1300] };
      s.cue? 9 = some (cueIn .planned 1300) ∧
      (s.cues.map (·.id)).Nodup ∧ (s.port 3).hostPause = false ∧ (s.port 3).grade ≠ some 7 ∧
      (s.port 3).power.paused? = some .doze ∧ (s.port 3).profile = some prof ∧
      (s.port 3).resv = some { resv .doze false with start := 200, ready := 204 } ∧
      s.offset (s.requiredReady (cueIn .planned 1300)) < s.offset 204 ∧
      StartFor (s.modPort 3 ({ · with resv := none })) (windowCurrent .doze prof) (windowLength .doze prof) (wakeLatency .doze prof (s.shadowOf 3).length) (s.requiredReady (cueIn .planned 1300)) 1 .placed) := by decide

theorem test_wit_PlanningOrder :
    ((spin (cueIn .planned 3000) (.doze none)).cue? 9 = some (cueIn .planned 3000) ∧
      ((cueIn .planned 3000).members.map (·.port)).Pairwise (· < ·)) ∧
    (let r : Reservation := { resv .doze false with needed := some 8 }; r.started = false ∧ r.needed = some 8 ∧
      ((spin (cueIn .planned 3000) (.doze none)).cues.filter (fun c => c.state.planned? && c.members.any (fun m => m.port == 3) && c.id != 8)).map (·.id) = 9 :: []) ∧
    (let r : Reservation := { resv .doze false with needed := some 9 }; r.needed = some 9 ∧
      ∀ c ∈ (spin (cueIn .planned 3000) (.doze none)).cues, c.state.planned? = true → (∃ m ∈ c.members, m.port = 3) → c.id = 9) ∧
    ((resv .doze true).started = true ∧ (resv .doze false).needed ≠ some 9) := 
  by and_intros <;> decide

theorem test_wit_FireRequest :
    (let s := spin (cueIn .preparing 1200) (.ready none none); s.cue? 9 = some (cueIn .preparing 1200) ∧
      reachedMs s.clock (s.fireReqTime (cueIn .preparing 1200)) = true ∧ s.owner = none ∧ s.lock = none ∧
      s.waiting = []) ∧
    (let s := { spin (cueIn .preparing 1200) (.ready none none) with owner := some owner }; s.owner.isSome = true) ∧
    (∀ m ∈ (cueIn .preparing 1200).members, ((spin (cueIn .preparing 1200) (.ready none none)).port m.port).queue = []) ∧
    (reachedMs live.clock (⟨9, 1, 1200, 1000, 1000⟩ : FireReq).slackAt = true) ∧
    (let s := { spin (cueIn .preparing 1200) (.ready none none) with lock := some ⟨2, 5000⟩ };
      ∃ l ∈ s.lock, l.station ≠ (cueIn .preparing 1200).station) ∧
    (let s := { spin (cueIn .fireWait 1200) (.doze none) with waiting := [⟨9, 1, 1200, 1000, 1000⟩] };
      s.cue? 9 = some (cueIn .fireWait 1200) ∧
      (∀ d ∈ s.cues, d.id = 9 → d = cueIn .fireWait 1200) ∧ (⟨9, 1, 1200, 1000, 1000⟩ : FireReq) ∈ s.waiting ∧
      reachedMs s.clock 1000 = true ∧ (cueIn .fireWait 1200).grant = none) ∧
    ((∀ m ∈ (cueIn .preparing 1200).members, ((spin (cueIn .preparing 1200) (.ready none none)).port m.port).waitLine = [] ∧
      ((spin (cueIn .preparing 1200) (.ready none none)).port m.port).markPoll = false) ∧
      ((cueIn .preparing 1200).members.map (·.port)).Nodup) :=
  by and_intros <;> decide

theorem test_wit_PressAndSync :
    (reachedMs live.clock (addMs owner.t0 owner.focus) = true ∧
      reachedMs live.clock (addMs owner.t0 (owner.focus + owner.strobe)) = true ∧ owner.pressed = false ∧
      owner.synced = false) ∧
    (let s := { spin (cueIn .firing 1200) (.armed none true) with owner := some { owner with pressed := true } };
      ∃ p ∈ s.ownerPorts { owner with pressed := true }, (s.port p).power.isArmed = true) ∧
    (let s := { spin (cueIn .firing 1200) (.ready none none) with owner := some { owner with pressed := true } };
      ∀ p ∈ s.ownerPorts { owner with pressed := true }, (s.port p).power.isArmed = false) ∧
    (({ live with syncEnd := some 1000 } : State).syncEnd = some 1000 ∧ reachedMs live.clock 1000 = true) := 
  by and_intros <;> decide

theorem test_wit_ReleaseAndConfirm :
    (let o : Owner := { owner with pressed := true, synced := true }; o.released = false ∧
      reachedMs live.clock (addMs o.t0 (o.focus + o.press)) = true ∧
      (spin { cueIn .firing 1200 with confirm := [3] } (.armed none true)).cue? o.cue = some { cueIn .firing 1200 with confirm := [3] }) ∧
    (({ cueIn .firing 1200 with confirm := [3] } : Cue).confirm ≠ [] ∧ (cueIn .firing 1200).confirm = []) ∧
    ((spin { cueIn .confirming 1200 with timer := some 1000, confirm := [3] } (.ready none none)).cue? 9 = some { cueIn .confirming 1200 with timer := some 1000, confirm := [3] }) ∧
    (live.reports.length < 16 ∧ 16 ≤ ({ live with reports := List.replicate 16 .events } : State).reports.length) ∧
    (let o : Owner := { owner with pressed := true, synced := true };
      let s := { spin (cueIn .firing 1200) (.armed none true) with owner := some o }; s.owner = some o ∧
      s.cue? o.cue = some (cueIn .firing 1200) ∧ (∀ d ∈ s.cues, d.id = o.cue → d = cueIn .firing 1200) ∧
      (cueIn .firing 1200).state = .firing ∧ (cueIn .firing 1200).confirm = []) :=
  by and_intros <;> decide

theorem test_wit_FreeingAndLock :
    (let o : Owner := { owner with pressed := true, synced := true, released := true };
      reachedMs live.clock (addMs o.t0 (o.focus + o.press + 20)) = true ∧
      live.waiting = []) ∧
    (({ live with lock := some ⟨1, 1000⟩ } : State).lock = some ⟨1, 1000⟩ ∧ reachedMs live.clock 1000 = true) ∧
    (Taken .fireUnlock (req [1#8]) { live with lock := some ⟨1, 1000⟩ }) ∧
    (Taken .fireUnlock (req [3#8]) { live with lock := some ⟨1, 1000⟩ } ∧ u8 (req [3#8]).body 0 < 4 ∧
      u8 (req [3#8]).body 0 ≠ 1) ∧
    (let s := { live with waiting := [⟨9, 1, 1200, 1000, 1500⟩] }; ∀ q ∈ s.waiting, s.eligible q = true) ∧
    (let s := { live with waiting := [⟨9, 1, 1200, 1000, 1500⟩], owner := some owner };
      ∀ q ∈ s.waiting, s.eligible q = false) :=
  by and_intros <;> decide

theorem test_wit_CuePosting :
    (Taken .cuePost (req [1#8, 1#8, 0x10#8, 0x27#8, 0#8, 0#8, 0#8]) (put { cam (.ready none none) with station := some 1 }) ∧
      CheckForm.ofCode (u8 (req [1#8, 1#8, 0x10#8, 0x27#8, 0#8, 0#8, 0#8]).body 1) = some .none_ ∧
      postArgsOk (u8 (req [1#8, 1#8, 0x10#8, 0x27#8, 0#8, 0#8, 0#8]).body 6) (u32 (req [1#8, 1#8, 0x10#8, 0x27#8, 0#8, 0#8, 0#8]).body 2) (pairsAt (req [1#8, 1#8, 0x10#8, 0x27#8, 0#8, 0#8, 0#8]).body 7 (u8 (req [1#8, 1#8, 0x10#8, 0x27#8, 0#8, 0#8, 0#8]).body 6)) = true) ∧
    ((put { cam (.ready none none) with station := some 1 }).postRefusal 1 (u32 (req [1#8, 1#8, 0x10#8, 0x27#8, 0#8, 0#8, 0#8]).body 2) = none) ∧
    (diffSlot (61010 / 10) live.nowSlot ≤ 6000 + 1 ∧ 6000 < diffSlot (61010 / 10) live.nowSlot ∧
      diffSlot (61000 / 10) live.nowSlot ≤ 6000) ∧
    (Taken .cuePost (req [4#8, 1#8, 0#8, 0#8, 0#8, 0#8, 0#8]) live) ∧
    (Taken .cuePost (req [1#8, 0#8, 0#8, 0#8, 0#8, 0#8, 0#8]) live ∧ CheckForm.ofCode 0 = none) ∧
    (live.postRefusal 1 10000 = some .badState) ∧
    (live.membersOf 1 = [] ∧ (put { cam (.ready none none) with station := some 1 }).membersOf 1 ≠ []) ∧
    (2000000000 ≤ diffMs 999 live.clock ∧
      diffMs 1239 live.clock < (live.station 1).focusLead + (live.station 1).prepTime * 10 + 10) ∧
    (let s := put { cam (.ready none none) with station := some 1 }; 6000 < diffSlot (70000 / 10) s.nowSlot ∧
      s.postRefusal 1 70000 = none) ∧
    (let s := put { cam (.ready none none) with station := some 1 }; diffMs 86401001 s.clock < 2000000000 ∧
      86400000 < diffMs 86401001 s.clock ∧ s.postRefusal 1 86401001 = some .badArg ∧
      diffMs 86401000 s.clock ≤ 86400000 ∧ s.postRefusal 1 86401000 = none) ∧
    (let s := spin (cueIn .planned 10000) (.ready none none);
      (s.station 1).focusLead + (s.station 1).prepTime * 10 + 10 ≤ diffMs 10000 s.clock ∧
      (∃ c ∈ s.cues, c.station = 1 ∧ c.time = 10000) ∧ s.postRefusal 1 10000 = some .conflict) ∧
    (let s := { spin (cueIn .planned 10000) (.ready none none) with cues := List.replicate 16 (cueIn .planned 10000) };
      s.membersOf 1 ≠ [] ∧
      (∀ c ∈ s.cues, c.station = 1 → c.time ≠ 20000) ∧ 16 ≤ s.cues.length ∧ s.postRefusal 1 20000 = some .noRoom) :=
  by and_intros <;> decide

theorem test_wit_CueCancel :
    (Taken .cueCancel (req [0#8]) live ∧ u8 (req [0#8]).body 0 = 0) ∧
    (Taken .cueCancel (req [9#8]) live ∧ live.cue? (u8 (req [9#8]).body 0) = none) ∧
    ((spin (cueIn .firing 1200) (.ready none none)).cue? (u8 (req [9#8]).body 0) = some (cueIn .firing 1200) ∧
      (spin (cueIn .confirming 1200) (.ready none none)).cue? (u8 (req [9#8]).body 0) = some (cueIn .confirming 1200) ∧
      (spin (cueIn .waiting 1200) (.ready none none)).cue? (u8 (req [9#8]).body 0) = some (cueIn .waiting 1200) ∧
      (spin (cueIn .fireWait 1200) (.ready none none)).cue? (u8 (req [9#8]).body 0) = some (cueIn .fireWait 1200)) ∧
    (let s := spin (cueIn .planned 3000) (.ready none (some 9)); s.cue? 9 = some (cueIn .planned 3000) ∧
      (cueIn .planned 3000).state.planned? = true ∧ s.stationOf 3 ≠ none ∧
      (s.port 3).power = .ready none (some (cueIn .planned 3000).id)) :=
  by and_intros <;> decide

theorem test_wit_Settle :
    (Taken .settle (req [1#8, 0#8, 0#8]) live ∧ live.settleReq 1 = none ∧ live.settled 1 = true) ∧
    ((put { cam (.pausing ⟨.doze, .auto⟩ 2000) with station := some 1 }).settled 1 = false) ∧
    (({ live with settles := live.settles.set 1 (some ⟨7#8, 100, false, 1000⟩) } : State).settleReq 1 = some ⟨7#8, 100, false, 1000⟩ ∧
      reachedMs live.clock 1000 = true) :=
  by and_intros <;> decide

theorem test_wit_StationFields :
    (Taken .stationSet (req ([1#8, 8#8, 0#8, 0#8, 0#8, 1#8] ++ List.replicate 22 0#8 ++ [1#8, 0#8, 0#8])) live ∧
      stationFields? ([1#8, 8#8, 0#8, 0#8, 0#8, 1#8] ++ List.replicate 22 0#8 ++ [1#8, 0#8, 0#8]) ≠ none ∧
      u32 ([1#8, 8#8, 0#8, 0#8, 0#8, 1#8] ++ List.replicate 22 0#8 ++ [1#8, 0#8, 0#8]) 1 < 16777216) ∧
    (Taken .stationSet (req ([4#8, 8#8, 0#8, 0#8, 0#8, 1#8] ++ List.replicate 22 0#8 ++ [1#8, 0#8, 0#8])) live) ∧
    (stationFields? ([1#8, 8#8, 0#8, 0#8, 0#8, 0#8] ++ List.replicate 22 0#8 ++ [1#8, 0#8, 0#8]) = none ∧
      stationFields? ([1#8, 8#8, 0#8, 0#8, 0#8, 1#8] ++ List.replicate 22 0#8 ++ [3#8, 0#8, 0#8]) = none) ∧
    ((put { cam .deep with station := some 2 }).station 1 = Station.reset ∧ (8 : Nat).testBit (3 : PortId).val = true ∧
      ((put { cam .deep with station := some 2 }).port 3).station = some 2) ∧
    (∃ c ∈ (spin (cueIn .waiting 1200) .deep).cues, c.station = 1 ∧ c.state ≠ .done) ∧
    (∀ p : PortId, (8 : Nat).testBit p.val = true → (live.port p).station = none ∨ (live.port p).station = some 1) ∧
    (let s := (put { cam (.ready none none) with station := some 1 }).modPort 4 (fun _ => { cam (.ready none none) with station := some 1 });
      (8 : Nat).testBit (3 : PortId).val = true ∧
      (s.port 3).station = some 1 ∧ (8 : Nat).testBit (4 : PortId).val = false ∧ (s.port 4).station = some 1 ∧
      (s.port 4).power.isReady = true) :=
  by and_intros <;> decide

theorem test_wit_TablesRead :
    (Taken .stationGet (req [3#8]) live) ∧
    (Taken .stationGet (req [4#8]) live) ∧
    (Taken .cueList (req [15#8]) live) ∧
    (Taken .cueList (req [16#8]) live) ∧
    (Taken .idList (req [31#8]) live) ∧
    (Taken .idList (req [32#8]) live) := 
  by and_intros <;> decide

theorem test_wit_BudgetSet :
    (Taken .budgetSet (req [0xE8#8, 0x03#8, 0xF4#8, 0x01#8]) live ∧ u16 [0xE8#8, 0x03#8, 0xF4#8, 0x01#8] 0 = 1000 ∧
      u16 [0xE8#8, 0x03#8, 0xF4#8, 0x01#8] 2 = 500) ∧
    (Taken .budgetSet (req [0x0F#8, 0x27#8, 0xFF#8, 0xFF#8]) live ∧ u16 [0x0F#8, 0x27#8, 0xFF#8, 0xFF#8] 0 = 9999 ∧
      u16 [0x0F#8, 0x27#8, 0xFF#8, 0xFF#8] 2 = 65535) ∧
    (let s := put { cam (.ready none none) with commitment := some 1234 };
      clamp 1000 40000 (1000 / 100 * 100) < s.committed) :=
  by and_intros <;> decide

theorem test_wit_PortSet :
    (Taken .portSet (req [3#8, 0#8, 0#8, 0#8]) live) ∧
    (Taken .portSet (req [3#8, 0#8, 0#8, 1#8]) live ∧
      u8 [3#8, 0#8, 0#8, 1#8] 3 = (if (live.port 3).enabled then 1 else 2)) ∧
    ((cam .deep).enabled = true ∧ (cam .deep).power ≠ .vacant) ∧
    (({ cam .vacant with enabled := false } : Port).presence = true) := 
  by and_intros <;> decide

theorem test_wit_AheadWake :
    (Taken .aheadWake (req [2#8, 0#8, 8#8, 0#8, 0#8, 0#8, 0x58#8, 0x02#8, 1#8, 16#8, 5#8]) live ∧
      live.aheadNamed [2#8, 0#8, 8#8, 0#8, 0#8, 0#8, 0x58#8, 0x02#8, 1#8, 16#8, 5#8] = .inr [3] ∧
      aheadPairsOk (u8 [2#8, 0#8, 8#8, 0#8, 0#8, 0#8, 0x58#8, 0x02#8, 1#8, 16#8, 5#8] 8) (pairsAt [2#8, 0#8, 8#8, 0#8, 0#8, 0#8, 0x58#8, 0x02#8, 1#8, 16#8, 5#8] 9 (u8 [2#8, 0#8, 8#8, 0#8, 0#8, 0#8, 0x58#8, 0x02#8, 1#8, 16#8, 5#8] 8)) = true ∧
      clamp 1 600 (u16 [2#8, 0#8, 8#8, 0#8, 0#8, 0#8, 0x58#8, 0x02#8, 1#8, 16#8, 5#8] 6) = u16 [2#8, 0#8, 8#8, 0#8, 0#8, 0#8, 0x58#8, 0x02#8, 1#8, 16#8, 5#8] 6) ∧
    ((cam (.ready none none)).power.isReady = true ∧ (cam (.pausing ⟨.doze, .auto⟩ 2000)).hostPause = false) ∧
    ((cam (.armed none false)).power.isArmed = true ∧
      ({ cam (.doze none) with resv := some (resv .doze true) } : Port).startedResv = true) ∧
    ((cam .deep).power.paused?.isSome = true ∧ (cam .deep).startedResv = false ∧
      ({ cam .deep with hostPause := true } : Port).hostPause = true ∧
      ({ cam .deep with profile := none } : Port).profile = none) ∧
    ((put (cam .deep)).committed - (cam .deep).unstartedFigure + prof.awake ≤ (put (cam .deep)).steady) ∧
    (({ put (cam .deep) with steady := 399 } : State).steady < (put (cam .deep)).committed - (cam .deep).unstartedFigure + prof.awake) :=
  by and_intros <;> decide

theorem test_wit_AheadPlaced :
    (let s := put { cam (.deep) with hostPause := false };
      Taken .aheadWake (req [2#8, 0#8, 8#8, 0#8, 0#8, 0#8, 0x58#8, 0x02#8, 1#8, 16#8, 5#8]) s ∧
      s.aheadNamed [2#8, 0#8, 8#8, 0#8, 0#8, 0#8, 0x58#8, 0x02#8, 1#8, 16#8, 5#8] = .inr [3] ∧
      (s.port 3).power.paused? = some .deep ∧ (s.port 3).startedResv = false ∧ (s.port 3).hostPause = false ∧
      (s.port 3).grade ≠ some 7 ∧ (s.port 3).profile = some prof ∧
      s.committed - (s.port 3).unstartedFigure + prof.awake ≤ s.steady ∧
      EarliestFit (releaseUnstarted 3 s) (windowCurrent .deep prof) (windowLength .deep prof) 1) ∧
    (let s := put { cam (.keepwarm none) with resv := some (resv .keepwarm false), commitment := some 400 };
      Taken .aheadWake (req [2#8, 0#8, 8#8, 0#8, 0#8, 0#8, 0x58#8, 0x02#8, 1#8, 16#8, 5#8]) s ∧
      s.aheadNamed [2#8, 0#8, 8#8, 0#8, 0#8, 0#8, 0x58#8, 0x02#8, 1#8, 16#8, 5#8] = .inr [3] ∧
      (s.port 3).power.paused? = some .keepwarm ∧ (s.port 3).startedResv = false ∧ (s.port 3).hostPause = false ∧
      (s.port 3).grade ≠ some 7 ∧ (s.port 3).profile = some prof ∧
      s.committed - (s.port 3).unstartedFigure + prof.awake ≤ s.steady ∧
      EarliestFit (releaseUnstarted 3 s) (windowCurrent .keepwarm prof) (windowLength .keepwarm prof) 1) ∧
    (let s := put { cam .deep with resv := some (resv .deep true) }; (s.port 3).power = .deep ∧
      (s.port 3).startedResv = true ∧ (s.port 3).hostPause = false ∧ (s.port 3).grade ≠ some 7 ∧
      (s.port 3).profile.isSome = true) :=
  by and_intros <;> decide

theorem test_wit_AheadPorts :
    (Taken .aheadWake (req [2#8, 0#8, 0x18#8, 0#8, 0#8, 0#8, 0x58#8, 0x02#8, 1#8, 16#8, 5#8]) live ∧
      live.aheadNamed [2#8, 0#8, 0x18#8, 0#8, 0#8, 0#8, 0x58#8, 0x02#8, 1#8, 16#8, 5#8] = .inr [3, 4] ∧
      u8 [2#8, 0#8, 0x18#8, 0#8, 0#8, 0#8, 0x58#8, 0x02#8, 1#8, 16#8, 5#8] 0 = 2) ∧
    (let s := put { cam .deep with station := some 1 };
      Taken .aheadWake (req [1#8, 1#8, 0#8, 0#8, 0#8, 0#8, 1#8, 0#8, 1#8, 16#8, 5#8]) s ∧
      s.aheadNamed [1#8, 1#8, 0#8, 0#8, 0#8, 0#8, 1#8, 0#8, 1#8, 16#8, 5#8] = .inr [3] ∧
      u8 [1#8, 1#8, 0#8, 0#8, 0#8, 0#8, 1#8, 0#8, 1#8, 16#8, 5#8] 0 = 1 ∧
      u8 [1#8, 1#8, 0#8, 0#8, 0#8, 0#8, 1#8, 0#8, 1#8, 16#8, 5#8] 1 = 1) :=
  by and_intros <;> decide

theorem test_wit_AheadRefused :
    (Taken .aheadWake (req [0#8, 0#8, 0#8, 0#8, 0#8, 0#8, 1#8, 0#8, 0#8]) live ∧ aheadPairsOk 0 [] = false) ∧
    (4 ≤ u8 [1#8, 4#8, 0#8, 0#8, 0#8, 0#8, 1#8, 0#8, 1#8, 16#8, 5#8] 1 ∧
      u32 [2#8, 0#8, 0#8, 0#8, 0#8, 1#8] 2 = 16777216 ∧ u32 [2#8, 0#8, 0#8, 0#8, 0#8, 0#8] 2 = 0) ∧
    (Taken .aheadWake (req [1#8, 3#8, 0#8, 0#8, 0#8, 0#8, 1#8, 0#8, 1#8, 16#8, 5#8]) live ∧
      u8 [1#8, 3#8, 0#8, 0#8, 0#8, 0#8, 1#8, 0#8, 1#8, 16#8, 5#8] 1 = (3 : StationId).val ∧ live.membersOf 3 = [] ∧
      aheadPairsOk (u8 [1#8, 3#8, 0#8, 0#8, 0#8, 0#8, 1#8, 0#8, 1#8, 16#8, 5#8] 8) (pairsAt [1#8, 3#8, 0#8, 0#8, 0#8, 0#8, 1#8, 0#8, 1#8, 16#8, 5#8] 9 (u8 [1#8, 3#8, 0#8, 0#8, 0#8, 0#8, 1#8, 0#8, 1#8, 16#8, 5#8] 8)) = true) :=
  by and_intros <;> decide

theorem test_wit_OrderReturns :
    ((job (.aheadWrite [⟨16, 5#8⟩] 60 2000 4)).kind = .aheadWrite (⟨[⟨16, 5#8⟩], 60, 2000, 4⟩ : Order).pairs 60 2000 4 ∧
      reachedMs live.clock 2000 = false ∧ reachedMs live.clock 1000 = true) ∧
    (let s := put { cam .deep with order := some ⟨[⟨16, 6#8⟩], 60, 2000, 3⟩ }; (∀ x ∈ (s.port 3).order, x.seq ≤ 4) ∧
      ∃ x ∈ (s.port 3).order, 2 < x.seq) :=
  by and_intros <;> decide

theorem test_wit_AheadRemoval :
    (Taken .aheadDrop (req [0#8, 0#8, 0#8, 1#8]) live ∧ 16777216 ≤ u32 [0#8, 0#8, 0#8, 1#8] 0) ∧
    (Taken .aheadDrop (req [0xFF#8, 0xFF#8, 0xFF#8, 0#8]) live ∧ u32 [0xFF#8, 0xFF#8, 0xFF#8, 0#8] 0 < 16777216) ∧
    (({ cam .deep with order := some ⟨[], 1, 1000, 0⟩ } : Port).order = some ⟨[], 1, 1000, 0⟩ ∧
      reachedMs live.clock 1000 = true) ∧
    (({ live with adv := [⟨3, 16, 5#8, true, 900, 1000⟩] } : State).adv.find? (fun e => e.port == 3 && e.attr == 16) = some ⟨3, 16, 5#8, true, 900, 1000⟩) :=
  by and_intros <;> decide

theorem test_wit_WriteThrough :
    (live.boundPos 3 = none) ∧
    ((live.setEntry 0 (some (entry 5#48 (some 3)))).boundPos 3 = some 0 ∧
      (live.setEntry 0 (some (entry 5#48 (some 3)))).entryAt 0 = some (entry 5#48 (some 3))) ∧
    ((entry 5#48 none).shadow.Pairwise (fun a b => a.attr < b.attr) ∧ live.adv.length ≤ 32) := 
  by and_intros <;> decide

theorem test_wit_IdPinning :
    (Taken .idPin (req ([0#8, 0#8, 0#8, 0#8, 0#8, 5#8, 2#8] ++ List.replicate 10 0#8)) live ∧
      1 < u8 ([0#8, 0#8, 0#8, 0#8, 0#8, 5#8, 2#8] ++ List.replicate 10 0#8) 6) ∧
    (Taken .idPin (req ([0#8, 0#8, 0#8, 0#8, 0#8, 5#8, 0#8] ++ List.replicate 10 0#8)) live ∧
      live.posOf (identAt ([0#8, 0#8, 0#8, 0#8, 0#8, 5#8, 0#8] ++ List.replicate 10 0#8) 0) = none ∧
      live.freePos = some 0) ∧
    (let s := live.setEntry 0 (some (entry 5#48 none));
      s.posOf (identAt ([0#8, 0#8, 0#8, 0#8, 0#8, 5#8, 1#8] ++ List.replicate 10 0#8) 0) = some 0 ∧
      s.entryAt 0 = some (entry 5#48 none) ∧ s.pinBlocked (entry 5#48 none) = false) ∧
    ((put (cam (.ready none none))).pinBlocked (entry 5#48 (some 3)) = true) ∧
    (let s := { live with table := Vector.replicate 32 (some { entry 6#48 none with pinned := true }) };
      s.posOf 5#48 = none ∧
      s.freePos = none ∧ s.evictable = []) ∧
    (Taken .idUnpin (req [0#8, 0#8, 0#8, 0#8, 0#8, 5#8]) live ∧
      ({ entry 5#48 none with pinned := true } : IdEntry).pinned = true ∧ (entry 5#48 none).pinned = false) :=
  by and_intros <;> decide

theorem test_wit_IdRemoval :
    (Taken .idClear (req []) live ∧ live.walk = none) ∧
    (({ live with walk := some ⟨936, 31⟩ } : State).walk = some ⟨936, 31⟩ ∧ (31 : Position).val = 31 ∧
      reachedMs live.clock (addMs 936 (2 * 31)) = true) ∧
    (32 ≤ (⟨936, 32⟩ : Walk).next ∧ reachedMs live.clock (addMs 936 64) = true) ∧
    (Taken .idAging (req [1#8, 0#8]) live) ∧
    (({ live with clock := 300000 } : State).aging * 1000 ≤ diffMs 300000 0 ∧
      diffMs 299999 0 < clamp 1 300 300 * 1000) :=
  by and_intros <;> decide

theorem test_wit_IdentityLearned : (TableUnique live.table ∧ live.posOf 5#48 = none ∧ live.freePos = some 0) ∧
    (TableUnique (bound5 3 .deep).table ∧ (bound5 3 .deep).posOf 5#48 = some 0 ∧
      (bound5 3 .deep).entryAt 0 = some (entry 5#48 (some 3)) ∧ (bound5 3 .deep).boundIdent 3 = some 5#48) :=
  ⟨⟨unique_empty, by decide, by decide⟩, unique_of (by decide +kernel), by decide, by decide, by decide⟩

theorem test_wit_IdentityChange : (bound5 3 .deep).boundIdent 3 ≠ some 6#48 ∧ (bound5 3 .deep).posOf 6#48 = none ∧
    (bound5 3 .deep).freePos ≠ none ∧ (entry 5#48 (some 3)).ident ≠ 6#48 ∧
    ((bound5 3 (.waking ⟨.restore [⟨16, 1#8⟩, ⟨17, 2#8⟩], none, ⟨104, none⟩, none⟩)).port 3).lane = none ∧
    ({ cam (.waking ⟨.restore [⟨16, 1#8⟩, ⟨17, 2#8⟩], none, ⟨104, none⟩, none⟩) with resv := some (resv .deep true) } : Port).startedResv = true := by decide

theorem test_wit_IdentityMoves : (bound5 3 (.waking ⟨.restore [⟨16, 1#8⟩, ⟨17, 2#8⟩], none, ⟨104, none⟩, none⟩)).posOf 5#48 = some 0 ∧
    ((bound5 3 (.waking ⟨.restore [⟨16, 1#8⟩, ⟨17, 2#8⟩], none, ⟨104, none⟩, none⟩)).entryAt 0).map (·.bound) = some (some 3) ∧
    (((bound5 3 (.waking ⟨.restore [⟨16, 1#8⟩, ⟨17, 2#8⟩], none, ⟨104, none⟩, none⟩)).modPort 3 (fun c => { c with
      lane := some { exch .write 16 with src := .wake (.restoreWrite ⟨16, 1#8⟩) } })).port 3).lane =
      some { exch .write 16 with src := .wake (.restoreWrite ⟨16, 1#8⟩) } := by decide

theorem test_wit_IdentityEvicts : (TableUnique (fullTable false).table ∧ (fullTable false).posOf 5#48 = none ∧
      (fullTable false).freePos = none ∧
      ∀ e ∈ (fullTable false).entryAt 0, e.mayGo 3 ∧ ∀ j, ∀ d ∈ (fullTable false).entryAt j, d.mayGo 3 →
        (fullTable false).unboundFor 3 d < (fullTable false).unboundFor 3 e ∨
          ((fullTable false).unboundFor 3 d = (fullTable false).unboundFor 3 e ∧ 0 ≤ j)) ∧
    (TableUnique (fullTable true).table ∧ (fullTable true).posOf 5#48 = none ∧ (fullTable true).freePos = none ∧
      ∀ k, ∀ e ∈ (fullTable true).entryAt k, ¬ e.mayGo 3) :=
  ⟨⟨unique_of (by decide +kernel), by decide +kernel, by decide +kernel, by decide +kernel⟩,
    unique_of (by decide +kernel), by decide +kernel, by decide +kernel, by decide +kernel⟩

theorem test_wit_TrapRules :
    (Taken .trapGet (req [15#8]) live) ∧
    (Taken .trapGet (req [16#8]) live) ∧
    (Taken .trapSet (req ([15#8, 1#8, 0xFF#8, 1#8, 0#8, 0#8, 0#8, 0#8] ++ List.replicate 12 0#8 ++ [2#8])) live ∧
      u8 ([15#8, 1#8, 0xFF#8, 1#8, 0#8, 0#8, 0#8, 0#8] ++ List.replicate 12 0#8 ++ [2#8]) 0 = 15 ∧
      u8 ([15#8, 1#8, 0xFF#8, 1#8, 0#8, 0#8, 0#8, 0#8] ++ List.replicate 12 0#8 ++ [2#8]) 1 ≤ 1 ∧
      u16 ([15#8, 1#8, 0xFF#8, 1#8, 0#8, 0#8, 0#8, 0#8] ++ List.replicate 12 0#8 ++ [2#8]) 2 < 512 ∧
      u32 ([15#8, 1#8, 0xFF#8, 1#8, 0#8, 0#8, 0#8, 0#8] ++ List.replicate 12 0#8 ++ [2#8]) 4 < 16777216 ∧
      u8 ([15#8, 1#8, 0xFF#8, 1#8, 0#8, 0#8, 0#8, 0#8] ++ List.replicate 12 0#8 ++ [2#8]) 20 = 2) ∧
    (Taken .trapSet (req ([0#8, 0#8, 0xFF#8, 2#8, 0#8, 0#8, 0#8, 1#8] ++ List.replicate 12 0#8 ++ [3#8])) live ∧
      512 ≤ u16 ([0#8, 0#8, 0xFF#8, 2#8, 0#8, 0#8, 0#8, 1#8] ++ List.replicate 12 0#8 ++ [3#8]) 2 ∧
      16777216 ≤ u32 ([0#8, 0#8, 0xFF#8, 2#8, 0#8, 0#8, 0#8, 1#8] ++ List.replicate 12 0#8 ++ [3#8]) 4) :=
  by and_intros <;> decide

theorem test_wit_EventTaken :
    (eventCode 0x48#8 = 8 ∧ sequenceBit 0x48#8 = (cam .deep).pollBit ∧ sequenceBit 0x58#8 ≠ (cam .deep).pollBit) ∧
    (forwards live.traps.toList event = true ∧ forwards [⟨true, 0x80#9, 8#24, 0, 0, false⟩] event = false) ∧
    ((⟨true, 0x80#9, 8#24, 0, 0, false⟩ : TrapRule).matches event = true ∧ TrapRule.reset.matches event = false) ∧
    (({ live with events := [event] } : State).events ≠ [] ∧ 64 ≤ (List.replicate 64 event).length) := 
  by and_intros <;> decide

theorem test_wit_EventEffects :
    ((cam .deep).mediaFull = false ∧ (cam .deep).power.railOn = false ∧ (cam (.doze none)).power.railOn = true ∧
      ({ cam (.pausing ⟨.doze, .auto⟩ 2000) with offload := true } : Port).offload = true) ∧
    ((cam (.fault .laneLost)).power.isFault = true ∧ (cam .deep).power.isFault = false) ∧
    (let c := { cueIn .firing 1200 with confirm := [3], grant := some ⟨700, 0, 900⟩ };
      (spin c (.armed none true)).cues.filter ((spin c (.armed none true)).awaitsShot 3) = [c]) :=
  by and_intros <;> decide

theorem test_wit_EventsFetched :
    (Taken .eventsFetch (req [0#8]) live ∧ ∀ p, (live.port p).held = none) ∧
    ((put { cam .deep with held := some event }).oldestHeld = some 3 ∧ live.events.length < 64) ∧
    (let s := { (put { cam .deep with held := some event }).modPort 4 (fun _ => { cam .deep with held := some { event with port := 4 } }) with events := List.replicate 64 event };
      Taken .eventsFetch (req [1#8]) s ∧
      s.events ≠ [] ∧ s.oldestHeld = some 3 ∧ (s.port 4).held ≠ none) :=
  by and_intros <;> decide

theorem test_wit_BodiesReadBack :
    (prof.resumeLatency < 256 ∧ prof.initMax < 65536 ∧ prof.deepInrush < 65536 ∧ prof.inrushSlots < 256 ∧
      prof.awake < 65536 ∧ prof.resumeInrush < 65536) := by decide

/-- The invariant holds in the live module, and its step idles. -/
theorem test_wit_InvKeptByStep : ∃ s t : State, Inv s ∧ step s = .next t :=
  ⟨live, _, ⟨by unfold ClockInRange; decide, ⟨by unfold Port.Ok Port.OnlyHeadStarted; decide, by decide⟩, by unfold OneHolder; decide, unique_empty⟩, rfl⟩

/-- The budgets hold in the live module with a reservation on port 3, and its step lets time pass or a command become due. -/
theorem test_wit_BudgetsKept : ∃ s t : State, ClockInRange s ∧ WithinBudgets s ∧ (s.port 3).resv ≠ none ∧
step s = .next t :=
  ⟨setResv 3 (some (live.startAt (resv .doze false) 1 none)) live, _, by unfold ClockInRange; decide,
    within_place (within_idle (by decide)) (by decide), by decide, rfl⟩

theorem test_wit_PollHandsOn :
    (let e : Exchange := exch .poll 0;
      let s : State := put { cam (.ready none none) with lane := some e, queue := flying (.poll) :: [job .thermalRead] };
      JobSucceeds 3 e (flying (.poll)) [job .thermalRead] 0x49#8 1#8 s) ∧
    (let e : Exchange := exch .poll 0;
      let s : State := put { cam (.fault .laneLost) with lane := some e, queue := flying (.poll) :: [job .thermalRead] };
      JobSucceeds 3 e (flying (.poll)) [job .thermalRead] 0x48#8 1#8 s) ∧
    (let e : Exchange := { exch .poll 0 with retry := true, started := 998, src := .job };
      let s : State := put { cam (.ready none none) with lane := some e, queue := flying (.poll) :: [job .thermalRead] };
      JobFails 3 e (flying (.poll)) [job .thermalRead] s) :=
  by and_intros <;> decide

theorem test_wit_IdentifyReads :
    ((job (.identify (List.replicate 0 7#8))).kind = .identify (List.replicate 0 7#8) ∧
      (job (.identify (List.replicate 11 7#8))).kind = .identify (List.replicate 11 7#8) ∧
      (List.replicate 11 (7#8 : Byte)).length = 11) ∧
    (let e : Exchange := { exch .read 1 with data := 0#8 };
      let s : State := put { cam (.ready none none) with lane := some e, queue := flying (.identify (List.replicate 0 7#8)) :: [job .thermalRead] };
      JobSucceeds 3 e (flying (.identify (List.replicate 0 7#8))) [job .thermalRead] 0x40#8 5#8 s) ∧
    (let e : Exchange := { exch .read 11 with data := 0#8 };
      let s : State := put { cam (.ready none none) with lane := some e, queue := flying (.identify (List.replicate 10 7#8)) :: [job .thermalRead] };
      JobSucceeds 3 e (flying (.identify (List.replicate 10 7#8))) [job .thermalRead] 0x40#8 5#8 s) ∧
    (let e : Exchange := { exch .read 24 with data := 0#8 };
      let s : State := put { cam (.ready none none) with lane := some e, queue := flying (.identify (List.replicate 11 7#8)) :: [job .thermalRead] };
      JobSucceeds 3 e (flying (.identify (List.replicate 11 7#8))) [job .thermalRead] 0x40#8 5#8 s) ∧
    (let e : Exchange := exch .read 3; let j : Job := { flying (.identify (List.replicate 2 7#8)) with cut := true };
      let s := put { cam .deep with lane := some e, queue := [j] }; JobSucceeds 3 e j [] 0x40#8 5#8 s ∧
      j.cut = true) ∧
    (let e : Exchange := { exch .read 1 with retry := true, started := 998, src := .job };
      let s : State := put { cam (.ready none none) with lane := some e, queue := flying (.identify (List.replicate 0 7#8)) :: [job .thermalRead] };
      JobFails 3 e (flying (.identify (List.replicate 0 7#8))) [job .thermalRead] s) ∧
    (let e : Exchange := { exch .read 24 with retry := true, started := 998, src := .job };
      let s : State := put { cam (.ready none none) with lane := some e, queue := flying (.identify (List.replicate 11 7#8)) :: [] };
      JobFails 3 e (flying (.identify (List.replicate 11 7#8))) [] s) :=
  by and_intros <;> decide

theorem test_wit_WritesEnd :
    (let e : Exchange := { exch .write 15 with data := 5#8 };
      let s : State := put { cam (.ready none none) with lane := some e, queue := flying (.hostWrite 0 15 5#8) :: [job .thermalRead] };
      JobSucceeds 3 e (flying (.hostWrite 0 15 5#8)) [job .thermalRead] 0x40#8 5#8 s) ∧
    (let e : Exchange := { exch .write 16 with data := 5#8 };
      let s : State := put { cam (.ready none none) with lane := some e, queue := flying (.hostWrite 0 16 5#8) :: [job .thermalRead] };
      JobSucceeds 3 e (flying (.hostWrite 0 16 5#8)) [job .thermalRead] 0x40#8 5#8 s) ∧
    (let e : Exchange := { exch .write 23 with data := 5#8 };
      let s : State := put { cam (.ready none none) with lane := some e, queue := flying (.hostWrite 0 23 5#8) :: [job .thermalRead] };
      JobSucceeds 3 e (flying (.hostWrite 0 23 5#8)) [job .thermalRead] 0x40#8 5#8 s) ∧
    (let e : Exchange := { exch .write 24 with data := 5#8 };
      let s : State := put { cam (.ready none none) with lane := some e, queue := flying (.hostWrite 0 24 5#8) :: [job .thermalRead] };
      JobSucceeds 3 e (flying (.hostWrite 0 24 5#8)) [job .thermalRead] 0x40#8 5#8 s) ∧
    (let e : Exchange := { exch .write 16 with data := 5#8 };
      let s : State := { put { cam (.ready none none) with lane := some e, queue := flying (.prepWrite 9 true [⟨16, 5#8⟩]) :: [job .thermalRead] } with cues := [{ cueIn .preparing 1200 with members := [⟨3, none, none, .writing, none⟩] }] };
      JobSucceeds 3 e (flying (.prepWrite 9 true [⟨16, 5#8⟩])) [job .thermalRead] 0x40#8 5#8 s ∧
      s.cue? 9 = some { cueIn .preparing 1200 with members := [⟨3, none, none, .writing, none⟩] } ∧
      ({ cueIn .preparing 1200 with members := [⟨3, none, none, .writing, none⟩] } : Cue).state = .preparing ∧
      ({ cueIn .preparing 1200 with members := [⟨3, none, none, .writing, none⟩] } : Cue).members.find? (fun m => m.port == 3) = some ⟨3, none, none, .writing, none⟩) ∧
    (let e : Exchange := { exch .write 16 with data := 5#8 };
      let s : State := { put { cam (.ready none none) with lane := some e, queue := flying (.prepWrite 9 true [⟨16, 5#8⟩, ⟨23, 6#8⟩]) :: [job .thermalRead] } with cues := [{ cueIn .preparing 1200 with members := [⟨3, none, none, .writing, none⟩] }] };
      JobSucceeds 3 e (flying (.prepWrite 9 true [⟨16, 5#8⟩, ⟨23, 6#8⟩])) [job .thermalRead] 0x40#8 5#8 s) ∧
    (let e : Exchange := { exch .write 16 with data := 5#8 };
      let j : Job := { flying (.prepWrite 9 true [⟨16, 5#8⟩, ⟨23, 6#8⟩]) with cut := true };
      let s := put { cam (.doze none) with lane := some e, queue := [j] }; JobSucceeds 3 e j [] 0x40#8 5#8 s ∧
      j.cut = true ∧ (s.port 3).power.isLost = false) ∧
    (let e : Exchange := { exch .write 16 with retry := true, started := 998, src := .job };
      let s : State := { put { cam (.ready none none) with lane := some e, queue := flying (.prepWrite 9 true [⟨16, 5#8⟩]) :: [job .thermalRead] } with cues := [{ cueIn .preparing 1200 with members := [⟨3, none, none, .writing, none⟩] }] };
      JobFails 3 e (flying (.prepWrite 9 true [⟨16, 5#8⟩])) [job .thermalRead] s ∧
      s.cue? 9 = some { cueIn .preparing 1200 with members := [⟨3, none, none, .writing, none⟩] } ∧
      ({ cueIn .preparing 1200 with members := [⟨3, none, none, .writing, none⟩] } : Cue).state = .preparing ∧
      ({ cueIn .preparing 1200 with members := [⟨3, none, none, .writing, none⟩] } : Cue).members.find? (fun m => m.port == 3) = some ⟨3, none, none, .writing, none⟩) ∧
    (let e : Exchange := { exch .write 16 with retry := true, started := 998, src := .job };
      let s : State := { put { cam (.ready none none) with lane := some e, queue := flying (.prepWrite 9 true [⟨16, 5#8⟩, ⟨23, 6#8⟩]) :: [job .thermalRead] } with cues := [{ cueIn .preparing 1200 with members := [⟨3, none, none, .writing, none⟩] }] };
      JobFails 3 e (flying (.prepWrite 9 true [⟨16, 5#8⟩, ⟨23, 6#8⟩])) [job .thermalRead] s ∧
      s.cue? 9 = some { cueIn .preparing 1200 with members := [⟨3, none, none, .writing, none⟩] } ∧
      ({ cueIn .preparing 1200 with members := [⟨3, none, none, .writing, none⟩] } : Cue).state = .preparing ∧
      ({ cueIn .preparing 1200 with members := [⟨3, none, none, .writing, none⟩] } : Cue).members.find? (fun m => m.port == 3) = some ⟨3, none, none, .writing, none⟩) ∧
    (let e : Exchange := { exch .write 23 with data := 5#8 };
      let s : State := put { cam (.ready none none) with lane := some e, queue := flying (.aheadWrite [⟨23, 5#8⟩] 60 2000 4) :: [job .thermalRead] };
      JobSucceeds 3 e (flying (.aheadWrite [⟨23, 5#8⟩] 60 2000 4)) [job .thermalRead] 0x40#8 5#8 s) ∧
    (let e : Exchange := { exch .write 23 with data := 5#8 };
      let s : State := put { cam (.ready none none) with lane := some e, queue := flying (.aheadWrite [⟨23, 5#8⟩, ⟨16, 6#8⟩] 60 2000 4) :: [job .thermalRead] };
      JobSucceeds 3 e (flying (.aheadWrite [⟨23, 5#8⟩, ⟨16, 6#8⟩] 60 2000 4)) [job .thermalRead] 0x40#8 5#8 s) ∧
    (let e : Exchange := { exch .write 23 with data := 5#8 };
      let j : Job := { flying (.aheadWrite [⟨23, 5#8⟩, ⟨16, 6#8⟩] 60 2000 4) with cut := true };
      let s := put { cam (.doze none) with lane := some e, queue := [j] }; JobSucceeds 3 e j [] 0x40#8 5#8 s ∧
      j.cut = true ∧ (s.port 3).power.isLost = false) ∧
    (let e : Exchange := { exch .write 23 with retry := true, started := 998, src := .job };
      let s : State := put { cam (.ready none none) with lane := some e, queue := flying (.aheadWrite [⟨23, 5#8⟩] 60 2000 4) :: [job .thermalRead] };
      JobFails 3 e (flying (.aheadWrite [⟨23, 5#8⟩] 60 2000 4)) [job .thermalRead] s) ∧
    (let e : Exchange := { exch .write 23 with retry := true, started := 998, src := .job };
      let s : State := put { cam (.ready none none) with lane := some e, queue := flying (.aheadWrite [⟨23, 5#8⟩, ⟨16, 6#8⟩] 60 2000 4) :: [job .thermalRead] };
      JobFails 3 e (flying (.aheadWrite [⟨23, 5#8⟩, ⟨16, 6#8⟩] 60 2000 4)) [job .thermalRead] s) ∧
    ((cam .deep).power.isPausing = false ∧ (cam (.pausing ⟨.doze, .host⟩ 2000)).power.isPausing = true) ∧
    (let e : Exchange := { exch .write 16 with retry := true, started := 998 };
      let s := put { cam .deep with lane := some e }; (s.port 3).lane = some e ∧
      2 ≤ s.attemptAge e ∧ s.attemptAge e ≤ 3 ∧ attemptSucceeds e 0x80#8 0#8 (responseCheck 0x80#8 0#8) = false) ∧
    (let e : Exchange := { exch .write 16 with retry := true, started := 997 };
      let s := put { cam .deep with lane := some e }; (s.port 3).lane = some e ∧
      2 ≤ s.attemptAge e ∧ s.attemptAge e ≤ 3 ∧ attemptSucceeds e 0x80#8 0#8 (responseCheck 0x80#8 0#8) = false) :=
  by and_intros <;> decide

theorem test_wit_PingEnds :
    (let e : Exchange := exch .ping 12;
      let s : State := put { cam (.keepwarm none) with lane := some e, queue := flying (.ping) :: [job .thermalRead] };
      JobSucceeds 3 e (flying (.ping)) [job .thermalRead] 0x40#8 7#8 s) ∧
    (let e : Exchange := exch .ping 12;
      let s : State := put { cam (.doze none) with lane := some e, queue := flying (.ping) :: [job .thermalRead] };
      JobSucceeds 3 e (flying (.ping)) [job .thermalRead] 0x40#8 2#8 s) ∧
    (let e : Exchange := { exch .ping 12 with retry := true, started := 998, src := .job };
      let s : State := put { cam (.keepwarm none) with lane := some e, queue := flying (.ping) :: [job .thermalRead] };
      JobFails 3 e (flying (.ping)) [job .thermalRead] s) ∧
    ((cam (.doze none)).power.isKeepwarm = false) := 
  by and_intros <;> decide

theorem test_wit_CueCancelTakes :
    (let s := { put { cam (.ready none none) with station := some 1, lane := some (exch .write 16), queue := [flying (.prepWrite 9 true [⟨16, 5#8⟩])], waitLine := [job (.prepWrite 9 true [⟨16, 5#8⟩])] } with cues := [cueIn .preparing 3000] };
      s.cue? 9 = some (cueIn .preparing 3000) ∧
      (∀ q : PortId, (s.port q).power.isPausing = false) ∧
      (∀ q : PortId, ∀ i ∈ (s.port q).queue.tail ++ (s.port q).waitLine, i.started = false) ∧
      ∃ u, after (.cueCancel (req [9#8])) s = some u ∧ (u.port 3).waitLine = [] ∧
      (u.port 3).queue = [{ flying (.prepWrite 9 true [⟨16, 5#8⟩]) with cut := true }]) ∧
    (let s := { put { cam .deep with station := some 1, commitment := some 400, resv := some { resv .deep false with needed := some 9 } } with cues := [cueIn .planned 3000] };
      (s.port 3).resv = some { resv .deep false with needed := some 9 } ∧
      (s.port 3).power.paused?.isSome = true ∧
      (∀ d ∈ s.cues, d.id ≠ 9 → d.state.planned? = true → ∀ m ∈ d.members, m.port ≠ 3) ∧
      (∀ q : PortId, q ≠ 3 → (s.port q).resv = none) ∧ ∃ u, after (.cueCancel (req [9#8])) s = some u ∧
      (u.port 3).resv = none ∧ (u.port 3).commitment = none) ∧
    (let s := { put { cam .deep with station := some 1, commitment := some 400, resv := some { resv .deep true with needed := some 9 } } with cues := [cueIn .planned 3000] };
      ({ resv .deep true with needed := some 9 } : Reservation).started = true ∧
      ({ resv .deep true with needed := some 9 } : Reservation).needed = some 9 ∧
      ∃ u, after (.cueCancel (req [9#8])) s = some u ∧
      (u.port 3).resv = some { resv .deep true with needed := some 9 }) :=
  by and_intros <;> decide +kernel

theorem test_wit_ReleaseTimers :
    (let s := { spin (cueIn .firing 1200) (.armed none true) with owner := some { owner with pressed := true, synced := true } };
      (s.port 3).power = .armed none true ∧
      3 ∈ (cueIn .firing 1200).members.map (·.port) ∧ s.stationOf 3 ≠ none ∧ ∃ u, after .release s = some u ∧
      (u.port 3).power = .ready (some (addMs s.clock ((s.station 1).linger * 1000))) none) ∧
    (let s := { spin (cueIn .firing 1200) (.armed (some ⟨.deep, .host⟩) true) with owner := some { owner with pressed := true, synced := true } };
      (s.port 3).power = .armed (some ⟨.deep, .host⟩) true ∧
      3 ∈ (cueIn .firing 1200).members.map (·.port) ∧ s.stationOf 3 ≠ none ∧ ∃ u, after .release s = some u ∧
      (u.port 3).power.isReady = false) ∧
    (let s := { spin (cueIn .firing 1200) (.ready (some 2000) (some 9)) with owner := some { owner with pressed := true, synced := true } };
      (s.port 3).power = .ready (some 2000) (some 9) ∧
      3 ∈ (cueIn .firing 1200).members.map (·.port) ∧ s.stationOf 3 ≠ none ∧ ∃ u, after .release s = some u ∧
      (u.port 3).power = .ready (some (addMs s.clock ((s.station 1).linger * 1000))) none) ∧
    (let s := { spin (cueIn .firing 1200) (.deep) with owner := some { owner with pressed := true, synced := true } };
      (s.port 3).power = .deep ∧
      3 ∈ (cueIn .firing 1200).members.map (·.port) ∧ s.stationOf 3 ≠ none ∧ ∃ u, after .release s = some u ∧
      (u.port 3).power = .deep) ∧
    (4 ∉ (cueIn .firing 1200).members.map (·.port)) ∧
    ((put (cam (.ready none none))).stationOf 3 = none) := 
  by and_intros <;> decide +kernel

theorem test_wit_ResumeWaits :
    (let s := put { cam (.doze none) with resv := some { resv .doze false with start := 100 }, queue := [flying (.powerMode .doze)] };
      (s.port 3).resv = some { resv .doze false with start := 100 } ∧
      s.slotReached 100 = true ∧ (resv .doze false).from_ ≠ .deep ∧
      (s.port 3).power.paused? = some (resv .doze false).from_ ∧ (∃ j ∈ (s.port 3).queue, j.isPowerMode = true ∧
      j.started = true)) ∧
    (let e : Exchange := { exch .write 15 with data := 1#8 };
      let s : State := put { cam (.doze none) with lane := some e, queue := flying (.powerMode .doze) :: [job .thermalRead], resumeWait := some ⟨106, some 9⟩, resv := some (resv .doze true) };
      JobSucceeds 3 e (flying (.powerMode .doze)) [job .thermalRead] 0x40#8 1#8 s ∧
      (s.port 3).resumeWait = some ⟨106, some 9⟩ ∧ (s.port 3).power = .doze none ∧ (s.port 3).profile = some prof) ∧
    (let e : Exchange := { exch .write 15 with data := 1#8 };
      let s : State := put { cam (.keepwarm none) with lane := some e, queue := flying (.powerMode .doze) :: [job .thermalRead], resumeWait := some ⟨106, some 9⟩, resv := some (resv .doze true) };
      JobSucceeds 3 e (flying (.powerMode .doze)) [job .thermalRead] 0x40#8 1#8 s ∧
      (s.port 3).power.isKeepwarm = true) ∧
    (let e : Exchange := { exch .write 15 with retry := true, started := 998, src := .job };
      let s : State := put { cam (.keepwarm none) with lane := some e, queue := flying (.powerMode .doze) :: [job .thermalRead], resumeWait := some ⟨106, some 9⟩, resv := some (resv .doze true) };
      JobFails 3 e (flying (.powerMode .doze)) [job .thermalRead] s ∧
      (s.port 3).power.paused? ≠ some .doze) ∧
    (let e : Exchange := { exch .write 15 with retry := true, started := 998, src := .job };
      let s : State := put { cam (.doze none) with lane := some e, queue := flying (.powerMode .doze) :: [job .thermalRead], resumeWait := some ⟨106, some 9⟩, resv := some (resv .doze true) };
      JobFails 3 e (flying (.powerMode .doze)) [job .thermalRead] s ∧
      (s.port 3).power.paused? = some .doze ∧ (s.port 3).startedResv = true) :=
  by and_intros <;> decide

theorem test_wit_WakeEndsWithPause :
    (let s := put { cam (.waking ⟨.calibrate (some 100), none, ⟨120, none⟩, some ⟨.doze, .host⟩⟩) with offload := true, grade := some 2 };
      s.shadowOf 3 = [] ∧
      s.slotReached 100 = true ∧
      ((put (cam (.waking ⟨.calibrate (some 100), none, ⟨120, none⟩, some ⟨.doze, .host⟩⟩))).port 3).power = .waking ⟨.calibrate (some 100), none, ⟨120, none⟩, some ⟨.doze, .host⟩⟩ ∧
      (s.port 3).offload = true ∧ (s.port 3).pauseHeldByJob = false ∧ (s.port 3).grade = some 2) ∧
    (let s := put { cam (.waking ⟨.calibrate (some 100), none, ⟨120, none⟩, some ⟨.doze, .host⟩⟩) with offload := false, grade := some 2 };
      s.shadowOf 3 = [] ∧
      s.slotReached 100 = true ∧
      ((put (cam (.waking ⟨.calibrate (some 100), none, ⟨120, none⟩, some ⟨.doze, .host⟩⟩))).port 3).power = .waking ⟨.calibrate (some 100), none, ⟨120, none⟩, some ⟨.doze, .host⟩⟩ ∧
      (s.port 3).offload = false ∧ (s.port 3).pauseHeldByJob = false ∧ (s.port 3).grade = some 2) ∧
    (let s := put { cam (.waking ⟨.calibrate (some 100), none, ⟨120, none⟩, some ⟨.deep, .host⟩⟩) with offload := false, grade := some 2 };
      s.shadowOf 3 = [] ∧
      s.slotReached 100 = true ∧
      ((put (cam (.waking ⟨.calibrate (some 100), none, ⟨120, none⟩, some ⟨.deep, .host⟩⟩))).port 3).power = .waking ⟨.calibrate (some 100), none, ⟨120, none⟩, some ⟨.deep, .host⟩⟩ ∧
      (s.port 3).offload = false ∧ (s.port 3).pauseHeldByJob = false ∧ (s.port 3).grade = some 2) ∧
    (let s := put { cam (.waking ⟨.calibrate (some 100), none, ⟨120, none⟩, some ⟨.keepwarm, .host⟩⟩) with offload := false, grade := none };
      s.shadowOf 3 = [] ∧
      s.slotReached 100 = true ∧
      ((put (cam (.waking ⟨.calibrate (some 100), none, ⟨120, none⟩, some ⟨.keepwarm, .host⟩⟩))).port 3).power = .waking ⟨.calibrate (some 100), none, ⟨120, none⟩, some ⟨.keepwarm, .host⟩⟩ ∧
      (s.port 3).offload = false ∧ (s.port 3).pauseHeldByJob = false ∧ (s.port 3).grade = none) ∧
    (let s := put { cam (.waking ⟨.calibrate (some 100), none, ⟨120, none⟩, some ⟨.keepwarm, .host⟩⟩) with offload := false, grade := some 7 };
      s.shadowOf 3 = [] ∧
      s.slotReached 100 = true ∧
      ((put (cam (.waking ⟨.calibrate (some 100), none, ⟨120, none⟩, some ⟨.keepwarm, .host⟩⟩))).port 3).power = .waking ⟨.calibrate (some 100), none, ⟨120, none⟩, some ⟨.keepwarm, .host⟩⟩ ∧
      (s.port 3).offload = false ∧ (s.port 3).pauseHeldByJob = false ∧ (s.port 3).grade = some 7) ∧
    (let e : Exchange := { exch .write 16 with src := .wake (.restoreWrite ⟨16, 0#8⟩), started := 999 };
      let s := put { cam (.waking ⟨.restore [⟨16, 0#8⟩], none, ⟨120, none⟩, some ⟨.deep, .host⟩⟩) with lane := some e };
      (s.port 3).lane = some e ∧
      s.attemptAge e < 2 ∧ attemptSucceeds e 0x40#8 0#8 (responseCheck 0x40#8 0#8) = true ∧
      (s.port 3).power = .waking ⟨.restore [⟨16, 0#8⟩], none, ⟨120, none⟩, some ⟨.deep, .host⟩⟩) ∧
    (let e : Exchange := { exch .read 0 with src := .wake (.resumeRead), started := 999 };
      let s := put { cam (.waking ⟨.resume none 3, none, ⟨120, none⟩, some ⟨.deep, .host⟩⟩) with lane := some e };
      (s.port 3).lane = some e ∧
      s.attemptAge e < 2 ∧ attemptSucceeds e 0x40#8 1#8 (responseCheck 0x40#8 1#8) = true ∧
      (s.port 3).power = .waking ⟨.resume none 3, none, ⟨120, none⟩, some ⟨.deep, .host⟩⟩) :=
  by and_intros <;> decide

theorem test_wit_OnlyHeadStarted :
    ((∀ p : PortId, (live.port p).queue.tail ++ (live.port p).waitLine = []) ∧
      (∀ i ∈ [flying .poll, job .ping].tail ++ [job (.identify [])], i.started = false)) := by decide

theorem test_wit_EmptyQueueRaisesWaiting :
    (live.events = [] ∧ Report.events ∉ live.reports ∧ live.eventsMark = false ∧ live.reports.length < 16 ∧
      forwards live.traps.toList event = true) ∧
    (let s : State := { live with reports := List.replicate 16 (.camera 3) }; s.events = [] ∧
      Report.events ∉ s.reports ∧ 16 ≤ s.reports.length) :=
  by and_intros <;> decide

theorem test_wit_IdPinNew :
    (Taken .idPin (req ([0#8, 0#8, 0#8, 0#8, 0#8, 5#8, 1#8] ++ List.replicate 10 0#8)) live ∧
      u8 ([0#8, 0#8, 0#8, 0#8, 0#8, 5#8, 1#8] ++ List.replicate 10 0#8) 6 = 1 ∧
      live.posOf (identAt ([0#8, 0#8, 0#8, 0#8, 0#8, 5#8, 1#8] ++ List.replicate 10 0#8) 0) = none ∧
      live.freePos = some 0) ∧
    (let s := fullTable false;
      s.posOf (identAt ([0#8, 0#8, 0#8, 0#8, 0#8, 5#8, 1#8] ++ List.replicate 10 0#8) 0) = none ∧
      s.freePos = none ∧ ∃ k, ∃ e, s.entryAt k = some e ∧ e.bound = none ∧ e.pinned = false ∧
      ∀ j, ∀ d ∈ s.entryAt j, d.bound = none → d.pinned = false → diffMs s.clock (d.unbind.getD s.clock) < diffMs s.clock (e.unbind.getD s.clock) ∨ (diffMs s.clock (d.unbind.getD s.clock) = diffMs s.clock (e.unbind.getD s.clock) ∧
      k ≤ j)) :=
  by and_intros <;> decide +kernel

theorem test_wit_LimitNotDue :
    (live.limitMayBeReached 3 = false) ∧
    ((put { cam .deep with lane := some (exch .read 12) }).limitMayBeReached 3 = false) ∧
    ((put { cam .deep with lane := some { exch .read 12 with started := 998 } }).limitMayBeReached 3 = true) := 
  by and_intros <;> decide

theorem test_wit_UnknownNumbers :
    (Taken .clearFault (req [24#8]) live ∧ 24 ≤ u8 [24#8] 0) ∧
    (Taken .attrGet (req [24#8, 1#8]) live) ∧
    (Taken .attrSet (req [24#8, 16#8, 5#8]) live) ∧
    (Taken .portSet (req [24#8, 0#8, 0#8, 1#8]) live) ∧
    (Taken .settle (req [4#8, 0#8, 0#8]) live ∧ 4 ≤ u8 [4#8, 0#8, 0#8] 0) ∧
    (Taken .fireUnlock (req [4#8]) live) ∧
    (Taken .fireUnlock (req [3#8]) live ∧ live.lock = none ∧ u8 [3#8] 0 < 4) ∧
    (Taken .fireUnlock (req [1#8]) ({ live with owner := some owner } : State) ∧
      ({ live with owner := some owner } : State).owner.isSome = true) :=
  by and_intros <;> decide

theorem test_wit_WarmPorts :
    (({ live with restart := some ⟨false, 500, 0⟩ } : State).heldOut = [] ∧
      reachedMs live.clock (addMs 500 500) = true) ∧
    (let s : State := { put { cam .deep with resv := some (resv .deep false), commitment := some 400 } with restart := some ⟨false, 500, 0⟩ };
      (s.port 3).unstarted = true ∧
      (s.port 3).power.paused?.isSome = true ∧ ∃ t, after .restartExpiry s = some t ∧ (t.port 3).resv = none) ∧
    (let s : State := { put { cam .deep with resv := some (resv .deep true), commitment := some 400 } with restart := some ⟨false, 500, 0⟩ };
      (s.port 3).unstarted = false ∧
      (s.port 3).power.paused?.isSome = true ∧ ∃ t, after .restartExpiry s = some t ∧
      (t.port 3).resv = some (resv .deep true)) ∧
    (let s : State := { put { cam (.doze none) with queue := [flying (.hostWrite 0 32 5#8), job (.hostRead 1 8), job .ping], lane := some (exch .write 32), waitLine := [job (.prepWrite 9 true []), job (.identify [])] } with restart := some ⟨false, 500, 0⟩ };
      (s.port 3).power.isArmed = false ∧
      (flying (.hostWrite 0 32 5#8)).isHost = true ∧ ∃ t, after .restartExpiry s = some t ∧
      (t.port 3).queue = [flying (.hostWrite 0 32 5#8), job .ping, job (.identify [])]) ∧
    (let s : State := { put { cam (.doze none) with queue := [flying (.aheadWrite [⟨23, 5#8⟩] 60 2000 4), job (.hostRead 1 8), job .ping], lane := some (exch .write 23) } with restart := some ⟨false, 500, 0⟩ };
      (s.port 3).laneHasJob = true ∧
      ∃ t, after .restartExpiry s = some t ∧
      (t.port 3).queue.head? = some ⟨.aheadWrite [⟨23, 5#8⟩] 60 2000 4, true, true, true⟩) ∧
    (let s : State := { put { cam (.ready none (some 9)) with station := some 1 } with restart := some ⟨false, 500, 0⟩ };
      (s.port 3).pauseHeldByJob = false ∧
      ∃ t, after .restartExpiry s = some t ∧
      (t.port 3).power = .ready (some (addMs 1000 ((live.station 1).linger * 1000))) none) ∧
    (let s : State := { put { cam (.armed none true) with station := some 1 } with restart := some ⟨false, 500, 0⟩ };
      (s.port 3).pauseHeldByJob = false ∧
      ∃ t, after .restartExpiry s = some t ∧
      (t.port 3).power = .ready (some (addMs 1000 ((live.station 1).linger * 1000))) none) ∧
    (let s : State := { put { cam (.armed (some ⟨.deep, .host⟩) true) with station := some 1 } with restart := some ⟨false, 500, 0⟩ };
      (s.port 3).pauseHeldByJob = false ∧
      ∃ t, after .restartExpiry s = some t ∧ (t.port 3).power = .deep) ∧
    (let s : State := { put { cam (.pausing ⟨.doze, .host⟩ 2000) with station := some 1, offload := true } with restart := some ⟨false, 500, 0⟩ };
      (s.port 3).pauseHeldByJob = false ∧
      ∃ t, after .restartExpiry s = some t ∧ (t.port 3).power = .pausing ⟨.doze, .host⟩ 2000) ∧
    (let s : State := { put { cam (.keepwarm none) with station := some 1 } with restart := some ⟨false, 500, 0⟩ };
      (s.port 3).pauseHeldByJob = false ∧
      ∃ t, after .restartExpiry s = some t ∧ (t.port 3).power = .keepwarm none) :=
  by and_intros <;> decide +kernel

theorem test_wit_LossRecorded :
    (let c : Cue := cueIn .waiting 1200; let s := spin c (.ready none none); (∃ m ∈ c.members, m.port = 3) ∧
      (∀ x ∈ s.cues, x.id = c.id → x = c) ∧ (s.port 3).enabled = true ∧ (s.port 3).power ≠ .vacant ∧
      ∃ u, after (.presenceFall 3) s = some u ∧ u.cues = [c]) ∧
    (let c : Cue := cueIn .planned 1200; let s := spin c (.ready none none); (∃ m ∈ c.members, m.port = 3) ∧
      (∀ x ∈ s.cues, x.id = c.id → x = c) ∧ (s.port 3).enabled = true ∧ (s.port 3).power ≠ .vacant ∧
      ∃ u, after (.presenceFall 3) s = some u ∧
      u.cues = [c.modMember 3 ({ · with disp := some .vacant, ready := none, prep := .notStarted })]) ∧
    (let c : Cue := cueIn .preparing 1200; let s := spin c (.ready none none); (∃ m ∈ c.members, m.port = 3) ∧
      (∀ x ∈ s.cues, x.id = c.id → x = c) ∧ (s.port 3).enabled = true ∧ (s.port 3).power ≠ .vacant ∧
      ∃ u, after (.presenceFall 3) s = some u ∧
      u.cues = [c.modMember 3 ({ · with disp := some .vacant, ready := none, prep := .notStarted })]) ∧
    (let c : Cue := { cueIn .fireWait 1200 with profile := [] }; let s := spin c (.ready none none);
      (∃ m ∈ c.members, m.port = 3) ∧
      (∀ x ∈ s.cues, x.id = c.id → x = c) ∧ (s.port 3).enabled = true ∧ (s.port 3).power ≠ .vacant ∧
      ∃ u, after (.presenceFall 3) s = some u ∧
      u.cues = [c.modMember 3 ({ · with disp := some .vacant, ready := none })]) ∧
    (let c : Cue := { cueIn .firing 1200 with confirm := [3] }; let s := spin c (.ready none none);
      (∃ m ∈ c.members, m.port = 3) ∧
      (∀ x ∈ s.cues, x.id = c.id → x = c) ∧ (s.port 3).enabled = true ∧ (s.port 3).power ≠ .vacant ∧
      ∃ u, after (.presenceFall 3) s = some u ∧ u.cues = [c.withOutcome 3 .vacant]) ∧
    (let c : Cue := { cueIn .confirming 1200 with confirm := [4] }; let s := spin c (.ready none none);
      (∃ m ∈ c.members, m.port = 3) ∧
      (∀ x ∈ s.cues, x.id = c.id → x = c) ∧ (s.port 3).enabled = true ∧ (s.port 3).power ≠ .vacant ∧
      ∃ u, after (.presenceFall 3) s = some u ∧ u.cues = [c]) ∧
    (let c : Cue := { cueIn .confirming 1200 with confirm := [3, 4] }; let s := spin c (.ready none none);
      (∃ m ∈ c.members, m.port = 3) ∧
      (∀ x ∈ s.cues, x.id = c.id → x = c) ∧ (s.port 3).enabled = true ∧ (s.port 3).power ≠ .vacant ∧
      ∃ u, after (.presenceFall 3) s = some u ∧ u.cues = [c.withOutcome 3 .vacant] ∧
      (c.withOutcome 3 .vacant).confirm ≠ []) ∧
    (let c : Cue := { cueIn .confirming 1200 with confirm := [3] }; let s := spin c (.ready none none);
      (∃ m ∈ c.members, m.port = 3) ∧
      (∀ x ∈ s.cues, x.id = c.id → x = c) ∧ (s.port 3).enabled = true ∧ (s.port 3).power ≠ .vacant ∧
      ∃ u, after (.presenceFall 3) s = some u ∧ u.cues = [] ∧
      Report.cueDone (c.withOutcome 3 .vacant).doneBody ∈ u.reports) ∧
    (let c : Cue := cueIn .planned 1200; let s := spin c (.ready none none);
      ∃ u, after (.presenceFall 4) (s.modPort 4 (fun _ => cam .deep)) = some u ∧
      (∀ m ∈ c.members, m.port ≠ 4) ∧ u.cues = [c]) :=
  by and_intros <;> decide +kernel

theorem test_wit_ShotTaken :
    (∀ c ∈ (spin (cueIn .firing 1200) (.armed none true)).cues, (spin (cueIn .firing 1200) (.armed none true)).awaitsShot 3 c = false) ∧
    (let c : Cue := { cueIn .confirming 1200 with id := 9, confirm := [3, 4], grant := some ⟨700, 0, 900⟩ };
      let s : State := { spin c (.armed none true) with cues := [c] }; s.awaitsShot 3 c = true ∧
      (∀ x ∈ s.cues, x.id = c.id → x = c) ∧ (c.withOutcome 3 .taken).confirm ≠ []) ∧
    (let c : Cue := { cueIn .confirming 1200 with id := 9, confirm := [3], grant := some ⟨700, 0, 900⟩ };
      let s : State := { spin c (.armed none true) with cues := [c] }; s.awaitsShot 3 c = true ∧
      (∀ x ∈ s.cues, x.id = c.id → x = c) ∧ (c.withOutcome 3 .taken).confirm = [] ∧ s.reports.length < 16) ∧
    (let c : Cue := { cueIn .confirming 1200 with id := 9, confirm := [3], grant := some ⟨700, 0, 900⟩ };
      let s : State := { spin c (.armed none true) with cues := [c], reports := List.replicate 16 .events };
      s.awaitsShot 3 c = true ∧
      (∀ x ∈ s.cues, x.id = c.id → x = c) ∧ 16 ≤ s.reports.length) ∧
    (let c : Cue := { cueIn .confirming 1200 with id := 9, confirm := [3], grant := some ⟨700, 0, 900⟩ };
      let s : State := { spin c (.armed none true) with cues := [c, { cueIn .firing 1200 with id := 8, confirm := [3], grant := some ⟨800, 0, 900⟩ }] };
      s.awaitsShot 3 c = true ∧
      (∀ x ∈ s.cues, x.id = c.id → x = c) ∧
      s.awaitsShot 3 { cueIn .firing 1200 with id := 8, confirm := [3], grant := some ⟨800, 0, 900⟩ } = true ∧
      diffMs s.clock 800 < diffMs s.clock 700) ∧
    (let s := put { cam (.pausing ⟨.deep, .auto⟩ 2000) with offload := true }; (s.port 3).pauseHeldByJob = false ∧
      (eventEffect 3 .offloadEnd s |>.port 3).power = .deep) ∧
    (let s := put { cam (.pausing ⟨.keepwarm, .auto⟩ 2000) with offload := true }; (s.port 3).pauseHeldByJob = false ∧
      (eventEffect 3 .offloadEnd s |>.port 3).power = .keepwarm (some (addMs 1000 60000))) :=
  by and_intros <;> decide

theorem test_wit_UnarmedOutcomes :
    (let c : Cue := { cueIn .preparing 1200 with members := [⟨3, none, none, .failed, none⟩] };
      let s := spin c (.ready none none); s.cue? 9 = some c ∧
      reachedMs s.clock (s.fireReqTime c) = true ∧ (s.port 3).queue = [] ∧ (c.members.map (·.port)).Nodup ∧
      ∃ u, after (.fireRequestTime 9) s = some u ∧
      (u.cue? 9).map (·.members) = some [⟨3, none, none, .failed, some .prepFailed⟩]) ∧
    (outcomeIfUnarmed (cam (.vacant)) ⟨3, none, none, .complete, none⟩ = .vacant) ∧
    (outcomeIfUnarmed (cam (.fault .laneLost)) ⟨3, some .shed, none, .complete, none⟩ = .fault) ∧
    (outcomeIfUnarmed (cam (.ready none none)) ⟨3, none, none, .late, none⟩ = .prepLate) ∧
    (outcomeIfUnarmed (cam (.ready none none)) ⟨3, some .parked, none, .complete, none⟩ = .mediaFull) ∧
    (outcomeIfUnarmed (cam (.deep)) ⟨3, some .parked, none, .late, none⟩ = .parked) ∧
    (outcomeIfUnarmed (cam (.doze none)) ⟨3, some .covered, none, .complete, none⟩ = .notReady) := 
  by and_intros <;> decide

/-- A camera that leaves KEEPWARM at a PING's reading of 7 has its POWER_MODE ahead of the waiting line: the freed entry is served
after the result (R37). -/
theorem test_pingResultAheadOfLine : ((after (.laneResponse 3 0x40#8 7#8 (responseCheck 0x40#8 7#8) false)
      (put { cam (.keepwarm none) with
        lane := some (exch .ping 12)
        queue := flying .ping :: List.replicate 7 (job .poll)
        waitLine := [job .thermalRead] })).map (fun u => ((u.port 3).queue.map (·.kind), (u.port 3).waitLine.map (·.kind)))) =
    some (List.replicate 7 .poll ++ [.powerMode .doze], [.thermalRead]) := by decide +kernel

/-! ## Witnesses of the clauses on the timed commands, the end of a step and the readouts -/

theorem test_wit_DueNow :
    (Instr.responseLimitExpiry 3 true ∈ (put { cam .deep with
      lane := some { exch .read 12 with started := 997 }, attention := true }).dueEvents) ∧
    (Instr.responseLimitExpiry 3 true ∉ (put { cam .deep with
      lane := some { exch .read 12 with started := 998 }, attention := true }).dueEvents) ∧
    (Instr.reservationStart 3 ∈ (put { cam .deep with resv := some (resv .deep false) }).dueEvents ∧
      Instr.reservationStart 3 ∉ (put { cam .deep with resv := some { resv .deep false with start := 101 } }).dueEvents) ∧
    (Instr.resetHoldEnd 3 ∈ (put (cam (.waking ⟨.resetHold 100 false true, none, ⟨120, none⟩, none⟩))).dueEvents ∧
      Instr.resetHoldEnd 3 ∉ (put (cam (.waking ⟨.resetHold 100 true true, none, ⟨120, none⟩, none⟩))).dueEvents) ∧
    (Instr.resumeRead 3 ∈ (put (cam (.waking ⟨.resume (some 1000) 3, none, ⟨104, none⟩, none⟩))).dueEvents ∧
      Instr.resumeRead 3 ∉ (put (cam (.waking ⟨.resume (some 1001) 3, none, ⟨104, none⟩, none⟩))).dueEvents) ∧
    (Instr.fireRequestTime 9 ∈ (spin (cueIn .preparing 1200) (.ready none none)).dueEvents ∧
      Instr.fireRequestTime 9 ∉ (spin (cueIn .preparing 1201) (.ready none none)).dueEvents) ∧
    (Instr.freeing ∈ ({ live with owner := some { owner with pressed := true, synced := true, released := true } } : State).dueEvents ∧
      Instr.freeing ∉ ({ live with owner := some { owner with pressed := true, synced := true } } : State).dueEvents) ∧
    (Instr.clearWalkEnd ∈ ({ live with walk := some ⟨936, 32⟩ } : State).dueEvents ∧
      Instr.clearWalkVisit ∈ ({ live with walk := some ⟨938, 31⟩ } : State).dueEvents) :=
  by and_intros <;> decide

theorem test_wit_HostReadEverywhere :
    (let s := { put { cam (.pausing ⟨.doze, .auto⟩ 2000) with lane := some (exch .read 32), queue := [flying (.hostRead 0 32), job .poll], waitLine := [job (.identify [])] } with line := [⟨0, 0x8B#8, 7#8, none⟩] };
      JobSucceeds 3 (exch .read 32) (flying (.hostRead 0 32)) [job .poll] 0x40#8 9#8 s ∧
      ∃ u, after (.laneResponse 3 0x40#8 9#8 (responseCheck 0x40#8 9#8) false) s = some u ∧
      u.line.map (·.body) = [some [0x00#8, 0x01#8, 9#8]] ∧ (u.port 3).power = .doze none ∧
      (u.port 3).queue.map (·.kind) = [.poll, .identify [], .powerMode .doze]) ∧
    (let s := put { cam (.pausing ⟨.doze, .auto⟩ 2000) with lane := some (exch .read 32), queue := [flying (.hostRead 0 32)], offload := true };
      JobSucceeds 3 (exch .read 32) (flying (.hostRead 0 32)) [] 0x40#8 9#8 s ∧
      ∃ u, after (.laneResponse 3 0x40#8 9#8 (responseCheck 0x40#8 9#8) false) s = some u ∧
      (u.port 3).power = .pausing ⟨.doze, .auto⟩ 2000) ∧
    (let s := put { cam (.fault .laneLost) with run := 3, lane := some (exch .read 32), queue := [flying (.hostRead 0 32)] };
      JobSucceeds 3 (exch .read 32) (flying (.hostRead 0 32)) [] 0x40#8 9#8 s ∧
      ∃ u, after (.laneResponse 3 0x40#8 9#8 (responseCheck 0x40#8 9#8) false) s = some u ∧ (u.port 3).run = 3) ∧
    (let s := put { cam (.ready none none) with lane := some (exch .read 12), queue := [flying (.hostRead 0 12)] };
      JobSucceeds 3 (exch .read 12) (flying (.hostRead 0 12)) [] 0x40#8 7#8 s ∧
      ∃ u, after (.laneResponse 3 0x40#8 7#8 (responseCheck 0x40#8 7#8) false) s = some u ∧
      (u.port 3).grade = some 7 ∧ (u.port 3).power = .doze none) ∧
    (let c : Port := { cam (.keepwarm none) with queue := List.replicate 5 (job (.hostRead 0 32)), waitLine := [job (.identify [])], attention := true, markPoll := true, markThermal := true, markPing := true };
      c.serveRoom.queue.map (·.kind) = List.replicate 5 (.hostRead 0 32) ++ [.poll, .thermalRead, .ping] ∧
      c.serveRoom.waitLine = [job (.identify [])] ∧ c.serveRoom.markPing = false) ∧
    (let c : Port := { cam .deep with queue := List.replicate 7 (job (.hostRead 0 32)), attention := false, markPoll := true, markThermal := true, markPing := true };
      c.serveRoom.queue.length = 8 ∧ c.serveRoom.markPoll = false ∧ c.serveRoom.markThermal = false ∧
      c.serveRoom.markPing = true) :=
  by and_intros <;> decide

/-- A camera at the last read of a resume made for a cue, or for none, in a station. -/
def resuming (needed : Option Nat) (cue : CueState) : State :=
  { put { cam (.waking ⟨.resume none 3, none, ⟨120, needed⟩, none⟩) with
      station := some 1, lane := some { exch .read 0 with src := .wake .resumeRead } } with cues := [cueIn cue 9000] }

/-- The rest timer that starts at 1,000 ms in station 1. -/
def restAt1 : Nat := addMs 1000 ((live.station 1).linger * 1000)

theorem test_wit_EntryRestTimers :
    ((resuming none .planned).restAfterWake 3 ⟨120, none⟩ = some restAt1 ∧
      ((after (.laneResponse 3 0x40#8 1#8 (responseCheck 0x40#8 1#8) false) (resuming none .planned)).map (fun u => (u.port 3).power)) =
        some (.ready (some restAt1) none)) ∧
    ((resuming (some 9) .planned).restAfterWake 3 ⟨120, some 9⟩ = none ∧
      ((after (.laneResponse 3 0x40#8 1#8 (responseCheck 0x40#8 1#8) false) (resuming (some 9) .planned)).map (fun u => (u.port 3).power)) =
        some (.ready none none)) ∧
    ((resuming (some 9) .confirming).restAfterWake 3 ⟨120, some 9⟩ = some restAt1 ∧
      ((after (.laneResponse 3 0x40#8 1#8 (responseCheck 0x40#8 1#8) false) (resuming (some 9) .confirming)).map (fun u => (u.port 3).power)) =
        some (.ready (some restAt1) none)) ∧
    ((resuming (some 8) .planned).restAfterWake 3 ⟨120, some 8⟩ = some restAt1) ∧
    (let s := put { cam (.pausing ⟨.deep, .host⟩ 1000) with station := some 1 };
      (after (.pauseWaitExpiry 3) s).map (fun u => (u.port 3).power) = some (.ready (some restAt1) none)) ∧
    (let s := put { cam (.waking ⟨.calibrate (some 100), none, ⟨104, none⟩, none⟩) with station := some 1 };
      (after (.calibrateWaitEnd 3) s).map (fun u => (u.port 3).power) = some (.ready (some restAt1) none)) ∧
    (let e : Exchange := { exch .write 15 with retry := true, started := 998 };
      let s := put { cam (.doze none) with station := some 1, lane := some e, queue := [flying (.powerMode .doze)] };
      (after (.responseLimitExpiry 3 false) s).map (fun u => (u.port 3).power) = some (.ready (some restAt1) none)) ∧
    (live.restFrom 3 = none) :=
  by and_intros <;> decide

theorem test_wit_ReplanInDeep :
    (let s := spin (cueIn .planned 9000) (.fault .laneLost); Taken .clearFault (req [3#8]) s ∧
      (s.port 3).enabled = true ∧ (s.port 3).presence = true ∧ (s.port 3).profile ≠ none ∧ (s.port 3).rescan = false ∧
      ∃ u, after (.clearFault (req [3#8])) s = some u ∧ (u.port 3).power = .deep ∧
      (u.port 3).resv.map (·.needed) = some (some 9) ∧ u.cues.map (fun c => c.members.map (·.disp)) = [[some .placed]]) ∧
    (let s := { put { cam (.fault .laneLost) with station := some 1, rescan := true } with cues := [cueIn .planned 9000] };
      Taken .clearFault (req [3#8]) s ∧ (s.port 3).rescan = true ∧
      ∃ u, after (.clearFault (req [3#8])) s = some u ∧ (u.port 3).rescan = false ∧
      (u.port 3).queue.map (·.kind) = [.identify []] ∧ u.cues.map (fun c => c.members.map (·.disp)) = [[some .placed]]) :=
  by and_intros <;> decide +kernel

theorem test_wit_NextNeed :
    (let s := { live with cues := [{ cueIn .planned 2000 with station := 2 }, cueIn .done 2100, cueIn .fireWait 2200, cueIn .waiting 2300] };
      s.nextNeed 1 = some (cueIn .fireWait 2200) ∧ s.nextNeed 2 = some { cueIn .planned 2000 with station := 2 } ∧
      s.nextNeed 3 = none) ∧
    (live.requiredReady (cueIn .planned 0) = 399999975 ∧ (live.station 1).focusLead = 200 ∧
      (live.station 1).prepTime + (live.station 1).guardSlots = 5) :=
  by and_intros <;> decide

/-- Two waiting requests of ports 3 and 4, cue 9 of station 1 and cue 8 of station 2, cue 8 first by time. -/
def twoWaiting : State :=
  { (put { cam (.ready none none) with station := some 1 }).modPort 4 (fun _ => { cam (.ready none none) with station := some 2 }) with
    cues := [{ cueIn .fireWait 1150 with id := 8, station := 2, members := [⟨4, none, none, .complete, none⟩] }, cueIn .fireWait 1200]
    waiting := [⟨9, 1, 1200, 1000, 1500⟩, ⟨8, 2, 1150, 950, 1450⟩] }

theorem test_wit_GrantOfWaiting :
    (let o : Owner := { owner with cue := 7, pressed := true, synced := true, released := true };
      let s := { twoWaiting with owner := some o }; s.owner = some o ∧ s.waiting ≠ [] ∧
      reachedMs s.clock (addMs o.t0 (o.focus + o.press + 20)) = true ∧
      ∃ u, after .freeing s = some u ∧ u.owner.map (·.cue) = some 8 ∧ u.waiting.map (·.cue) = [9] ∧ u.lock = none ∧
      (u.port 4).power = .armed none false ∧ (u.cue? 8).map (·.grant) = some (some ⟨1000, 50, 1200⟩)) ∧
    (let o : Owner := { owner with cue := 7, pressed := true, synced := true, released := true, lockOn := true };
      ∃ u, after .freeing { twoWaiting with owner := some o } = some u ∧ u.owner.map (·.cue) = some 9 ∧
      u.waiting.map (·.cue) = [8]) ∧
    (let s := { twoWaiting with lock := some ⟨3, 1000⟩ }; s.waiting ≠ [] ∧ reachedMs s.clock 1000 = true ∧
      ∃ u, after .lockExpiry s = some u ∧ u.owner.map (·.cue) = some 8 ∧ u.waiting.map (·.cue) = [9]) ∧
    (let s := { twoWaiting with lock := some ⟨3, 2000⟩ }; Taken .fireUnlock (req [3#8]) s ∧ s.owner = none ∧
      ∃ u, after (.fireUnlock (req [3#8])) s = some u ∧ u.owner.map (·.cue) = some 8 ∧
      u.line.map (·.body) = [some (0x00#8 :: fireUnitBytes (grantRule { s with lock := none }))]) ∧
    (let s := { twoWaiting with cues := [{ cueIn .fireWait 1200 with members := [⟨3, none, none, .late, none⟩, ⟨4, some .shed, none, .complete, none⟩] }] };
      s.cue? 9 = some { cueIn .fireWait 1200 with members := [⟨3, none, none, .late, none⟩, ⟨4, some .shed, none, .complete, none⟩] } ∧
      (∀ d ∈ s.cues, d.id = 9 → d = { cueIn .fireWait 1200 with members := [⟨3, none, none, .late, none⟩, ⟨4, some .shed, none, .complete, none⟩] }) ∧
      ((grantReq ⟨9, 1, 1200, 1000, 1500⟩ s).cue? 9).map (fun d => (d.confirm, d.members.map (·.outcome))) =
        some ([4], [some .prepLate, none])) :=
  by and_intros <;> decide +kernel

/-- A cue list of 16 cues of the ids 250 to 255 and 1 to 10. -/
def sixteen : List Cue := (List.range 16).map (fun n => { cueIn .waiting (2000 + n) with id := (249 + n) % 255 + 1 })

theorem test_wit_PlaceInList :
    (sixteen.length ≤ 16 ∧ ({ live with cues := sixteen, lastCue := 249 } : State).nextId = 11 ∧
      ({ live with cues := sixteen, lastCue := 11 } : State).nextId = 12 ∧
      ({ live with lastCue := 255 } : State).nextId = 1 ∧ ({ live with lastCue := 0 } : State).nextId = 1) ∧
    (let l := [cueIn .done 900, cueIn .planned 2000, { cueIn .planned 2000 with id := 8 }, cueIn .waiting 3000];
      l.Pairwise (fun a b => 2000000000 ≤ diffMs a.time 1000 ∨
        (¬ 2000000000 ≤ diffMs b.time 1000 ∧ diffMs a.time 1000 ≤ diffMs b.time 1000)) ∧
      ¬ 2000000000 ≤ diffMs 2000 1000 ∧
      insertCue 1000 { cueIn .waiting 2000 with id := 7 } l =
        [cueIn .done 900, cueIn .planned 2000, { cueIn .planned 2000 with id := 8 }, { cueIn .waiting 2000 with id := 7 },
          cueIn .waiting 3000]) ∧
    (insertCue 3999999000 { cueIn .waiting 500 with id := 7 } [cueIn .waiting 3999999500, cueIn .waiting 1000] =
      [cueIn .waiting 3999999500, { cueIn .waiting 500 with id := 7 }, cueIn .waiting 1000]) ∧
    (postArgsOk 8 3999999999 [⟨16, 1#8⟩, ⟨23, 1#8⟩] = true ∧ postArgsOk 9 3999999999 [] = false ∧
      postArgsOk 1 4000000000 [⟨16, 1#8⟩] = false ∧ postArgsOk 1 0 [⟨15, 1#8⟩] = false ∧
      postArgsOk 1 0 [⟨24, 1#8⟩] = false ∧ postArgsOk 2 0 [⟨16, 1#8⟩, ⟨16, 2#8⟩] = false) ∧
    (sortPairs (pairsAt [9#8, 23#8, 1#8, 16#8, 2#8, 17#8, 3#8] 1 3) = [⟨16, 2#8⟩, ⟨17, 3#8⟩, ⟨23, 1#8⟩]) :=
  by and_intros <;> decide

theorem test_wit_CancelGrants :
    (let s := { twoWaiting with lock := some ⟨1, 5000⟩ }; Taken .cueCancel (req [9#8]) s ∧
      s.cue? 9 = some (cueIn .fireWait 1200) ∧ (s.cues.map (·.id)).Nodup ∧
      ∃ u, after (.cueCancel (req [9#8])) s = some u ∧ u.owner = none ∧ u.lock = some ⟨1, 5000⟩ ∧
      u.waiting.map (·.cue) = [8]) ∧
    (Taken .cueCancel (req [9#8]) twoWaiting ∧ twoWaiting.cue? 9 = some (cueIn .fireWait 1200) ∧
      (twoWaiting.cues.map (·.id)).Nodup ∧
      ∃ u, after (.cueCancel (req [9#8])) twoWaiting = some u ∧ u.owner.map (·.cue) = some 8 ∧ u.waiting = [] ∧
      u.cues.map (fun c => (c.id, c.state)) = [(8, .firing)] ∧ (u.port 4).power = .armed none false) :=
  by and_intros <;> decide +kernel

theorem test_wit_SettleAtEnd :
    (let s := { put { cam (.ready none none) with station := some 1, queue := [flying (.hostRead 0 32)], lane := some (exch .read 32) } with settles := live.settles.set 1 (some ⟨7#8, 100, true, 1100⟩) };
      s.settled 1 = false ∧ s.settleReq 1 = some ⟨7#8, 100, true, 1100⟩ ∧
      ∃ u, after (.laneResponse 3 0x40#8 9#8 (responseCheck 0x40#8 9#8) false) s = some u ∧ u.settleReq 1 = none ∧
      u.settleReady = [⟨7#8, [0x01#8, 100#8, 0#8]⟩]) ∧
    (let s := { put { cam (.ready none none) with station := some 1, queue := [flying (.hostRead 0 32), job .thermalRead], lane := some (exch .read 32) } with settles := live.settles.set 1 (some ⟨7#8, 100, true, 1100⟩) };
      ∃ u, after (.laneResponse 3 0x40#8 9#8 (responseCheck 0x40#8 9#8) false) s = some u ∧
      u.settleReq 1 = some ⟨7#8, 100, true, 1100⟩ ∧ u.settleReady = []) :=
  by and_intros <;> decide

/-- A camera with every field of its record set. -/
def rich : State :=
  (put { cam (.waking ⟨.initWait 105 110, some .initRead, ⟨0x01020304, some 9⟩, some ⟨.deep, .host⟩⟩) with
    hostPause := true, mediaFull := true, reading := some 8000, run := 2, station := some 3, noteConflict := true
    resv := some ⟨.resume, .doze, 0x0A0B0C0D, 1, 300, 4, 104, some 8, true⟩ }).setEntry 31
      (some { entry 0x112233445566#48 (some 3) with unbind := some 400 })

theorem test_wit_RecordFields :
    (cameraBytes 3 rich = [3#8, 3#8, 3#8, 3#8, 1#8, 0#8, 0#8, 0xF5#8, 0#8, 0x11#8, 0x22#8, 0x33#8, 0x44#8, 0x55#8, 0x66#8] ++
      prof.bytes ++ [2#8, 0x40#8, 0x1F#8, 2#8] ++ List.replicate 16 0xFF#8 ++
      [3#8, 2#8, 2#8, 0x0D#8, 0x0C#8, 0x0B#8, 0x0A#8, 1#8, 0x2C#8, 1#8, 104#8, 0#8, 0#8, 0#8, 8#8, 1#8] ++
      [4#8, 3#8, 2#8, 1#8, 9#8]) ∧
    (u8 (cameraBytes 3 rich) 45 = 3 ∧ u8 (cameraBytes 3 rich) 46 = 2 ∧ u8 (cameraBytes 3 rich) 47 = 2 ∧
      u32 (cameraBytes 3 rich) 48 = 0x0A0B0C0D ∧ u16 (cameraBytes 3 rich) 53 = 300 ∧
      u32 (cameraBytes 3 rich) 61 = 0x01020304 ∧ u8 (cameraBytes 3 rich) 65 = 9) ∧
    (let s := put { cam (.pausing ⟨.keepwarm, .auto⟩ 77) with grade := none, reading := none, profile := none };
      u8 (cameraBytes 3 s) 5 = 2 ∧ u8 (cameraBytes 3 s) 6 = 2 ∧ u8 (cameraBytes 3 s) 25 = 255 ∧
      u16 (cameraBytes 3 s) 26 = 65535 ∧ u32 (cameraBytes 3 s) 41 = 77 ∧ u32 (cameraBytes 3 s) 29 = 4294967295 ∧
      u8 (cameraBytes 3 s) 45 = 255 ∧ u32 (cameraBytes 3 s) 48 = 4294967295 ∧ u8 (cameraBytes 3 s) 65 = 0) ∧
    (u32 (cameraBytes 3 (put (cam (.ready (some 5) none)))) 29 = 5 ∧ u32 (cameraBytes 3 (put (cam (.doze (some 6))))) 33 = 6 ∧
      u32 (cameraBytes 3 (put (cam (.keepwarm (some 7))))) 37 = 7 ∧
      u8 (cameraBytes 3 (put (cam (.fault .wakeFailed)))) 8 = 3) ∧
    (rich.boundIdent 3 = some 0x112233445566#48 ∧ rich.boundIdent 4 = none) :=
  by and_intros <;> decide

theorem test_wit_TableFields :
    (let s := { rich with cues := [{ cueIn .done 10 with station := 3 }, { cueIn .planned 0x05060708 with station := 3 }] };
      let b := 0x00#8 :: stationGetBytes 3 s;
      b.length = 61 ∧ u32 b 1 = 8 ∧ u8 b 5 = 1 ∧ u8 b 28 = 1 ∧ u8 b 31 = 1 ∧ u8 b 34 = 1 ∧ u8 b 41 = 2 ∧ u32 b 42 = 8000 ∧
      u16 b 46 = 0 ∧ u8 b 48 = 1 ∧ u32 b 49 = 0x05060708 ∧ u16 b 53 = 12000 ∧ u16 b 55 = 3000 ∧ u16 b 59 = 300) ∧
    (let b := 0x00#8 :: stationGetBytes 3 (rich.modPort 23 (fun _ => { cam .deep with station := some 3, grade := none, reading := none }));
      u32 b 1 = 0x800008 ∧ u8 b 31 = 2 ∧ u8 b 33 = 1 ∧ u8 b 34 = 1 ∧ u8 b 41 = 255 ∧ u32 b 42 = 4294967295 ∧
      u32 b 49 = 4294967295) ∧
    (rich.highestOccupancy = 300 ∧ rich.occupancy 0x0A0B0C0D = 300 ∧ 0 ≤ rich.offset 0x0A0B0C0D) ∧
    (let c : Cue := { cueIn .done 0x05060708 with
        posting := 0x090A0B0C, grant := some ⟨700, 258, 900⟩, members := [⟨3, some .latePredicted, some 104, .late, some .prepLate⟩, ⟨23, none, none, .complete, none⟩] };
      c.bytes.length = 51 ∧ u8 c.bytes 2 = 7 ∧ u8 c.bytes 3 = 2 ∧ u32 c.bytes 4 = 0x05060708 ∧ u32 c.bytes 8 = 0x090A0B0C ∧
      u32 c.bytes 12 = 700 ∧ u32 c.bytes 16 = 0 ∧ u32 c.bytes 20 = 4294967295 ∧ u8 c.bytes 24 = 2 ∧ u32 c.bytes 25 = 900 ∧
      u16 c.bytes 29 = 258 ∧ u8 c.bytes 31 = 1 ∧ u8 c.bytes 32 = 2 ∧ u8 c.bytes 33 = 16 ∧ u8 c.bytes 34 = 5 ∧
      u8 c.bytes 35 = 3 ∧ u8 c.bytes 36 = 3 ∧ u32 c.bytes 37 = 104 ∧ u8 c.bytes 41 = 4 ∧ u8 c.bytes 42 = 4 ∧
      u8 c.bytes 43 = 23 ∧ u8 c.bytes 44 = 0 ∧ u32 c.bytes 45 = 4294967295 ∧ u8 c.bytes 50 = 0) ∧
    (let c : Cue := { cueIn .confirming 5 with confirm := [0, 23], timer := some 6, grant := some ⟨700, 0, 900⟩ };
      u8 c.bytes 24 = 0 ∧ u32 c.bytes 25 = 4294967295 ∧ u16 c.bytes 29 = 0 ∧ u32 c.bytes 16 = 0x800001 ∧ u32 c.bytes 20 = 6) ∧
    (let e : IdEntry := entry 0x112233445566#48 (some 3); let b := idEntryBytes rich 31 e;
      b.length = 46 ∧ u8 b 0 = 31 ∧ identAt b 1 = 0x112233445566#48 ∧ u8 b 7 = 3 ∧ u8 b 8 = 0 ∧ u8 b 9 = 1 ∧ u8 b 10 = 1 ∧
      u8 b 11 = 0 ∧ u8 b 12 = 4 ∧ u8 b 22 = 1 ∧ u8 b 23 = 16 ∧ u8 b 24 = 1 ∧ u8 b 25 = 0 ∧ u8 b 38 = 0 ∧
      u32 b 39 = 4294967295 ∧ u16 b 43 = 0 ∧ u8 b 45 = 3) ∧
    (let e : IdEntry := ⟨5#48, none, false, none, [], some 3999999000⟩; let b := idEntryBytes { live with clock := 6000 } 0 e;
      u8 b 7 = 255 ∧ u8 b 9 = 0 ∧ u8 b 10 = 0 ∧ u32 b 39 = 3999999000 ∧ u16 b 43 = 7 ∧ u8 b 45 = 0) ∧
    (let e : IdEntry := ⟨5#48, none, true, some ⟨prof, true, true⟩, List.replicate 8 ⟨23, 9#8⟩, none⟩; let b := idEntryBytes live 0 e;
      b.length = 46 ∧ u8 b 8 = 1 ∧ u8 b 10 = 2 ∧ u8 b 11 = 1 ∧ u8 b 22 = 8 ∧ u8 b 37 = 23 ∧ u8 b 38 = 9 ∧ u16 b 43 = 0) ∧
    ((⟨0, 31⟩ : Walk).nextByte = 31#8) :=
  by and_intros <;> decide +kernel

theorem test_wit_PresenceByPortSet :
    (let s := put { cam .vacant with enabled := false, attention := true }; Taken .portSet (req [3#8, 0xE8#8, 3#8, 1#8]) s ∧
      (s.port 3).enabled = false ∧ (s.port 3).power = .vacant ∧ (s.port 3).presence = true ∧ (s.port 3).held = none ∧
      ∃ u, after (.portSet (req [3#8, 0xE8#8, 3#8, 1#8])) s = some u ∧ (u.port 3).power = .deep ∧
      (u.port 3).enabled = true ∧ (u.port 3).railLimit = 1000 ∧ (u.port 3).queue.map (·.kind) = [.identify [], .poll] ∧
      u.line.map (·.body) = [some [0x00#8, 0xE8#8, 3#8, 1#8, 0#8, 0#8]]) ∧
    (let s := put { cam .vacant with enabled := false, presence := false };
      Taken .portSet (req [3#8, 0xE8#8, 3#8, 1#8]) s ∧ (s.port 3).presence = false ∧
      ∃ u, after (.portSet (req [3#8, 0xE8#8, 3#8, 1#8])) s = some u ∧ (u.port 3).power = .vacant ∧ (u.port 3).enabled = true) ∧
    (let s := put { cam .vacant with presence := false }; Taken .portSet (req [3#8, 0xE8#8, 3#8, 2#8]) s ∧
      (s.port 3).enabled = true ∧
      ∃ u, after (.portSet (req [3#8, 0xE8#8, 3#8, 2#8])) s = some u ∧ (u.port 3).enabled = false ∧ (u.port 3).power = .vacant) ∧
    (let s := put (cam .deep); Taken .portSet (req [3#8, 0xF3#8, 1#8, 2#8]) s ∧ (s.port 3).enabled = true ∧
      (s.port 3).power ≠ .vacant ∧
      ∃ u, after (.portSet (req [3#8, 0xF3#8, 1#8, 2#8])) s = some u ∧ (u.port 3).power = .vacant ∧
      u.line.map (·.body) = [some [0x01#8, 0xF4#8, 1#8, 2#8, 0#8, 0#8]]) :=
  by and_intros <;> decide

theorem test_wit_AheadDropJobs :
    (let s := put { cam (.ready none none) with queue := [flying (.aheadWrite [⟨16, 1#8⟩] 60 2000 4), job (.aheadWrite [⟨17, 1#8⟩] 60 2000 5), job .poll], lane := some (exch .write 16), waitLine := [job (.aheadWrite [⟨18, 1#8⟩] 60 2000 6), job (.identify [])] };
      Taken .aheadDrop (req [8#8, 0#8, 0#8, 0#8]) s ∧ (u32 (req [8#8, 0#8, 0#8, 0#8]).body 0).testBit 3 = true ∧
      (s.port 3).laneHasJob = true ∧
      ∃ u, after (.aheadDrop (req [8#8, 0#8, 0#8, 0#8])) s = some u ∧ (u.port 3).waitLine = [] ∧
      (u.port 3).queue = [⟨.aheadWrite [⟨16, 1#8⟩] 60 2000 4, true, true, true⟩, job .poll, job (.identify [])]) ∧
    (let s := put { cam (.ready none none) with queue := [flying (.aheadWrite [⟨16, 1#8⟩] 60 2000 4), job .thermalRead] };
      Taken .aheadDrop (req [8#8, 0#8, 0#8, 0#8]) s ∧ (s.port 3).laneHasJob = false ∧
      (∀ j ∈ (s.port 3).queue.tail ++ (s.port 3).waitLine, j.started = false) ∧
      ∃ u, after (.aheadDrop (req [8#8, 0#8, 0#8, 0#8])) s = some u ∧ (u.port 3).queue = [flying .thermalRead]) :=
  by and_intros <;> decide

end Sys2Proof.Tests
end

namespace Sys2Proof.Machine

/-! # Proofs: what an idle lane carries next (O20) -/

section Choice

variable {p : PortId} {s : State} {j : Job} {js : List Job}

theorem Power.isVacant_eq_true {w : Power} : w.isVacant = true ↔ w = .vacant := by
  cases w <;> simp [Power.isVacant]

theorem Power.isVacant_eq_false {w : Power} : w.isVacant = false ↔ w ≠ .vacant := by
  cases w <;> simp [Power.isVacant]

/-- Records that agree at the port give one updated state. -/
theorem modPort_congr {f g : Port → Port} (h : f (s.port p) = g (s.port p)) : s.modPort p f = s.modPort p g := by
  simp only [State.modPort, h]

/-! ## The branches of the choice (R32) -/

theorem chooseNext_busy (h : (s.port p).lane.isSome = true ∨ (s.port p).power = .vacant) (n : Nat) :
    chooseNext p (n + 1) s = s := by
  have h' : ((s.port p).lane.isSome || (s.port p).power.isVacant) = true := by
    simpa [Power.isVacant_eq_true] using h
  simp only [chooseNext, h', if_true]

theorem chooseNext_empty (ho : (s.port p).power.owed? = none) (hq : (s.port p).queue = []) (n : Nat) :
    chooseNext p (n + 1) s = s := by
  simp only [chooseNext, ho, hq, ite_self]

theorem chooseNext_owed {w : Wake} {e : WakeEx} (hl : (s.port p).lane = none) (hw : (s.port p).power = .waking w)
    (he : w.owed = some e) (n : Nat) :
    chooseNext p (n + 1) s = s.modPort p (fun c => { c with
      power := .waking { w with owed := none }, lane := some (e.exchange s.clock) }) := by
  simp [chooseNext, hl, hw, he, Power.isVacant, Power.owed?, clearOwed, setLane, modPort_modPort]

section Head

variable (hl : (s.port p).lane = none) (hv : (s.port p).power ≠ .vacant) (ho : (s.port p).power.owed? = none)
  (hq : (s.port p).queue = j :: js)
include hl hv ho hq

/-- The job in flight goes on with its next exchange. -/
theorem chooseNext_goOn (hs : j.started = true) (hc : j.cut = false) (n : Nat) :
    chooseNext p (n + 1) s = s.modPort p (fun c => { c with lane := j.exchange (s.port p) s.clock }) := by
  simp [chooseNext, hl, Power.isVacant_eq_false.2 hv, ho, hq, hs, hc, setLane]

/-- A job that passes its start check starts. -/
theorem chooseNext_start (hs : j.started = false) (hm : j.mayStart (s.port p) = true) (n : Nat) :
    chooseNext p (n + 1) s = s.modPort p (fun c => { c with
      queue := { j with started := true } :: js, lane := j.exchange (s.port p) s.clock }) := by
  simp only [chooseNext, hl, Power.isVacant_eq_false.2 hv, ho, hq, hs, hm, setLane, markStarted, modPort_modPort,
    Option.isSome_none, Bool.or_self, if_true, if_false, Bool.false_eq_true]
  exact modPort_congr (by simp only [hq])

/-- A job that fails its start check ends, and the choice is made again. -/
theorem chooseNext_fail (hs : j.started = false) (hm : j.mayStart (s.port p) = false) (n : Nat) :
    chooseNext p (n + 1) s = chooseNext p n (jobEnd p j (startCheckFailed p j) s) := by
  simp only [chooseNext, hl, Power.isVacant_eq_false.2 hv, ho, hq, hs, hm, Option.isSome_none, Bool.or_self, if_false,
    Bool.false_eq_true]

end Head

/-! ## The end of a job by its kind (R37) -/

/-- The state in which a job at the head has left the queue. -/
theorem modPort_tail (hq : (s.port p).queue = j :: js) :
    s.modPort p (fun c => { c with queue := c.queue.tail }) = s.modPort p ({ · with queue := js }) :=
  modPort_congr (by simp only [hq, List.tail_cons])

/-- The end of a host or preparation job is an event for PAUSING. -/
theorem jobEnd_holdsPause (hq : (s.port p).queue = j :: js) (hj : j.holdsPause = true) (f : State → State) :
    jobEnd p j f s = pausingEvent p ((f (s.modPort p ({ · with queue := js }))).modPort p Port.serveRoom) := by
  have hm : j.isPowerMode = false ∧ j.isPoll = false := by
    obtain ⟨k, _, _, _⟩ := j
    cases k <;> simp_all [Job.holdsPause, Job.isHost, Job.isPrep, Job.isPowerMode, Job.isPoll]
  simp [jobEnd, modPort_tail hq, hj, hm]

/-- After the end of a POLL R38 is tested. -/
theorem jobEnd_poll (hq : (s.port p).queue = j :: js) (hj : j.kind = .poll) (f : State → State) :
    jobEnd p j f s = ((f (s.modPort p ({ · with queue := js }))).modPort p Port.serveRoom).modPort p Port.testPoll := by
  simp [jobEnd, modPort_tail hq, hj, Job.holdsPause, Job.isHost, Job.isPrep, Job.isPowerMode, Job.isPoll]

/-- The end of any other job that has not started is no event. -/
theorem jobEnd_plain (hq : (s.port p).queue = j :: js) (hs : j.started = false) (hj : j.holdsPause = false)
    (hp : j.isPoll = false) (f : State → State) :
    jobEnd p j f s = (f (s.modPort p ({ · with queue := js }))).modPort p Port.serveRoom := by
  simp [jobEnd, modPort_tail hq, hs, hj, hp]

/-! ## The start check and its result (R36, Table 15) -/

theorem Power.settingsLost_eq_false {w : Power} : w.settingsLost = false ↔ w ≠ .deep ∧ w.isWaking = false := by
  cases w <;> simp [Power.settingsLost, Power.isWaking]

theorem Power.admitsRead_iff (w : Power) (a : Nat) :
    w.admitsRead a = true ↔ w.isLost = false ∧ (16 ≤ a ∧ a ≤ 23 → w ≠ .deep ∧ w.isWaking = false) := by
  simp only [← Power.settingsLost_eq_false, Power.admitsRead, isCapture]
  cases w.isLost <;> cases w.settingsLost <;> simp
  omega

theorem Power.admitsWrite_iff (w : Power) (a : Nat) :
    w.admitsWrite a = true ↔
      w.isLost = false ∧ (a = 13 ∨ 16 ≤ a ∧ a ≤ 23 → w ≠ .deep ∧ w.isWaking = false) := by
  simp only [← Power.settingsLost_eq_false, Power.admitsWrite, isCapture]
  cases w.isLost <;> cases w.settingsLost <;> simp
  omega

theorem Job.mayStart_iff (j : Job) (c : Port) : j.mayStart c = true ↔ (match j.kind with
    | .hostRead _ a => c.power.isLost = false ∧ (16 ≤ a ∧ a ≤ 23 → c.power ≠ .deep ∧ c.power.isWaking = false)
    | .hostWrite _ a _ =>
      c.power.isLost = false ∧ (a = 13 ∨ 16 ≤ a ∧ a ≤ 23 → c.power ≠ .deep ∧ c.power.isWaking = false)
    | .prepWrite _ _ _ => c.power.isReady = true ∨ c.power.isPausing = true
    | .aheadWrite _ _ _ _ => c.power.isReady = true ∨ c.power.isPausing = true
    | .identify _ => c.power.isLost = false
    | .poll => c.power ≠ .vacant ∧ c.held = none
    | .thermalRead => c.power.isLost = false
    | .ping => c.power.isKeepwarm = true
    | .powerMode t => c.power.paused? = some t) := by
  obtain ⟨k, _, _, _⟩ := j
  cases k with
  | hostRead t a => exact c.power.admitsRead_iff a
  | hostWrite t a v => exact c.power.admitsWrite_iff a
  | poll => simp [Job.mayStart, Power.isVacant_eq_false]
  | prepWrite | aheadWrite | identify | thermalRead | ping | powerMode => simp [Job.mayStart]

/-- A PREP_WRITE that fails is taken by the PREPARING cue whose member is WRITING. -/
theorem prepEnd_writing {cue : Nat} {c : Cue} {m : Member} (hc : s.cue? cue = some c) (hs : c.state = .preparing)
    (hm : c.members.find? (fun m => m.port == p) = some m) (hw : m.prep = .writing) :
    prepEnd cue p false s = { s with cues := s.cues.map (fun x : Cue =>
      if x.id = cue then x.modMember p ({ · with prep := .failed }) else x) } := by
  simp [prepEnd, hc, Cue.member?, hm, hs, hw, setPrep, modCue]

/-- In any other case its end changes nothing. -/
theorem prepEnd_other {cue : Nat} {ok : Bool} (h : ∀ c, s.cue? cue = some c → c.state = .preparing →
    ∀ m, c.members.find? (fun m => m.port == p) = some m → m.prep ≠ .writing) : prepEnd cue p ok s = s := by
  unfold prepEnd
  split
  · split
    · exact if_neg fun hw => h _ ‹_› hw.1 _ ‹_› hw.2
    · rfl
  · rfl

/-- A job that is no request, preparation or advance write has no result. -/
theorem startCheckFailed_other (hh : j.isHost = false) (hp : j.isPrep = false) (ha : j.isAhead = false) :
    startCheckFailed p j s = s := by
  obtain ⟨k, _, _, _⟩ := j
  cases k with
  | hostRead | hostWrite => simp [Job.isHost] at hh
  | prepWrite => simp [Job.isPrep] at hp
  | aheadWrite => simp [Job.isAhead] at ha
  | identify | poll | thermalRead | ping | powerMode => rfl

end Choice

/-- Settles O20: `chooseNext` branch by branch, and the end of a job that fails its start check by the job's kind. -/
theorem laneChooses : Obligations.LaneChooses := by
  unfold Obligations.LaneChooses
  refine ⟨⟨fun s => rfl, by decide, by decide, by decide, by decide,
    fun p q s hq => ((OnPort.refl p s).kick).others q hq⟩, fun p s => ⟨?busy, ?owed, ?start, ?goOn, ?empty⟩,
    Job.mayStart_iff, fun _ _ => rfl, ?failed⟩
  case busy => exact fun h => chooseNext_busy h _
  case owed => exact fun w e hl hw he => chooseNext_owed hl hw he _
  case start => exact fun j js hl hv ho hq hs hm => chooseNext_start hl hv ho hq hs hm _
  case goOn => exact fun j js hl hv ho hq hs hc => chooseNext_goOn hl hv ho hq hs hc _
  case empty => exact fun _ ho hq => chooseNext_empty ho hq _
  case failed =>
    rintro p s v j js n hl hv ho hq hs hm rfl
    rw [chooseNext_fail hl hv ho hq hs hm]
    refine ⟨fun t a hk => ?_, fun t a x hk => ?_, fun cue keep pairs hk => ?_, fun pairs life expiry seq hk => ?_,
      fun hk => ?_, fun h1 h2 h3 h4 => ?_⟩
    · rw [jobEnd_holdsPause hq (by simp [Job.holdsPause, Job.isHost, hk])]
      simp only [startCheckFailed, hk]
      rfl
    · rw [jobEnd_holdsPause hq (by simp [Job.holdsPause, Job.isHost, hk])]
      simp only [startCheckFailed, hk]
      rfl
    · rw [jobEnd_holdsPause hq (by simp [Job.holdsPause, Job.isPrep, hk])]
      simp only [startCheckFailed, hk]
      refine ⟨fun c m hc hp hf hw => ?_, fun h => ?_⟩
      · rw [prepEnd_writing (s := s.modPort p ({ · with queue := js })) hc hp hf hw]
      · rw [prepEnd_other (s := s.modPort p ({ · with queue := js })) h]
    · rw [jobEnd_plain hq hs (by simp [Job.holdsPause, Job.isHost, Job.isPrep, hk]) (by simp [Job.isPoll, hk])]
      simp only [startCheckFailed, hk]
    · rw [jobEnd_poll hq hk]
      simp only [startCheckFailed, hk]
    · rw [jobEnd_plain hq hs (by simp [Job.holdsPause, h1, h2]) h4]
      rw [startCheckFailed_other h1 h2 h3]

end Sys2Proof.Machine

namespace Sys2Proof.Machine

/-! # Proofs: the classification of events and the end of a POLL (O55) -/

section Events

variable {p : PortId} {s : State} {st d : Byte} {rules : List TrapRule} {e : EventRec}

/-! ## The trap rules (R168) -/

theorem forwards_default (h : ∀ r ∈ rules, r.matches e = false) : forwards rules e = e.kind.forwardedByDefault := by
  have hf : rules.find? (fun r => r.matches e) = none := List.find?_eq_none.2 fun r hr => by simp [h r hr]
  simp only [forwards, hf]

theorem forwards_first {pre post : List TrapRule} {r : TrapRule} (hpre : ∀ q ∈ pre, q.matches e = false)
    (hr : r.matches e = true) : forwards (pre ++ r :: post) e = r.forward := by
  have hf : pre.find? (fun r => r.matches e) = none := List.find?_eq_none.2 fun q hq => by simp [hpre q hq]
  have hg : (r :: post).find? (fun r => r.matches e) = some r := List.find?_cons_of_pos hr
  simp only [forwards, List.find?_append, hf, Option.none_or, hg]

theorem TrapRule.matches_iff (r : TrapRule) (e : EventRec) : r.matches e = true ↔
    r.enabled = true ∧ r.kinds.getLsbD (e.kind.code - 1) = true ∧ r.ports.getLsbD e.port.val = true ∧
      (r.mask = 0 ∨ ∃ v, e.ident = some v ∧ v &&& r.mask = r.ident &&& r.mask) := by
  have hi : r.identTest e.ident = true ↔ r.mask = 0 ∨ ∃ v, e.ident = some v ∧ v &&& r.mask = r.ident &&& r.mask := by
    cases e.ident <;> simp [TrapRule.identTest]
  simp only [TrapRule.matches, Bool.and_eq_true, hi, TrapRule.hasKind, and_assoc]

/-! ## The event queue and the held slot (R171, R174) -/

/-- EVENTS_WAITING joins a report queue with room, and leaves its mark at a full one; one that is owed is not owed twice. -/
theorem handEventsWaiting_eq (s : State) : handEventsWaiting s = { s with
    reports := if Report.events ∉ s.reports ∧ s.eventsMark = false ∧ s.reports.length < 16 then
      s.reports ++ [Report.events] else s.reports
    eventsMark := s.eventsMark || decide (Report.events ∉ s.reports ∧ 16 ≤ s.reports.length) } := by
  unfold handEventsWaiting
  split
  case isTrue owed =>
    rcases (Bool.or_eq_true ..).mp owed with h | h
    · simp [List.contains_iff_mem.mp h]
    · cases s
      simp_all
  case isFalse free =>
    obtain ⟨hr, hm⟩ : Report.events ∉ s.reports ∧ s.eventsMark = false := by simpa using free
    split
    case isTrue room => simp [hr, hm, show s.reports.length < 16 from room, Nat.not_le.2 room]
    case isFalse full => simp [hr, hm, show ¬ s.reports.length < 16 from full, Nat.not_lt.1 full]

theorem offerEvent_first (h : s.events = []) : offerEvent e s = handEventsWaiting { s with events := [e] } := by
  simp [offerEvent, enqueueEvent, h, Config.eventCapacity]

theorem offerEvent_room (h : s.events ≠ []) (hn : s.events.length < 64) :
    offerEvent e s = { s with events := s.events ++ [e] } := by
  simp [offerEvent, enqueueEvent, h, Config.eventCapacity, hn]

theorem offerEvent_full (h : 64 ≤ s.events.length) : offerEvent e s = s.modPort e.port ({ · with held := some e }) := by
  simp [offerEvent, Config.eventCapacity, Nat.not_lt.2 h]

/-! ## The result of a POLL (R39, R163) -/

/-- A BUTTON of the port's sequence bit is taken: it has no effect in the module and is offered to the queue when the rules
forward it. -/
theorem pollResult_button (hk : eventCode st = 8) (hb : sequenceBit st = (s.port p).pollBit) :
    pollResult p st d s =
      (if forwards s.traps.toList ⟨p, s.boundIdent p, .button, d, s.clock⟩ then
        offerEvent ⟨p, s.boundIdent p, .button, d, s.clock⟩
          (s.modPort p (fun c => { c with resync := false, pollBit := !c.pollBit }))
      else s.modPort p (fun c => { c with resync := false, pollBit := !c.pollBit })) := by
  simp only [pollResult, hk, EventKind.ofCode, port_modPort_self, hb, if_true, takeEvent, eventEffect, modPort_modPort]
  rfl

/-- An event of the other bit is a repeat. -/
theorem pollResult_repeat (hb : sequenceBit st ≠ (s.port p).pollBit) :
    pollResult p st d s = s.modPort p (fun c => { c with resync := false }) := by
  simp only [pollResult, port_modPort_self, hb, if_false]
  split <;> rfl

end Events

/-! ## An exchange of the job in flight that fails (R31) -/

section Failure

variable {p : PortId} {s : State} {e : Exchange} {j : Job} {js : List Job}

theorem oweThermal_queue (c : Port) : c.queue <+: c.oweThermal.queue := by
  unfold Port.oweThermal
  split
  · exact List.prefix_rfl
  · split
    · exact List.prefix_append _ _
    · exact List.prefix_rfl

/-- What a mark of a report leaves of a record: all but the mark. -/
theorem markPort_record {α : Type} (f : Port → α) (hf : ∀ c : Port, f c.unmarked = f c) (p q : PortId) (s : State) :
    f ((markPort p s).port q) = f (s.port q) := by
  rw [← hf, unmarked_markPort, hf]

@[simp] theorem events_markPort (p : PortId) (s : State) : (markPort p s).events = s.events := by
  unfold markPort
  repeat' split
  all_goals rfl

/-- The grade changed flag and the marks aside, a record and the event queue are as they were. -/
theorem setGradeChanged_record {α : Type} (f : Port → α) (hf : ∀ c : Port, f c.unmarked = f c)
    (hg : ∀ c : Port, f { c with gradeChanged := true } = f c) (p : PortId) (s : State) :
    f ((setGradeChanged p s).port p) = f (s.port p) := by
  unfold setGradeChanged
  dsimp only
  rw [markPort_record f hf, port_modPort_self, hg]
  split <;> rfl

@[simp] theorem events_setGradeChanged (p : PortId) (s : State) : (setGradeChanged p s).events = s.events := by
  unfold setGradeChanged
  dsimp only
  rw [events_markPort, events_modPort]
  split <;> rfl

/-- A record with one failed exchange more: the run has risen, the grade and the reading of a rail that is on are VOID. -/
def Port.failedOnce (c : Port) : Port :=
  { c with run := min 3 (c.run + 1), grade := none, reading := if c.power.railOn then none else c.reading }

/-- A failure that is not the third of a run: the camera is not faulted by it. -/
theorem countFailure_below (h : (s.port p).run < 2) : countFailure p s =
    (if (s.port p).grade.isNone then s.modPort p Port.failedOnce
    else if (s.port p).power.isLost then setGradeChanged p (s.modPort p Port.failedOnce)
    else (setGradeChanged p (s.modPort p Port.failedOnce)).modPort p Port.oweThermal) := by
  have hr : ((s.modPort p Port.failedOnce).port p).run ≠ 3 := by
    simp only [port_modPort_self, Port.failedOnce]
    omega
  have hr' : ((setGradeChanged p (s.modPort p Port.failedOnce)).port p).run ≠ 3 := by
    rwa [setGradeChanged_record Port.run (fun _ => rfl) fun _ => rfl]
  have hl : ((setGradeChanged p (s.modPort p Port.failedOnce)).port p).power.isLost = (s.port p).power.isLost := by
    rw [setGradeChanged_record (fun c => c.power.isLost) (fun _ => rfl) fun _ => rfl, port_modPort_self]
    rfl
  show (let void := (s.port p).grade.isNone
        let u := s.modPort p Port.failedOnce
        let u := if void then u else setGradeChanged p u
        let u := if (u.port p).run = 3 && !(u.port p).power.isLost then enterFault p .laneLost u else u
        if void || (u.port p).power.isLost then u else u.modPort p Port.oweThermal) = _
  cases hg : (s.port p).grade.isNone
  · simp only [Bool.false_eq_true, if_false, hr', decide_false, Bool.false_and, Bool.false_or, hl]
  · simp only [if_true, hr, decide_false, Bool.false_and, Bool.false_eq_true, if_false, Bool.true_or]

/-- What such a failure leaves of a record: all but the run, the grade, the reading, the marks and the queue. -/
theorem countFailure_record {α : Type} (f : Port → α) (hb : ∀ c : Port, f c.body = f c)
    (hu : ∀ c : Port, f c.unmarked = f c) (hg : ∀ c : Port, f { c with gradeChanged := true } = f c)
    (h : (s.port p).run < 2) : f ((countFailure p s).port p) = f (s.port p).failedOnce := by
  have hs : f ((setGradeChanged p (s.modPort p Port.failedOnce)).port p) = f (s.port p).failedOnce := by
    rw [setGradeChanged_record f hu hg, port_modPort_self]
  rw [countFailure_below h]
  split
  · rw [port_modPort_self]
  · split
    · exact hs
    · rw [port_modPort_self, ← hb, body_oweThermal, hb, hs]

theorem countFailure_queue (h : (s.port p).run < 2) : (s.port p).queue <+: ((countFailure p s).port p).queue := by
  have hs : ((setGradeChanged p (s.modPort p Port.failedOnce)).port p).queue = (s.port p).queue := by
    rw [setGradeChanged_record Port.queue (fun _ => rfl) fun _ => rfl, port_modPort_self]
    rfl
  rw [countFailure_below h]
  split
  · rw [port_modPort_self]
    exact List.prefix_rfl
  · split
    · rw [hs]
    · rw [port_modPort_self, ← hs]
      exact oweThermal_queue _

theorem countFailure_events (h : (s.port p).run < 2) : (countFailure p s).events = s.events := by
  rw [countFailure_below h]
  split
  · rfl
  · split
    · exact events_setGradeChanged p _
    · exact events_setGradeChanged p _

/-- The state in which the job in flight is handed its failure: the level sampled, the failure counted, the lane idle. -/
def State.failed (s : State) (p : PortId) (attention : Bool) : State :=
  setLane p none (countFailure p (s.modPort p ({ · with attention := attention })))

/-- What it leaves of the port's record. -/
theorem failed_record {α : Type} (f : Port → α) (h : (s.port p).run < 2) (a : Bool)
    (hb : ∀ c : Port, f c.body = f c := by exact fun _ => rfl)
    (hu : ∀ c : Port, f c.unmarked = f c := by exact fun _ => rfl)
    (hg : ∀ c : Port, f { c with gradeChanged := true } = f c := by exact fun _ => rfl)
    (hl : ∀ c : Port, f { c with lane := none } = f c := by exact fun _ => rfl)
    (ha : ∀ (c : Port) a, f ({ c with attention := a } : Port).failedOnce = f c.failedOnce := by exact fun _ _ => rfl) : f ((s.failed p a).port p) = f (s.port p).failedOnce := by
  have hr : ((s.modPort p ({ · with attention := a })).port p).run < 2 := by rwa [port_modPort_self]
  rw [State.failed, setLane, port_modPort_self, hl, countFailure_record f hb hu hg hr, port_modPort_self, ha]

/-- The job in flight stays at the head of its queue. -/
theorem failed_queue (h : (s.port p).run < 2) (hq : (s.port p).queue = j :: js) (a : Bool) :
    ∃ ks, ((s.failed p a).port p).queue = j :: ks := by
  have hr : ((s.modPort p ({ · with attention := a })).port p).run < 2 := by rwa [port_modPort_self]
  obtain ⟨ts, ht⟩ := countFailure_queue hr
  refine ⟨js ++ ts, ?_⟩
  rw [State.failed, setLane, port_modPort_self, ← List.cons_append, ← hq]
  rw [port_modPort_self] at ht
  exact ht.symm

theorem keeps_failed (s : State) (p : PortId) (a : Bool) : Keeps true s (s.failed p a) :=
  (((Keeps.refl true s).mod p _).countFailure p).setLane p none

theorem onPort_failed (s : State) (p : PortId) (a : Bool) : OnPort p s (s.failed p a) :=
  (((OnPort.refl p s).mod _).countFailure).setLane none

/-- A retry that fails by the response limit is handed to the job in flight; a write through the part is taken first. -/
theorem exec_responseLimitExpiry_job (h : JobFails p e j js s) (a : Bool) :
    exec (.responseLimitExpiry p a) s = .next (finish (jobFailure p j
      (if e.throughPart then writeThrough p ⟨e.attr, e.data⟩ false (s.failed p a) else s.failed p a))) := by
  obtain ⟨hl, hsrc, hretry, hage, hq, hstart, hrun⟩ := h
  obtain ⟨ks, hk⟩ := failed_queue hrun hq a
  have hlim : s.limitMayBeReached p = true := by simp [State.limitMayBeReached, hl, hage]
  have handed (t : State) (ht : (t.port p).queue = j :: ks) :
      withHead p (fun j => jobFailure p j) t = jobFailure p j t := by
    simp [withHead, ht, hstart]
  have through : ((writeThrough p ⟨e.attr, e.data⟩ false (s.failed p a)).port p).queue = j :: ks := hk
  show execResponseLimitExpiry p a s = _
  simp only [execResponseLimitExpiry, hl, hlim, if_true, attemptFailed, hretry, exchangeFailure, hsrc]
  change Host.Outcome.next (finish (withHead p (fun j => jobFailure p j)
    (if e.throughPart then writeThrough p ⟨e.attr, e.data⟩ false (s.failed p a) else s.failed p a))) = _
  split
  · rw [handed _ through]
  · rw [handed _ hk]

end Failure

/-! ## The statement -/

section Poll

variable {p : PortId} {s : State} {e : Exchange} {j : Job} {js : List Job} {st d : Byte}

/-- A POLL is no write through the part. -/
theorem throughPart_poll (h : e.op = .poll) : e.throughPart = false := by simp [Exchange.throughPart, h]

theorem exec_laneResponse_poll (h : JobSucceeds p e j js st d s) (he : e.op = .poll) (hj : j.kind = .poll) (a : Bool) :
    exec (.laneResponse p st d (responseCheck st d) a) s = .next (finish
      (((pollResult p st d (s.jobDone p a js)).modPort p Port.serveRoom).modPort p Port.testPoll)) := by
  have ⟨_, _, _, _, hq, _⟩ := h
  have hh : ((s.handed p a).port p).queue = j :: js := by rw [queue_handed, hq]
  rw [exec_laneResponse_job h a, throughPart_poll he, if_neg Bool.false_ne_true]
  simp only [jobSuccess, hj]
  rw [jobEnd_poll hh hj, ← modPort_tail hh, handed_tail hq]

theorem exec_responseLimitExpiry_poll (h : JobFails p e j js s) (he : e.op = .poll) (hj : j.kind = .poll) (a : Bool) :
    exec (.responseLimitExpiry p a) s = .next (finish
      ((((s.failed p a).modPort p (fun c => { c with queue := c.queue.tail })).modPort p Port.serveRoom).modPort p
        Port.testPoll)) := by
  have ⟨_, _, _, _, hq, _, hr⟩ := h
  obtain ⟨ks, hk⟩ := failed_queue hr hq a
  rw [exec_responseLimitExpiry_job h a, throughPart_poll he, if_neg Bool.false_ne_true]
  simp only [jobFailure, hj]
  rw [jobEnd_poll hk hj, ← modPort_tail hk, id]

end Poll

/-- Settles O55: the end of a POLL job is `exec_laneResponse_poll` on success and `exec_responseLimitExpiry_poll` on failure. -/
theorem eventTaken : Obligations.EventTaken := by
  unfold Obligations.EventTaken
  refine ⟨fun rules e => ⟨forwards_default, fun pre r post hr hpre hm => hr ▸ forwards_first hpre hm,
    fun r => r.matches_iff e⟩, fun p s st d hk => ⟨fun hb hf => ?forwarded, fun hb hf => ?suppressed, pollResult_repeat⟩,
    fun p s e j js st d a h he hj => exec_laneResponse_poll h he hj a, fun p s e j js a h he hj => ?failed⟩
  case forwarded =>
    rw [pollResult_button hk hb, if_pos hf]
    refine ⟨fun h => ?_, fun h hn => ?_, fun hn => ?_⟩
    · rw [offerEvent_first (by simpa using h), handEventsWaiting_eq]
      rfl
    · exact offerEvent_room h hn
    · rw [offerEvent_full (by simpa using hn), modPort_modPort]
  case suppressed =>
    rw [pollResult_button hk hb, if_neg (by simp [hf])]
  case failed =>
    have ⟨_, _, _, _, _, _, hr⟩ := h
    have keeps := keeps_failed s p a
    have record : (((s.failed p a).port p).pollBit, ((s.failed p a).port p).resync, ((s.failed p a).port p).held,
        ((s.failed p a).port p).run, ((s.failed p a).port p).grade) =
        ((s.port p).pollBit, (s.port p).resync, (s.port p).held, min 3 ((s.port p).run + 1), none) :=
      failed_record (fun c => (c.pollBit, c.resync, c.held, c.run, c.grade)) hr a
    simp only [Prod.mk.injEq] at record
    obtain ⟨hbit, hresync, hheld, hrun, hgrade⟩ := record
    rw [Nat.min_eq_right (by omega)] at hrun
    refine ⟨_, exec_responseLimitExpiry_poll h he hj a, ?_, ?_, ?_, countFailure_events (by simpa using hr), keeps.same rfl,
      keeps.still, ?_, ?_, ?_, ((onPort_failed s p a).mod _).others⟩
    all_goals rw [port_modPort_self]
    exacts [hbit, hresync, hheld, hrun, hgrade, by rw [State.failed, setLane, port_modPort_self]]

end Sys2Proof.Machine

namespace Sys2Proof.Machine

/-! # Proofs: the jobs of a record through its operations -/

section Jobs

variable {c d e : Port} {j : Job} {n : Nat}

/-- The jobs of a port, queued or waiting. -/
def Port.jobs (c : Port) : List Job := c.queue ++ c.waitLine

/-- From c to d jobs have joined the tail of the queue or the waiting line, and left the line for the queue; none of those
that joined is a host, preparation or advance job. -/
structure Port.Gains (c d : Port) : Prop where
  queue : c.queue <+: d.queue
  kept : ∀ j ∈ c.jobs, j ∈ d.jobs
  added : ∀ j ∈ d.jobs, j ∈ c.jobs ∨ j.dropped = false

namespace Port.Gains

theorem of_eq (hq : d.queue = c.queue) (hw : d.waitLine = c.waitLine) : c.Gains d := by
  have h : d.jobs = c.jobs := by rw [Port.jobs, Port.jobs, hq, hw]
  exact ⟨hq ▸ List.prefix_rfl, fun _ => h ▸ id, fun _ hj => .inl (h ▸ hj)⟩

theorem refl (c : Port) : c.Gains c := of_eq rfl rfl

theorem trans (h : c.Gains d) (g : d.Gains e) : c.Gains e :=
  ⟨h.queue.trans g.queue, fun j hj => g.kept j (h.kept j hj), fun j hj => (g.added j hj).elim (h.added j) .inr⟩

/-- A job joins the queue. -/
theorem push (h : c.Gains d) {k : JobKind} (hk : (Job.mk' k).dropped = false) : c.Gains (pushJob k d) := by
  refine h.trans ⟨List.prefix_append _ _, fun j hj => ?_, fun j hj => ?_⟩
  · simp only [Port.jobs, pushJob, List.mem_append] at hj ⊢
    tauto
  · simp only [Port.jobs, pushJob, List.mem_append, List.mem_singleton] at hj ⊢
    rcases hj with (hj | rfl) | hj
    · exact .inl (.inl hj)
    · exact .inr hk
    · exact .inl (.inr hj)

/-- A job joins the queue or its waiting line. -/
theorem enqueue (h : c.Gains d) {k : JobKind} (hk : (Job.mk' k).dropped = false) : c.Gains (d.enqueue k) := by
  unfold Port.enqueue
  split
  · exact h.push hk
  · refine h.trans ⟨List.prefix_rfl, fun j hj => ?_, fun j hj => ?_⟩
    · simp only [Port.jobs, List.mem_append] at hj ⊢
      tauto
    · simp only [Port.jobs, List.mem_append, List.mem_singleton] at hj ⊢
      rcases hj with hj | hj | rfl
      · exact .inl (.inl hj)
      · exact .inl (.inr hj)
      · exact .inr hk

theorem testPoll (h : c.Gains d) : c.Gains d.testPoll := by
  unfold Port.testPoll
  split
  · split
    · exact h.push rfl
    · exact h.trans (of_eq rfl rfl)
  · exact h

theorem servePoll (h : c.Gains d) : c.Gains (d.servePoll n) := by
  have h' : c.Gains { d with markPoll := false } := h.trans (of_eq rfl rfl)
  unfold Port.servePoll
  split
  · dsimp only
    split
    · exact h'.push rfl
    · exact h'
  · exact h

theorem serveThermal (h : c.Gains d) : c.Gains (d.serveThermal n) := by
  have h' : c.Gains { d with markThermal := false } := h.trans (of_eq rfl rfl)
  unfold Port.serveThermal
  split
  · dsimp only
    split
    · exact h'
    · exact h'.push rfl
  · exact h

theorem servePing (h : c.Gains d) : c.Gains (d.servePing n) := by
  have h' : c.Gains { d with markPing := false } := h.trans (of_eq rfl rfl)
  unfold Port.servePing
  split
  · dsimp only
    split
    · exact h'.push rfl
    · exact h'
  · exact h

theorem serveLine (h : c.Gains d) : c.Gains (d.serveLine n) := by
  have hj : (d.serveLine n).jobs = d.jobs := by
    simp [Port.jobs, Port.serveLine, List.append_assoc, List.take_append_drop]
  exact h.trans ⟨List.prefix_append _ _, fun _ => hj ▸ id, fun _ h => .inl (hj ▸ h)⟩

/-- Room is served. -/
theorem serveUpTo (h : c.Gains d) : c.Gains (d.serveUpTo n) := h.servePoll.serveThermal.servePing.serveLine

end Port.Gains

/-! ## Jobs that are removed, and a job that is cut -/

/-- A record whose jobs of a kind have left, but for those in flight, before the room they free is served. -/
def Port.without (f : Job → Bool) (c : Port) : Port :=
  { c with queue := c.queue.filter (fun j => !f j || j.started), waitLine := c.waitLine.filter (fun j => !f j) }

theorem gains_removeJobs (f : Job → Bool) (c : Port) : (c.without f).Gains (c.removeJobs f) :=
  (Port.Gains.refl _).serveUpTo

theorem mem_without {f : Job → Bool} :
    j ∈ (c.without f).jobs ↔ j ∈ c.jobs ∧ (f j = true → j ∈ c.queue ∧ j.started = true) := by
  simp only [Port.jobs, Port.without, List.mem_append, List.mem_filter]
  cases f j <;> simp
  tauto

/-- What a job in flight that is cut does to a record: nothing when there is none; it stays, cut, while the lane carries its
exchange, and leaves the queue at once when it does not. -/
theorem cutFlight_cases (f : Job → Bool) (b : Bool) (c : Port) :
    (c.cutFlight f b = c ∧ ∀ j js, c.queue = j :: js → j.started = true → f j = false) ∨
    ∃ j js, c.queue = j :: js ∧ j.started = true ∧ f j = true ∧
      (c.laneHasJob = true ∧
          c.cutFlight f b = { c with queue := { j with cut := true, noEntry := j.noEntry || b } :: js } ∨
        c.laneHasJob = false ∧ c.cutFlight f b = ({ c with queue := js } : Port).serveUpTo c.queue.length) := by
  cases hq : c.queue with
  | nil => exact .inl ⟨by simp only [Port.cutFlight, hq], by simp⟩
  | cons j js =>
    by_cases hj : j.started = true ∧ f j = true
    · refine .inr ⟨j, js, rfl, hj.1, hj.2, ?_⟩
      cases hl : c.laneHasJob
      · exact .inr ⟨rfl, by simp [Port.cutFlight, hq, hj, hl]⟩
      · exact .inl ⟨rfl, by simp [Port.cutFlight, hq, hj, hl]⟩
    · refine .inl ⟨?_, ?_⟩
      · have : ¬ (j.started && f j) = true := by simpa using hj
        simp only [Port.cutFlight, hq, if_neg this]
      · rintro i is ⟨⟩ hi
        simpa [hi] using hj

/-! ## The jobs of a port at a warm reset (R52, R145) -/

theorem writeRun_dropped (h : j.isWriteRun = true) : j.dropped = true := by
  simp only [Job.isWriteRun, Bool.or_eq_true] at h
  simp only [Job.dropped, Bool.or_eq_true]
  tauto

theorem holdsPause_dropped (h : j.holdsPause = true) : j.dropped = true := by
  simp only [Job.holdsPause, Bool.or_eq_true] at h
  simp only [Job.dropped, Bool.or_eq_true]
  tauto

theorem host_not_writeRun (h : j.isHost = true) : j.isWriteRun = false := by
  obtain ⟨k, _, _, _⟩ := j
  cases k with
  | hostRead | hostWrite => rfl
  | prepWrite | aheadWrite | identify | poll | thermalRead | ping | powerMode => exact absurd h Bool.false_ne_true

theorem host_dropped (h : j.isHost = true) : j.dropped = true := by simp [Job.dropped, h]

/-- A PING is none of the jobs that the reset drops. -/
theorem dropped_not_ping (h : j.dropped = true) : j.isPing = false := by
  obtain ⟨k, _, _, _⟩ := j
  cases k with
  | ping => exact absurd h Bool.false_ne_true
  | hostRead | hostWrite | prepWrite | aheadWrite | identify | poll | thermalRead | powerMode => rfl

/-- Of the host, preparation and advance jobs only one in flight is left. -/
theorem warmJobs_dropped (hj : j ∈ c.warmJobs.jobs) (hd : j.dropped = true) :
    j.started = true ∧ ∃ i ∈ c.queue, i.started = true ∧ i.kind = j.kind := by
  have removed : ∀ i ∈ (c.removeJobs Job.dropped).jobs, i.dropped = true → i.started = true ∧ i ∈ c.queue := by
    intro i hi hid
    rcases (gains_removeJobs _ _).added i hi with h | h
    · exact ((mem_without.1 h).2 hid).symm
    · exact absurd hid (by simp [h])
  have whole : j ∈ (c.removeJobs Job.dropped).jobs → j.started = true ∧ ∃ i ∈ c.queue, i.started = true ∧ i.kind = j.kind :=
    fun h => ⟨(removed j h hd).1, j, (removed j h hd).2, (removed j h hd).1, rfl⟩
  rcases cutFlight_cases Job.isWriteRun true (c.removeJobs Job.dropped) with
    ⟨he, -⟩ | ⟨i, is, hq, hs, hf, ⟨-, he⟩ | ⟨-, he⟩⟩ <;> rw [Port.warmJobs, he] at hj
  · exact whole hj
  · have hi : i ∈ (c.removeJobs Job.dropped).jobs := List.mem_append_left _ (by simp [hq])
    rcases List.mem_append.1 hj with hj | hj
    · rcases List.mem_cons.1 hj with rfl | hj
      · exact ⟨hs, i, (removed i hi (writeRun_dropped hf)).2, hs, rfl⟩
      · exact whole (List.mem_append_left _ (by simp [hq, hj]))
    · exact whole (List.mem_append_right _ hj)
  · rcases (Port.Gains.refl _).serveUpTo.added j hj with hj | hj
    · rcases List.mem_append.1 hj with hj | hj
      · exact whole (List.mem_append_left _ (by simp only [hq]; exact List.mem_cons_of_mem _ hj))
      · exact whole (List.mem_append_right _ hj)
    · exact absurd hd (by simp [hj])

/-- The other jobs stay. -/
theorem warmJobs_kept (hj : j ∈ c.jobs) (hd : j.dropped = false) : j ∈ c.warmJobs.jobs := by
  have hr : j ∈ (c.removeJobs Job.dropped).jobs := (gains_removeJobs _ _).kept j (mem_without.2 ⟨hj, by simp [hd]⟩)
  rcases cutFlight_cases Job.isWriteRun true (c.removeJobs Job.dropped) with
    ⟨he, -⟩ | ⟨i, is, hq, hs, hf, h⟩
  · rwa [Port.warmJobs, he]
  · have hi : j ≠ i := by
      rintro rfl
      simp [writeRun_dropped hf] at hd
    have hj' : j ∈ is ++ (c.removeJobs Job.dropped).waitLine := by
      simpa [Port.jobs, hq, hi] using hr
    rcases h with ⟨-, he⟩ | ⟨-, he⟩ <;> rw [Port.warmJobs, he]
    · exact List.mem_cons_of_mem _ hj'
    · exact (Port.Gains.refl _).serveUpTo.kept j hj'

/-- They stay in their order. -/
theorem warmJobs_order (c : Port) :
    c.queue.filter (fun j => !j.dropped) <+: c.warmJobs.queue.filter (fun j => !j.dropped) := by
  have hr : c.queue.filter (fun j => !j.dropped) <+: (c.removeJobs Job.dropped).queue.filter (fun j => !j.dropped) := by
    have h := (gains_removeJobs Job.dropped c).queue.filter (fun j => !j.dropped)
    have he : (c.without Job.dropped).queue.filter (fun j => !j.dropped) = c.queue.filter (fun j => !j.dropped) := by
      rw [Port.without, List.filter_filter]
      exact List.filter_congr fun j _ => by cases j.dropped <;> simp
    rwa [he] at h
  rcases cutFlight_cases Job.isWriteRun true (c.removeJobs Job.dropped) with
    ⟨he, -⟩ | ⟨i, is, hq, hs, hf, h⟩
  · rwa [Port.warmJobs, he]
  · have hi : i.dropped = true := writeRun_dropped hf
    have hi' (b : Bool) : ({ i with cut := true, noEntry := b } : Job).dropped = true := hi
    rw [hq, List.filter_cons_of_neg (by simp [hi])] at hr
    rcases h with ⟨-, he⟩ | ⟨-, he⟩ <;> rw [Port.warmJobs, he]
    · rwa [List.filter_cons_of_neg (by simp [hi'])]
    · exact hr.trans ((Port.Gains.refl { c.removeJobs Job.dropped with queue := is }).serveUpTo.queue.filter _)

section Head

variable {js : List Job} (hq : c.queue = j :: js) (hs : j.started = true)
include hq hs

/-- The job in flight is at the head when the others have left. -/
theorem removeJobs_head (f : Job → Bool) : ∃ is, (c.removeJobs f).queue = j :: is := by
  obtain ⟨ts, ht⟩ := (gains_removeJobs f c).queue
  rw [Port.without, hq, List.filter_cons_of_pos (by simp [hs])] at ht
  exact ⟨_, ht.symm⟩

/-- A host job in flight runs on. -/
theorem warmJobs_host (hh : j.isHost = true) : c.warmJobs.queue.head? = some j := by
  obtain ⟨is, hr⟩ := removeJobs_head hq hs Job.dropped
  rcases cutFlight_cases Job.isWriteRun true (c.removeJobs Job.dropped) with
    ⟨he, -⟩ | ⟨i, ks, hq', -, hf, -⟩
  · rw [Port.warmJobs, he, hr, List.head?_cons]
  · obtain rfl : j = i := by simpa [hr] using And.left (List.cons.inj (hr.symm.trans hq'))
    simp [host_not_writeRun hh] at hf

/-- A write in flight makes no further write and no entry. -/
theorem warmJobs_write (hw : j.isWriteRun = true) (hl : c.laneHasJob = true) :
    c.warmJobs.queue.head? = some { j with cut := true, noEntry := true } := by
  obtain ⟨is, hr⟩ := removeJobs_head hq hs Job.dropped
  have hl' : (c.removeJobs Job.dropped).laneHasJob = true :=
    (congrArg Port.laneHasJob (body_removeJobs c Job.dropped)).trans hl
  simp [Port.warmJobs, Port.cutFlight, hr, hs, hw, hl']

end Head

end Jobs

end Sys2Proof.Machine

namespace Sys2Proof.Machine

/-! # Proofs: what a pause and a return to READY leave of a record -/

section Records

variable {p q : PortId} {s t : State} {c d e : Port} {new : Power}

theorem Port.eq_of_unmarked (h : c.unmarked = d.unmarked) : c = { d with camMark := c.camMark } := by
  cases c
  cases d
  simp only [Port.unmarked, Port.mk.injEq] at h ⊢
  tauto

/-- A field that is none of the jobs is the same in two records that agree but for their jobs. -/
theorem field_of_body {α : Type} (h : d.body = c.body) (f : Port → α)
    (hf : ∀ c : Port, f c.body = f c := by exact fun _ => rfl) : f d = f c := by
  rw [← hf, h, hf]

/-- A camera's state is set: its record is the one in the new state, but for the commitment and the mark of a report. -/
theorem port_setPower (p : PortId) (new : Power) (s : State) : ∃ figure mark,
    (setPower p new s).port p =
      { Port.enter s.clock new (s.port p) with commitment := figure, camMark := mark } := by
  have entered (t : State) (ht : (t.port p).unmarked = (Port.enter s.clock new (s.port p)).unmarked) : ∃ figure mark,
      (settleCommitment p t).port p =
        { Port.enter s.clock new (s.port p) with commitment := figure, camMark := mark } := by
    rcases port_settleCommitment p p t with h | h <;> rw [h, Port.eq_of_unmarked ht]
    · exact ⟨_, _, rfl⟩
    · exact ⟨_, _, rfl⟩
  unfold setPower
  dsimp only
  refine entered _ ?_
  split
  · rw [unmarked_markPort, port_modPort_self]
  · rw [port_modPort_self]

/-- The jobs of a record in a new state: those there were, but for the PINGs of a camera that leaves KEEPWARM. -/
theorem enter_jobs (now : Nat) (new : Power) (c : Port) :
    ((Port.enter now new c).queue = c.queue ∧ (Port.enter now new c).waitLine = c.waitLine) ∨
    (c.without Job.isPing).Gains (Port.enter now new c) := by
  have hr (d : Port) (old : Power) : (d.railChange now old).queue = d.queue ∧ (d.railChange now old).waitLine = d.waitLine := by
    unfold Port.railChange
    repeat' split
    all_goals exact ⟨rfl, rfl⟩
  have hd (d : Port) : d.dropResumeWait.queue = d.queue ∧ d.dropResumeWait.waitLine = d.waitLine := by
    unfold Port.dropResumeWait
    split <;> exact ⟨rfl, rfl⟩
  obtain ⟨hq, hw⟩ := hd (({ c with power := new } : Port).railChange now c.power)
  obtain ⟨hq', hw'⟩ := hr { c with power := new } c.power
  unfold Port.enter
  dsimp only
  split
  · refine .inr ((Port.Gains.of_eq ?_ ?_).trans (gains_removeJobs Job.isPing _))
    · simp only [Port.without, hq, hq']
    · simp only [Port.without, hw, hw']
  · exact .inl ⟨hq.trans hq', hw.trans hw'⟩

/-- A rail that is off reads 0. -/
theorem reading_enter (h : new.railOn = false) (now : Nat) (c : Port) : (Port.enter now new c).reading = some 0 := by
  have off : (({ c with power := new } : Port).railChange now c.power).dropResumeWait.reading = some 0 := by
    simp only [Port.railChange, h, Bool.false_eq_true, if_false]
    unfold Port.dropResumeWait
    split <;> rfl
  unfold Port.enter
  dsimp only
  split
  · exact (congrArg Port.reading (body_dropPings _)).trans off
  · exact off

/-- The fields of a record that no pause, no return to READY and no choice of a lane writes. -/
def Port.settings (c : Port) : Option StationId × Nat × Bool × Bool × Bool × Option Profile × Option EventRec :=
  (c.station, c.railLimit, c.enabled, c.hostPause, c.conflict, c.profile, c.held)

/-- What a pause or a return to READY leaves of a record: its settings, its reservation, its lane and its order; the jobs but
for PINGs; no host, preparation or advance job joins, the head of the queue stays, and no camera is armed. -/
structure Port.Tends (c d : Port) : Prop where
  fixed : (d.settings, d.resv, d.lane, d.order) = (c.settings, c.resv, c.lane, c.order)
  kept : ∀ j ∈ c.jobs, j.isPing = false → j ∈ d.jobs
  added : ∀ j ∈ d.jobs, j ∈ c.jobs ∨ j.dropped = false
  head : ∀ j, c.queue.head? = some j → j.isPing = false → d.queue.head? = some j
  unarmed : c.power.isArmed = false → d.power.isArmed = false

namespace Port.Tends

/-- Jobs join a record that is otherwise as it was. -/
theorem of_gains (h : c.Gains d) (hf : (d.settings, d.resv, d.lane, d.order) = (c.settings, c.resv, c.lane, c.order))
    (hp : c.power.isArmed = false → d.power.isArmed = false) : c.Tends d where
  fixed := hf
  kept := fun j hj _ => h.kept j hj
  added := h.added
  head := fun j hj _ => by
    obtain ⟨is, hi⟩ := h.queue
    rw [← hi, List.head?_append, hj, Option.some_or]
  unarmed := hp

theorem of_body (h : c.Gains d) (hb : d.body = c.body) : c.Tends d :=
  of_gains h (field_of_body hb fun x => (x.settings, x.resv, x.lane, x.order))
    (field_of_body hb fun x => x.power.isArmed).trans

theorem of_unmarked (h : d.unmarked = c.unmarked) : c.Tends d := by
  rw [Port.eq_of_unmarked h]
  exact of_gains (Port.Gains.of_eq rfl rfl) rfl id

theorem refl (c : Port) : c.Tends c := of_unmarked rfl

theorem trans (h : c.Tends d) (g : d.Tends e) : c.Tends e where
  fixed := g.fixed.trans h.fixed
  kept := fun j hj hp => g.kept j (h.kept j hj hp) hp
  added := fun j hj => (g.added j hj).elim (h.added j) .inr
  head := fun j hj hp => g.head j (h.head j hj hp) hp
  unarmed := g.unarmed ∘ h.unarmed

/-- The camera enters a state that is not ARMED. -/
theorem enter (hn : new.isArmed = false) (now : Nat) (c : Port) : c.Tends (Port.enter now new c) := by
  have hf := congrArg (fun x : Port => (x.settings, x.resv, x.lane, x.order)) (kept_enter c now new)
  have hp : (Port.enter now new c).power.isArmed = false := by rwa [power_enter]
  rcases enter_jobs now new c with ⟨hq, hw⟩ | h
  · exact of_gains (Port.Gains.of_eq hq hw) hf fun _ => hp
  · refine ⟨hf, fun j hj hjp => h.kept j (mem_without.2 ⟨hj, by simp [hjp]⟩),
      fun j hj => (h.added j hj).imp (fun hj => (mem_without.1 hj).1) id, fun j hj hjp => ?_, fun _ => hp⟩
    obtain ⟨js, hq⟩ := List.head?_eq_some_iff.1 hj
    obtain ⟨is, hi⟩ := h.queue
    rw [← hi, Port.without, hq, List.filter_cons_of_pos (by simp [hjp])]
    rfl

end Port.Tends

end Records

/-! # Proofs: what a warm reset has emptied stays empty (R107, R145, R162, R176, R190) -/

/-- The parts of the link, the fire unit and the event filter that a warm reset empties, and that neither the ends of its port
rules nor the choices of the lanes write. -/
def State.outside (s : State) := (s.settles, s.settleReady, s.eventsMark, s.inXfer, s.owner, s.lock, s.waiting, s.events)

/-- From s the operations of port p by which a camera pauses or returns to READY have reached t. -/
structure Tends (p : PortId) (s t : State) : Prop where
  outside : t.outside = s.outside
  adv : s.adv = [] → t.adv = []
  cues : s.cues = [] → t.cues = []
  record : (s.port p).Tends (t.port p)

namespace Tends

variable {p : PortId} {s t u : State}

theorem refl (p : PortId) (s : State) : Tends p s s := ⟨rfl, id, id, .refl _⟩

theorem trans (h : Tends p s t) (g : Tends p t u) : Tends p s u :=
  ⟨g.outside.trans h.outside, g.adv ∘ h.adv, g.cues ∘ h.cues, h.record.trans g.record⟩

theorem modPort (h : Tends p s t) (f : Port → Port) (hf : (t.port p).Tends (f (t.port p))) : Tends p s (t.modPort p f) :=
  h.trans ⟨rfl, id, id, by rwa [port_modPort_self]⟩

theorem markPort (h : Tends p s t) : Tends p s (markPort p t) := by
  refine h.trans ⟨?_, ?_, ?_, .of_unmarked (unmarked_markPort p p t)⟩
  all_goals unfold Machine.markPort; repeat' split
  all_goals first | rfl | exact id

theorem settleCommitment (h : Tends p s t) : Tends p s (settleCommitment p t) := by
  unfold Machine.settleCommitment
  split
  · exact h.modPort _ (.of_gains (.of_eq rfl rfl) rfl id)
  · exact h

theorem setPower (h : Tends p s t) {new : Power} (hn : new.isArmed = false) : Tends p s (setPower p new t) := by
  have g := h.modPort (Port.enter t.clock new) (.enter hn _ _)
  unfold Machine.setPower
  dsimp only
  split
  · exact g.markPort.settleCommitment
  · exact g.settleCommitment

theorem setOffload (h : Tends p s t) (v : Bool) : Tends p s (setOffload p v t) := by
  unfold Machine.setOffload
  split
  · exact h
  · exact (h.modPort _ (.of_gains (.of_eq rfl rfl) rfl id)).markPort

theorem clearEntries (h : Tends p s t) : Tends p s (clearEntries p t) :=
  h.trans ⟨rfl, fun ha => by simp [Machine.clearEntries, ha], id, .refl _⟩

theorem enqueueJob (h : Tends p s t) {k : JobKind} (hk : (Job.mk' k).dropped = false) : Tends p s (enqueueJob p k t) :=
  h.modPort _ (.of_body ((Port.Gains.refl _).enqueue hk) (body_enqueue _ _))

theorem testPoll (h : Tends p s t) : Tends p s (t.modPort p Port.testPoll) :=
  h.modPort _ (.of_body (Port.Gains.refl _).testPoll (body_testPoll _))

/-- The camera is in a state that is not ARMED, with the same jobs. -/
theorem modPower (h : Tends p s t) {new : Power} (hn : new.isArmed = false) :
    Tends p s (t.modPort p ({ · with power := new })) :=
  h.modPort _ (.of_gains (.of_eq rfl rfl) rfl fun _ => hn)

theorem startRest (h : Tends p s t) : Tends p s (startRest p t) := by
  unfold Machine.startRest
  split
  · exact h.modPower rfl
  · exact h

theorem restartRest (h : Tends p s t) : Tends p s (restartRest p t) := by
  unfold Machine.restartRest
  split
  · exact (h.modPower rfl).startRest
  · exact h

theorem enterDoze (h : Tends p s t) : Tends p s (enterDoze p t) := (h.setPower rfl).enqueueJob rfl

theorem startKeepwarm (h : Tends p s t) : Tends p s (startKeepwarm p t) := by
  unfold Machine.startKeepwarm
  split
  · exact h.modPower rfl
  · exact h.enterDoze

theorem enterKeepwarm (h : Tends p s t) : Tends p s (enterKeepwarm p t) :=
  ((h.setPower rfl).enqueueJob rfl).startKeepwarm

section NoCues

variable (hc : s.cues = [])
include hc

/-- With no cue there is no preparation to lose. -/
theorem loseSettings (h : Tends p s t) : Tends p s (loseSettings p t) := by
  have e : Machine.loseSettings p t = t := by simp [Machine.loseSettings, h.cues hc, forEach]
  rwa [e]

theorem enterDeep (h : Tends p s t) : Tends p s (enterDeep p t) :=
  ((h.setPower rfl).setOffload false).clearEntries.loseSettings hc

theorem pauseAction (h : Tends p s t) (x : Target) : Tends p s (pauseAction p x t) := by
  cases x with
  | doze => exact h.enterDoze
  | keepwarm => exact h.enterKeepwarm
  | deep => exact h.enterDeep hc

theorem pauseReady (h : Tends p s t) (ps : Pause) : Tends p s (pauseReady p ps t) := by
  unfold Machine.pauseReady
  split
  · exact h.setPower rfl
  · exact h.pauseAction hc _

theorem pausingEvent (h : Tends p s t) : Tends p s (pausingEvent p t) := by
  unfold Machine.pausingEvent
  split
  · split
    · exact h
    · exact h.pauseAction hc _
  · exact h

/-- With no cue there is no check to make. -/
theorem checkOnReady (h : Tends p s t) : Machine.checkOnReady p t = t := by
  simp [Machine.checkOnReady, State.checksOwed, h.cues hc, forEach]

end NoCues

/-- A port without an order hands none over. -/
theorem handOver (h : Tends p s t) (ho : (s.port p).order = none) : Machine.handOver p t = t := by
  have e : (t.port p).order = none := (congrArg (·.2.2.2) h.record.fixed).trans ho
  simp only [Machine.handOver, e]

/-- With no cue and no order, an entry to READY takes the pending pause, or starts the rest timer. -/
theorem enterReady_eq (hc : s.cues = []) (ho : (s.port p).order = none) (rest : Bool) :
    Machine.enterReady p rest s = (match (s.port p).power.pending? with
      | some ps => Machine.pauseReady p ps (Machine.setPower p (.ready none none) s)
      | none => if rest then Machine.startRest p (Machine.setPower p (.ready none none) s)
        else Machine.setPower p (.ready none none) s) := by
  have h : Tends p s (Machine.setPower p (.ready none none) s) := (Tends.refl p s).setPower rfl
  unfold Machine.enterReady
  dsimp only
  cases (s.port p).power.pending? with
  | some ps => exact (h.pauseReady hc ps).handOver ho
  | none =>
    cases rest
    · exact (congrArg _ (h.checkOnReady hc)).trans (h.handOver ho)
    · exact (congrArg _ (h.startRest.checkOnReady hc)).trans (h.startRest.handOver ho)

theorem enterReady (h : Tends p s t) (hc : s.cues = []) (ho : (s.port p).order = none) (rest : Bool) :
    Tends p s (enterReady p rest t) := by
  have ho' : (t.port p).order = none := (congrArg (·.2.2.2) h.record.fixed).trans ho
  have g : Tends p s (Machine.setPower p (.ready none none) t) := h.setPower rfl
  rw [enterReady_eq (h.cues hc) ho']
  split
  · exact g.pauseReady hc _
  · split
    · exact g.startRest
    · exact g

end Tends

/-- From s the port rules of a warm reset and the choices of the lanes have reached t: what the reset has emptied is empty
still, and the settings of every port are as they were. -/
structure Spares (s t : State) : Prop where
  outside : t.outside = s.outside
  adv : s.adv = [] → t.adv = []
  cues : s.cues = [] → t.cues = []
  settings : ∀ q, (t.port q).settings = (s.port q).settings
  unarmed : ∀ q, (s.port q).power.isArmed = false → (t.port q).power.isArmed = false

theorem Tends.spares {p : PortId} {s t : State} (h : Tends p s t) (o : OnPort p s t) : Spares s t where
  outside := h.outside
  adv := h.adv
  cues := h.cues
  settings := fun q => by
    by_cases hq : q = p
    · exact hq ▸ congrArg (·.1) h.record.fixed
    · rw [o.others q hq]
  unarmed := fun q => by
    by_cases hq : q = p
    · exact hq ▸ h.record.unarmed
    · rw [o.others q hq]; exact id

namespace Spares

variable {p : PortId} {s t u : State}

theorem refl (s : State) : Spares s s := ⟨rfl, id, id, fun _ => rfl, fun _ => id⟩

theorem trans (h : Spares s t) (g : Spares t u) : Spares s u :=
  ⟨g.outside.trans h.outside, g.adv ∘ h.adv, g.cues ∘ h.cues, fun q => (g.settings q).trans (h.settings q),
    fun q => g.unarmed q ∘ h.unarmed q⟩

theorem modPort (h : Spares s t) (p : PortId) (f : Port → Port)
    (hf : (f (t.port p)).settings = (t.port p).settings := by exact rfl)
    (hp : (t.port p).power.isArmed = false → (f (t.port p)).power.isArmed = false := by exact id) :
    Spares s (t.modPort p f) := by
  refine h.trans ⟨rfl, id, id, fun q => ?_, fun q => ?_⟩ <;> rw [port_modPort] <;> split
  · subst_vars
    exact hf
  · rfl
  · subst_vars
    exact hp
  · exact id

/-- The jobs of a port change. -/
theorem modJobs (h : Spares s t) (p : PortId) (f : Port → Port) (hf : ∀ c : Port, (f c).body = c.body) :
    Spares s (t.modPort p f) :=
  h.modPort p f (field_of_body (hf _) Port.settings) (field_of_body (hf _) fun c => c.power.isArmed).trans

theorem releaseUnstarted (h : Spares s t) (p : PortId) : Spares s (releaseUnstarted p t) := by
  unfold Machine.releaseUnstarted Machine.releaseResv Machine.settleCommitment
  repeat' split
  · exact (h.modPort p _).modPort p _
  · exact h.modPort p _
  · exact h

theorem giveAnswer (h : Spares s t) (k : Nat) (b : List Byte) : Spares s (giveAnswer k b t) :=
  h.trans ⟨rfl, id, id, fun _ => rfl, fun _ => id⟩

theorem prepEnd (h : Spares s t) (cue : Nat) (p : PortId) (ok : Bool) : Spares s (prepEnd cue p ok t) := by
  have g (v : Prep) : Spares s (Machine.setPrep cue p v t) :=
    h.trans ⟨rfl, id, fun hc => by simp [Machine.setPrep, Machine.modCue, hc], fun _ => rfl, fun _ => id⟩
  unfold Machine.prepEnd
  repeat' split
  all_goals first | exact h | exact g _

theorem startCheckFailed (h : Spares s t) (p : PortId) (j : Job) : Spares s (startCheckFailed p j t) := by
  unfold Machine.startCheckFailed Machine.returnOrder
  split
  · exact h.giveAnswer _ _
  · exact h.giveAnswer _ _
  · exact h.prepEnd _ _ _
  · split
    · exact h.modPort p _
    · exact h
  all_goals exact h

theorem startResume (h : Spares s t) (p : PortId) (f : Forecast) : Spares s (startResume p f t) := by
  unfold Machine.startResume
  split
  · exact h
  · have g := h.modPort p (fun c => { c.removeJobs Job.isPowerMode with wakePulses := c.wakePulses + 1 })
      (field_of_body (body_removeJobs (t.port p) Job.isPowerMode) Port.settings)
      (field_of_body (body_removeJobs (t.port p) Job.isPowerMode) fun c => c.power.isArmed).trans
    exact g.trans (((Tends.refl p _).setPower rfl).spares ((OnPort.refl p _).setPower _))
  · exact h

theorem jobEnd (h : Spares s t) (hc : s.cues = []) (p : PortId) (j : Job) (result : State → State)
    (hr : ∀ u, Spares s u → Spares s (result u)) : Spares s (jobEnd p j result t) := by
  have pausing (u : State) (hu : Spares s u) : Spares s (Machine.pausingEvent p u) :=
    hu.trans (((Tends.refl p u).pausingEvent (hu.cues hc)).spares (OnPort.refl p u).pausingEvent)
  have resume (u : State) (hu : Spares s u) : Spares s (startWaitingResume p u) := by
    unfold startWaitingResume
    split
    · exact hu.startResume p _
    · exact hu
  have ends (u v : State) (c : Bool) (hu : Spares s u) (hv : Spares s v) : Spares s (if c then u else v) := by
    cases c <;> assumption
  have g := (hr _ (h.modPort p (fun c => { c with queue := c.queue.tail }))).modJobs p Port.serveRoom body_serveRoom
  have g' := ends _ _ j.holdsPause (pausing _ g) g
  have g'' := ends _ _ (j.isPowerMode && j.started) (resume _ g') g'
  exact ends _ _ j.isPoll (g''.modJobs p Port.testPoll body_testPoll) g''

theorem setLane (h : Spares s t) (p : PortId) (e : Option Exchange) : Spares s (setLane p e t) := h.modPort p _

theorem clearOwed (h : Spares s t) (p : PortId) : Spares s (clearOwed p t) := by
  unfold Machine.clearOwed
  split
  · exact h.modPort p _ rfl fun _ => rfl
  · exact h

theorem markStarted (h : Spares s t) (p : PortId) : Spares s (markStarted p t) :=
  h.modJobs p _ fun c => by split <;> rfl

theorem chooseNext (h : Spares s t) (hc : s.cues = []) (p : PortId) (n : Nat) : Spares s (chooseNext p n t) := by
  induction n generalizing t with
  | zero => exact h
  | succ n ih =>
    unfold Machine.chooseNext
    dsimp only
    repeat' split
    · exact h
    · exact (h.clearOwed p).setLane p _
    · exact h
    · exact ih (h.jobEnd hc p _ id fun _ g => g)
    · exact h.setLane p _
    · exact (h.markStarted p).setLane p _
    · exact ih (h.jobEnd hc p _ _ fun _ g => g.startCheckFailed p _)

/-- A thing done for each of a list is reached when each of its rounds is. -/
theorem forEach {α : Type} (h : Spares s t) (xs : List α) (f : α → State → State)
    (hf : ∀ x u, Spares s u → Spares s (f x u)) : Spares s (forEach xs f t) := by
  induction xs generalizing t with
  | nil => exact h
  | cons x xs ih => exact ih (hf x t h)

theorem settles (h : Spares s t) : t.settles = s.settles := congrArg Prod.fst h.outside

/-- The end of a step with no SETTLE pending and no cue in the list. -/
theorem finish (h : Spares s t) (hc : s.cues = []) (hs : s.settles = Vector.replicate 4 none) : Spares s (finish t) := by
  refine (h.forEach _ _ fun p u g => g.chooseNext hc p _).forEach _ _ fun st u g => ?_
  have none_ : u.settleReq st = none := by
    simp [State.settleReq, g.settles, hs]
  simpa only [testSettle, none_] using g

end Spares

end Sys2Proof.Machine

namespace Sys2Proof.Machine

/-! # Proofs: a pause that is taken at an entry to READY (R17, R21) -/

section Pause

variable {p : PortId} {s t u : State} {c : Port} {ps : Pause}

/-- What each round leaves as it was, the whole leaves as it was. -/
theorem forEach_field {α β : Type} (f : State → β) (g : α → State → State) (h : ∀ x u, f (g x u) = f u) (xs : List α)
    (s : State) : f (forEach xs g s) = f s := by
  induction xs generalizing s with
  | nil => rfl
  | cons x xs ih => exact (ih (g x s)).trans (h x s)

/-- The fields that an entry to a camera state leaves. -/
theorem setPower_field {α : Type} (f : Port → α) (p : PortId) (new : Power) (s : State)
    (hf : ∀ c : Port, f c.base = f c := by exact fun _ => rfl) : f ((setPower p new s).port p) = f (s.port p) := by
  rw [← hf, (setPower_record p new s).2, hf]

theorem enqueue_mem (k : JobKind) (c : Port) : ∃ j ∈ (c.enqueue k).queue ++ (c.enqueue k).waitLine, j.kind = k := by
  refine ⟨Job.mk' k, ?_, rfl⟩
  unfold Port.enqueue
  split <;> simp [pushJob]

/-- The station a port works with follows from the stations and its record. -/
theorem stationOf_congr (hs : t.stations = s.stations) (hp : (t.port p).station = (s.port p).station) :
    t.stationOf p = s.stationOf p := by
  simp only [State.stationOf, State.station, hs, hp]

/-! ## The three targets -/

theorem enterDoze_power (p : PortId) (s : State) : ((enterDoze p s).port p).power = .doze (s.dozeTimer p) := by
  rw [enterDoze, enqueueJob, port_modPort_self, field_of_body (body_enqueue _ _) Port.power, power_setPower]

theorem enterDoze_job (p : PortId) (s : State) :
    ∃ j ∈ ((enterDoze p s).port p).queue ++ ((enterDoze p s).port p).waitLine, j.kind = .powerMode .doze := by
  rw [enterDoze, enqueueJob, port_modPort_self]
  exact enqueue_mem _ _

theorem loseSettings_field {α : Type} (f : Port → α) (p q : PortId) (s : State)
    (hf : ∀ c : Port, f c.body = f c := by exact fun _ => rfl) : f ((loseSettings p s).port q) = f (s.port q) := by
  refine forEach_field (fun u => f (u.port q)) _ (fun c u => ?_) _ s
  split
  · rw [setPrep, port_modCue, port_modPort]
    split
    · exact field_of_body (by rw [body_cutFlight, body_removeJobs]) f hf
    · rfl
  all_goals rfl

theorem loseSettings_adv (p : PortId) (s : State) : (loseSettings p s).adv = s.adv :=
  forEach_field State.adv _ (fun c u => by split <;> rfl) _ s

/-- The fields that a change of the offload-busy flag leaves. -/
theorem setOffload_field {α : Type} (f : Port → α) (p : PortId) (v : Bool) (s : State)
    (hu : ∀ c : Port, f c.unmarked = f c := by exact fun _ => rfl)
    (hf : ∀ c : Port, f { c with offload := v } = f c := by exact fun _ => rfl) :
    f ((setOffload p v s).port p) = f (s.port p) := by
  unfold setOffload
  split
  · rfl
  · rw [markPort_record f hu, port_modPort_self, hf]

theorem enterDeep_field {α : Type} (f : Port → α) (p : PortId) (s : State)
    (hb : ∀ c : Port, f c.body = f c := by exact fun _ => rfl)
    (hu : ∀ c : Port, f c.unmarked = f c := by exact fun _ => rfl)
    (hf : ∀ c : Port, f { c with offload := false } = f c := by exact fun _ => rfl) :
    f ((enterDeep p s).port p) = f ((setPower p .deep s).port p) := by
  rw [enterDeep, loseSettings_field f p p _ hb]
  exact setOffload_field f p false _ hu hf

theorem enterDeep_power (p : PortId) (s : State) : ((enterDeep p s).port p).power = .deep := by
  rw [enterDeep_field Port.power, power_setPower]

theorem enterDeep_reading (p : PortId) (s : State) : ((enterDeep p s).port p).reading = some 0 := by
  obtain ⟨figure, mark, h⟩ := port_setPower p .deep s
  rw [enterDeep_field Port.reading, h]
  exact reading_enter rfl _ _

theorem enterDeep_adv (p : PortId) (s : State) : ∀ e ∈ (enterDeep p s).adv, e.port ≠ p := by
  intro e he
  rw [enterDeep, loseSettings_adv] at he
  simpa using (List.mem_filter.1 he).2

theorem keepInterval_eq {grade : Option Nat} (h : grade ≠ some 7) (base : Nat) :
    keepInterval base grade = some (base * warmFactor grade) := by
  unfold keepInterval warmFactor
  split <;> simp_all

/-- KEEPWARM with the interval of the grade, or DOZE at grade 7. -/
theorem enterKeepwarm_power (p : PortId) (s : State) : ((enterKeepwarm p s).port p).power =
    (keepInterval (s.keepBaseOf p) (s.port p).grade).elim (.doze (s.dozeTimer p))
      (fun d => .keepwarm (some (addMs s.clock d))) := by
  have keeps : Keeps true s (enqueueJob p (.powerMode .keepwarm) (setPower p (.keepwarm none) s)) :=
    ((Keeps.refl true s).setPower p _).enqueueJob p _
  have same {α : Type} (f : Port → α) (hb : ∀ c : Port, f c.base = f c) (hj : ∀ c : Port, f c.body = f c) :
      f ((enqueueJob p (.powerMode .keepwarm) (setPower p (.keepwarm none) s)).port p) = f (s.port p) := by
    rw [enqueueJob, port_modPort_self, field_of_body (body_enqueue _ _) f hj, setPower_field f p _ s hb]
  have hclock := congrArg Prod.fst keeps.still
  have hstation := stationOf_congr (congrArg (·.2.1) keeps.still) (same Port.station (fun _ => rfl) fun _ => rfl)
  have hgrade := same Port.grade (fun _ => rfl) fun _ => rfl
  rw [enterKeepwarm]
  generalize enqueueJob p (.powerMode .keepwarm) (setPower p (.keepwarm none) s) = x at *
  have hclock : x.clock = s.clock := hclock
  have hbase : x.keepBaseOf p = s.keepBaseOf p := by simp only [State.keepBaseOf, hstation]
  rw [startKeepwarm, hbase, hgrade]
  cases keepInterval (s.keepBaseOf p) (s.port p).grade with
  | none =>
    refine (enterDoze_power p x).trans ?_
    simp only [State.dozeTimer, hstation, hclock, Option.elim]
  | some d => simp only [port_modPort_self, hclock, Option.elim]

/-- The action of a pause puts the camera in a paused state. -/
theorem pauseAction_paused (p : PortId) (x : Target) (s : State) :
    ((pauseAction p x s).port p).power.paused?.isSome = true := by
  cases x with
  | doze => simp [pauseAction, enterDoze_power, Power.paused?]
  | deep => simp [pauseAction, enterDeep_power, Power.paused?]
  | keepwarm =>
    rw [pauseAction, enterKeepwarm_power]
    cases keepInterval (s.keepBaseOf p) (s.port p).grade <;> rfl

/-- A pause of a READY camera is taken as R21 says. -/
theorem pauseReady_taken (p : PortId) (ps : Pause) (s : State) : PauseTaken p ps s (pauseReady p ps s) := by
  refine ⟨fun h => ?_, fun ho hj => ?_⟩
  · rw [pauseReady, if_pos (by simpa using h), power_setPower]
  · have now : pauseReady p ps s = pauseAction p ps.target s := by
      rw [pauseReady, if_neg (by simp [ho, hj])]
    rw [now]
    refine ⟨fun ht => ?_, fun ht => ?_, fun ht hg => ?_, fun ht hg => ?_⟩ <;> rw [ht, pauseAction]
    · exact ⟨enterDoze_power p s, enterDoze_job p s⟩
    · exact ⟨enterDeep_power p s, enterDeep_reading p s, enterDeep_adv p s⟩
    · rw [enterKeepwarm_power, keepInterval_eq hg, State.keepBaseOf]
      cases s.stationOf p <;> rfl
    · rw [enterKeepwarm_power, hg]
      rfl

/-- How a pause is taken depends on the clock, the port's station, flag and grade, and the job in flight. -/
theorem PauseTaken.congr {s' u' : State} (h : PauseTaken p ps s u) (hk : s'.clock = s.clock)
    (hs : s'.stationOf p = s.stationOf p) (ho : (s'.port p).offload = (s.port p).offload)
    (hj : (s'.port p).pauseHeldByJob = (s.port p).pauseHeldByJob) (hg : (s'.port p).grade = (s.port p).grade)
    (hu : u'.port p = u.port p) (ha : u'.adv = u.adv) : PauseTaken p ps s' u' := by
  unfold PauseTaken at h ⊢
  simp only [State.pauseWaitOf, State.dozeTimer, hk, hs, ho, hj, hg, hu, ha] at h ⊢
  exact h

/-- A test of R38 leaves it taken. -/
theorem PauseTaken.testPoll (h : PauseTaken p ps s u) : PauseTaken p ps s (u.modPort p Port.testPoll) := by
  have hp : ((u.modPort p Port.testPoll).port p).power = (u.port p).power := by
    rw [port_modPort_self, field_of_body (body_testPoll _) Port.power]
  have hr : ((u.modPort p Port.testPoll).port p).reading = (u.port p).reading := by
    rw [port_modPort_self, field_of_body (body_testPoll _) Port.reading]
  have hj : ∀ j ∈ (u.port p).queue ++ (u.port p).waitLine,
      j ∈ ((u.modPort p Port.testPoll).port p).queue ++ ((u.modPort p Port.testPoll).port p).waitLine := by
    rw [port_modPort_self]
    exact (Port.Gains.refl _).testPoll.kept
  obtain ⟨held, taken⟩ := h
  refine ⟨fun g => hp ▸ held g, fun ho hi => ?_⟩
  obtain ⟨doze, deep, warm, hot⟩ := taken ho hi
  refine ⟨fun ht => ?_, fun ht => ?_, fun ht hg => hp ▸ warm ht hg, fun ht hg => hp ▸ hot ht hg⟩
  · obtain ⟨hd, j, hm, hk⟩ := doze ht
    exact ⟨hp ▸ hd, j, hj j hm, hk⟩
  · obtain ⟨hd, hz, ha⟩ := deep ht
    exact ⟨hp ▸ hd, hr ▸ hz, ha⟩

end Pause

/-! # Proofs: one port at a warm reset (R29, R52, R87, R128) -/

/-- What the reset of a port begins with: its unstarted reservation and its dropped jobs go. -/
def warmStart (p : PortId) (s : State) : State := (releaseUnstarted p s).modPort p Port.warmJobs

/-- What follows: the return of an ARMED camera, the rest timer, the event for PAUSING and the test of R38. -/
def warmEnd (p : PortId) (s : State) : State :=
  (pausingEvent p (restartRest p (if (s.port p).power.isArmed then enterReady p false s else s))).modPort p Port.testPoll

theorem warmPort_eq (p : PortId) (s : State) : warmPort p s = warmEnd p (warmStart p s) := rfl

section WarmEnd

variable {p : PortId} {s t : State} {ps : Pause}

theorem restartRest_other (h : (s.port p).power.isReady = false) : restartRest p s = s := by
  unfold restartRest
  split
  · simp_all [Power.isReady]
  · rfl

theorem pausingEvent_other (h : (s.port p).power.isPausing = false) : pausingEvent p s = s := by
  unfold pausingEvent
  split
  · simp_all [Power.isPausing]
  · rfl

theorem pausingEvent_offload (h : (s.port p).offload = true) : pausingEvent p s = s := by
  unfold pausingEvent
  split
  · rw [if_pos (by simp [h])]
  · rfl

/-- READY with no rest hold and, in a station, the rest timer started anew. -/
def State.restedAnew (s : State) (p : PortId) (rest : Option Nat) : Power :=
  .ready ((s.stationOf p).elim rest (fun f => some (addMs s.clock (f.linger * 1000)))) none

theorem restartRest_ready {rest hold : Option Nat} (h : (s.port p).power = .ready rest hold) :
    restartRest p s = s.modPort p ({ · with power := s.restedAnew p rest }) := by
  have hs : (s.modPort p ({ · with power := .ready rest none })).stationOf p = s.stationOf p :=
    stationOf_congr rfl (by rw [port_modPort_self])
  simp only [restartRest, h, startRest, port_modPort_self, hs, State.restedAnew]
  cases s.stationOf p with
  | none => rfl
  | some f => simp only [modPort_modPort, clock_modPort, Option.elim]

theorem power_testPoll (p : PortId) (s : State) : ((s.modPort p Port.testPoll).port p).power = (s.port p).power := by
  rw [port_modPort_self, field_of_body (body_testPoll _) Port.power]

/-- Cameras in the other states, and one that waits in PAUSING for an offload, have R38 tested. -/
theorem warmEnd_other (hr : (s.port p).power.isReady = false) (ha : (s.port p).power.isArmed = false)
    (hp : (s.port p).power.isPausing = false ∨ (s.port p).offload = true) :
    warmEnd p s = s.modPort p Port.testPoll := by
  rw [warmEnd, if_neg (by simp [ha]), restartRest_other hr]
  rcases hp with hp | hp
  · rw [pausingEvent_other hp]
  · rw [pausingEvent_offload hp]

theorem warmEnd_ready {rest hold : Option Nat} (h : (s.port p).power = .ready rest hold) :
    warmEnd p s = (s.modPort p ({ · with power := s.restedAnew p rest })).modPort p Port.testPoll := by
  rw [warmEnd, if_neg (by simp [h, Power.isArmed]), restartRest_ready h,
    pausingEvent_other (by simp [State.restedAnew, Power.isPausing])]

/-- A pause just taken, with no job holding it back, waits for the offload or has reached its target: neither the rest timer nor
the event for PAUSING finds it. -/
theorem pauseReady_rests (hj : (s.port p).pauseHeldByJob = false) :
    pausingEvent p (restartRest p (pauseReady p ps s)) = pauseReady p ps s := by
  cases ho : (s.port p).offload
  · have h := pauseAction_paused p ps.target s
    rw [pauseReady, if_neg (by simp [ho, hj])]
    generalize pauseAction p ps.target s = w at h ⊢
    rw [restartRest_other, pausingEvent_other] <;> cases hw : (w.port p).power <;>
      simp_all [Power.isReady, Power.isPausing, Power.paused?]
  · have h := setPower_field Port.offload p (.pausing ps (addMs s.clock (s.pauseWaitOf p * 1000))) s
    rw [pauseReady, if_pos (by simp [ho]), restartRest_other (by simp [Power.isReady]),
      pausingEvent_offload (h.trans ho)]

section Emptied

variable (hc : s.cues = []) (ho : (s.port p).order = none)
include hc ho

theorem warmEnd_tends : Tends p s (warmEnd p s) := by
  have g : Tends p s (if (s.port p).power.isArmed then enterReady p false s else s) := by
    split
    · exact (Tends.refl p s).enterReady hc ho false
    · exact .refl p s
  exact (g.restartRest.pausingEvent hc).testPoll

/-- An ARMED camera with no pending pause returns to READY, and in a station its rest timer starts. -/
theorem warmEnd_armed {full : Bool} (h : (s.port p).power = .armed none full) : ((warmEnd p s).port p).power =
    .ready ((s.stationOf p).map (fun f => addMs s.clock (f.linger * 1000))) none := by
  have keeps : Keeps true s (setPower p (.ready none none) s) := (Keeps.refl true s).setPower p _
  have hclock : (setPower p (.ready none none) s).clock = s.clock := congrArg Prod.fst keeps.still
  have hstation : (setPower p (.ready none none) s).stationOf p = s.stationOf p :=
    stationOf_congr (congrArg (·.2.1) keeps.still) (setPower_field Port.station p _ s)
  have back : enterReady p false s = setPower p (.ready none none) s := by
    simp [Tends.enterReady_eq hc ho, h, Power.pending?]
  rw [warmEnd, if_pos (by simp [h, Power.isArmed]), back, power_testPoll,
    restartRest_ready (power_setPower p _ s), pausingEvent_other (by simp [State.restedAnew, Power.isPausing]), port_modPort_self,
    State.restedAnew, hclock, hstation]
  cases s.stationOf p <;> rfl

/-- One with a pending pause has it taken, when no job holds it back. -/
theorem warmEnd_pending {full : Bool} (h : (s.port p).power = .armed (some ps) full)
    (hj : ∀ j ∈ (s.port p).jobs, j.holdsPause = false) : PauseTaken p ps s (warmEnd p s) := by
  have keeps : Keeps true s (setPower p (.ready none none) s) := (Keeps.refl true s).setPower p _
  have tends : Tends p s (setPower p (.ready none none) s) := (Tends.refl p s).setPower rfl
  have back : enterReady p false s = pauseReady p ps (setPower p (.ready none none) s) := by
    simp [Tends.enterReady_eq hc ho, h, Power.pending?]
  have free {c : Port} (hc : ∀ j ∈ c.jobs, j.holdsPause = false) : c.pauseHeldByJob = false := by
    simp only [Port.pauseHeldByJob, List.any_eq_false]
    intro j hm
    simp [hc j (List.mem_append_left _ hm)]
  have hj' : ∀ j ∈ ((setPower p (.ready none none) s).port p).jobs, j.holdsPause = false := fun j hm => by
    rcases tends.record.added j hm with hm | hd
    · exact hj j hm
    · exact Bool.eq_false_iff.2 fun g => by simp [holdsPause_dropped g] at hd
  rw [warmEnd, if_pos (by simp [h, Power.isArmed]), back, pauseReady_rests (free hj')]
  exact ((pauseReady_taken p ps _).congr (congrArg Prod.fst keeps.still).symm
    (stationOf_congr (congrArg (·.2.1) keeps.still) (setPower_field Port.station p _ s)).symm
    (setPower_field Port.offload p _ s).symm ((free hj).trans (free hj').symm)
    (setPower_field Port.grade p _ s).symm rfl rfl).testPoll

/-- No camera is left ARMED. -/
theorem warmEnd_unarmed : ((warmEnd p s).port p).power.isArmed = false := by
  cases ha : (s.port p).power.isArmed
  · exact (warmEnd_tends hc ho).record.unarmed ha
  · have g : Tends p (setPower p (.ready none none) s) (setPower p (.ready none none) s) := .refl p _
    have hc' : (setPower p (.ready none none) s).cues = [] := ((Tends.refl p s).setPower rfl).cues hc
    have h : Tends p (setPower p (.ready none none) s) (warmEnd p s) := by
      rw [warmEnd, if_pos ha, Tends.enterReady_eq hc ho]
      refine Tends.testPoll (Tends.pausingEvent hc' (Tends.restartRest ?_))
      split
      · exact g.pauseReady hc' _
      · exact g
    exact h.record.unarmed (by simp [Power.isArmed])

end Emptied

/-- While the camera is neither ARMED nor PAUSING, jobs only join its queue. -/
theorem warmEnd_queue (ha : (s.port p).power.isArmed = false) (hp : (s.port p).power.isPausing = false) :
    (s.port p).queue <+: ((warmEnd p s).port p).queue := by
  cases hr : (s.port p).power.isReady
  · rw [warmEnd_other hr ha (.inl hp), port_modPort_self]
    exact (Port.Gains.refl _).testPoll.queue
  · obtain ⟨rest, hold, h⟩ : ∃ rest hold, (s.port p).power = .ready rest hold := by
      cases hw : (s.port p).power <;> simp_all [Power.isReady]
    rw [warmEnd_ready h, port_modPort_self, port_modPort_self]
    exact Port.Gains.queue (Port.Gains.testPoll (.of_eq rfl rfl))

end WarmEnd

end Sys2Proof.Machine

namespace Sys2Proof.Machine

/-! # Proofs: the reset of a taken RESTART, and USB_REATTACH (O14) -/

section WarmStart

variable {p : PortId} {s t : State} {j : Job} {js : List Job}

/-- A record whose unstarted reservation has been released (R113). -/
def Port.released (c : Port) : Port :=
  if c.unstarted then { c with resv := none, commitment := if c.power.awakeState then c.commitment else none } else c

theorem port_releaseUnstarted (p : PortId) (s : State) : (releaseUnstarted p s).port p = (s.port p).released := by
  unfold releaseUnstarted releaseResv settleCommitment Port.released
  split
  · rw [port_modPort_self]
    cases (s.port p).power.awakeState <;> simp [port_modPort_self]
  · rfl

/-- A field that is neither the reservation nor the commitment is as it was. -/
theorem released_field {α : Type} (f : Port → α) (c : Port)
    (hf : ∀ (c : Port) r m, f { c with resv := r, commitment := m } = f c := by exact fun _ _ _ => rfl) :
    f c.released = f c := by
  unfold Port.released
  split
  · exact hf c _ _
  · rfl

/-- A record after the reset of the link and the tables: no report mark, no order, no held event. -/
def Port.emptied (c : Port) : Port := { c with camMark := false, order := none, held := none }

theorem port_emptyTables (p : PortId) (s : State) : (emptyTables (resetLink s)).port p = (s.port p).emptied := by
  simp [emptyTables, resetLink, State.port, Port.emptied]

/-- The reset of the tables and the release leave the jobs. -/
theorem queue_emptied_released (c : Port) : c.emptied.released.queue = c.queue := released_field Port.queue _

theorem jobs_emptied_released (c : Port) : c.emptied.released.jobs = c.jobs := released_field Port.jobs _

/-- From s, a warm reset has reached t with the first part of the rules of port p: the tables are empty, and the port's record is
without its unstarted reservation and its dropped jobs. -/
structure WarmStarted (p : PortId) (s t : State) : Prop where
  record : t.port p = (s.port p).emptied.released.warmJobs
  cues : t.cues = []
  adv : t.adv = []
  clock : t.clock = s.clock
  stations : t.stations = s.stations

namespace WarmStarted

variable (h : WarmStarted p s t)
include h

/-- What is neither a job, a table's mark, the reservation nor the commitment is as it was. -/
theorem field {α : Type} (f : Port → α) (hb : ∀ c : Port, f c.body = f c := by exact fun _ => rfl)
    (hr : ∀ (c : Port) r m, f { c with resv := r, commitment := m } = f c := by exact fun _ _ _ => rfl)
    (he : ∀ c : Port, f c.emptied = f c := by exact fun _ => rfl) : f (t.port p) = f (s.port p) := by
  rw [h.record, field_of_body (body_warmJobs _) f hb, released_field f _ hr, he]

theorem order : (t.port p).order = none := by
  rw [h.record, field_of_body (body_warmJobs _) Port.order, released_field Port.order]
  rfl

theorem tends : Tends p t (warmEnd p t) := warmEnd_tends h.cues h.order

theorem adv_end : (warmEnd p t).adv = [] := h.tends.adv h.adv

theorem stationOf : t.stationOf p = s.stationOf p := stationOf_congr h.stations (h.field Port.station)

/-! ## The reservation and the commitment (R128) -/

theorem resv : (t.port p).resv = if (s.port p).unstarted then none else (s.port p).resv := by
  rw [h.record, field_of_body (body_warmJobs _) Port.resv, Port.released]
  exact apply_ite Port.resv _ _ _

theorem commitment (hu : (s.port p).unstarted = true) (hp : (s.port p).power.awakeState = false) :
    (t.port p).commitment = none := by
  have hu' : (s.port p).emptied.unstarted = true := hu
  have hp' : (s.port p).emptied.power.awakeState = false := hp
  rw [h.record, field_of_body (body_warmJobs _) Port.commitment, Port.released, if_pos hu', hp']
  rfl

theorem resv_end : ((warmEnd p t).port p).resv = if (s.port p).unstarted then none else (s.port p).resv :=
  (congrArg (·.2.1) h.tends.record.fixed).trans h.resv

theorem lane_end : ((warmEnd p t).port p).lane = (s.port p).lane :=
  (congrArg (·.2.2.1) h.tends.record.fixed).trans (h.field Port.lane)

/-- A camera in none of the states that a warm reset moves. -/
theorem power_end (hr : (s.port p).power.isReady = false) (ha : (s.port p).power.isArmed = false)
    (hp : (s.port p).power.isPausing = false ∨ (s.port p).offload = true) :
    warmEnd p t = t.modPort p Port.testPoll := by
  have hw := h.field Port.power
  exact warmEnd_other (hw ▸ hr) (hw ▸ ha) (by rwa [hw, h.field Port.offload])

/-- The commitment of a paused camera goes with its unstarted reservation. -/
theorem commitment_end (hu : (s.port p).unstarted = true) (hp : (s.port p).power.paused?.isSome = true) :
    ((warmEnd p t).port p).commitment = none := by
  have hs : (s.port p).power.isReady = false ∧ (s.port p).power.isArmed = false ∧ (s.port p).power.isPausing = false ∧
      (s.port p).power.awakeState = false := by
    cases hw : (s.port p).power <;> simp_all [Power.paused?, Power.isReady, Power.isArmed, Power.isPausing,
      Power.awakeState]
  obtain ⟨hr, ha, hq, hk⟩ := hs
  rw [h.power_end hr ha (.inl hq), port_modPort_self, field_of_body (body_testPoll _) Port.commitment,
    h.commitment hu hk]

/-! ## The jobs (R52, R145) -/

/-- Only a job in flight is left of those that the reset drops, and no camera's return or pause adds one. -/
theorem dropped_end (hj : j ∈ ((warmEnd p t).port p).jobs) (hd : j.dropped = true) : j.started = true := by
  rcases h.tends.record.added j hj with hj | hj
  · rw [h.record] at hj
    exact (warmJobs_dropped hj hd).1
  · exact absurd hd (by simp [hj])

theorem kept_end (hj : j ∈ (s.port p).jobs) (hd : j.dropped = false) (hp : j.isPing = false) :
    j ∈ ((warmEnd p t).port p).jobs := by
  refine h.tends.record.kept j ?_ hp
  rw [h.record]
  exact warmJobs_kept (by rwa [jobs_emptied_released]) hd

theorem order_end (ha : (s.port p).power.isArmed = false) (hp : (s.port p).power.isPausing = false) :
    (s.port p).queue.filter (fun j => !j.dropped) <+: ((warmEnd p t).port p).queue.filter (fun j => !j.dropped) := by
  have hw := h.field Port.power
  have started := warmJobs_order (s.port p).emptied.released
  rw [queue_emptied_released, ← h.record] at started
  exact started.trans ((warmEnd_queue (hw ▸ ha) (hw ▸ hp)).filter _)

theorem host_end (hq : (s.port p).queue = j :: js) (hs : j.started = true) (hj : j.isHost = true) :
    ((warmEnd p t).port p).queue.head? = some j := by
  refine h.tends.record.head j ?_ (dropped_not_ping (host_dropped hj))
  rw [h.record]
  exact warmJobs_host ((queue_emptied_released _).trans hq) hs hj

theorem write_end (hq : (s.port p).queue = j :: js) (hs : j.started = true) (hj : j.isWriteRun = true)
    (hl : (s.port p).laneHasJob = true) :
    ((warmEnd p t).port p).queue.head? = some { j with cut := true, noEntry := true } := by
  refine h.tends.record.head _ ?_ (dropped_not_ping (writeRun_dropped hj))
  rw [h.record]
  exact warmJobs_write ((queue_emptied_released _).trans hq) hs hj ((released_field Port.laneHasJob _).trans hl)

/-! ## The camera (R29, R87) -/

theorem ready_end {rest hold : Option Nat} (hp : (s.port p).power = .ready rest hold) : ((warmEnd p t).port p).power =
    .ready ((s.stationOf p).elim rest (fun f => some (addMs s.clock (f.linger * 1000)))) none := by
  rw [warmEnd_ready ((h.field Port.power).trans hp), power_testPoll, port_modPort_self, State.restedAnew, h.stationOf,
    h.clock]

theorem armed_end {full : Bool} (hp : (s.port p).power = .armed none full) : ((warmEnd p t).port p).power =
    .ready ((s.stationOf p).map (fun f => addMs s.clock (f.linger * 1000))) none := by
  rw [warmEnd_armed h.cues h.order ((h.field Port.power).trans hp), h.stationOf, h.clock]

/-- The host, preparation and advance jobs that are left were in flight, so none holds the pause when none held it before. -/
theorem pending_end {ps : Pause} {full : Bool} (hp : (s.port p).power = .armed (some ps) full)
    (hj : (s.port p).pauseHeldByJob = false) : PauseTaken p ps s (warmEnd p t) := by
  have free : ∀ j ∈ (t.port p).jobs, j.holdsPause = false := fun j hm => by
    by_contra hh
    rw [Bool.not_eq_false] at hh
    rw [h.record] at hm
    obtain ⟨-, i, hi, hs, hk⟩ := warmJobs_dropped hm (holdsPause_dropped hh)
    rw [queue_emptied_released] at hi
    have hih : i.holdsPause = true := by
      simpa only [Job.holdsPause, Job.isHost, Job.isPrep, hk] using hh
    simp only [Port.pauseHeldByJob, List.any_eq_false, Bool.and_eq_true, not_and] at hj
    exact hj i hi hih hs
  have hj' : (t.port p).pauseHeldByJob = false := by
    simp only [Port.pauseHeldByJob, List.any_eq_false]
    intro j hm
    simp [free j (List.mem_append_left _ hm)]
  exact (warmEnd_pending h.cues h.order ((h.field Port.power).trans hp) free).congr h.clock.symm h.stationOf.symm
    (h.field Port.offload).symm (hj.trans hj'.symm) (h.field Port.grade).symm rfl rfl

/-- The camera of any other state stays in it, as one does that waits in PAUSING for an offload. -/
theorem other_end (hr : (s.port p).power.isReady = false) (ha : (s.port p).power.isArmed = false)
    (hp : (s.port p).power.isPausing = false ∨ (s.port p).offload = true) :
    ((warmEnd p t).port p).power = (s.port p).power := by
  rw [h.power_end hr ha hp, power_testPoll, h.field Port.power]

end WarmStarted

end WarmStart

/-! ## Every port in turn -/

section Ports

variable {s : State}

/-- An operation on each port in turn, of a list without repetition: each port's record is what its own operation makes of it. -/
theorem forEach_ports {P : State → Prop} (f : PortId → State → State) (only : ∀ p u, OnPort p u (f p u))
    (keep : ∀ p u, P u → u.port p = s.port p → P (f p u)) (ps : List PortId) (nodup : ps.Nodup) (u : State) (hu : P u)
    (same : ∀ p ∈ ps, u.port p = s.port p) :
    P (forEach ps f u) ∧ (∀ p, p ∉ ps → (forEach ps f u).port p = u.port p) ∧
      ∀ p ∈ ps, ∃ w, P w ∧ w.port p = s.port p ∧ (forEach ps f u).port p = (f p w).port p := by
  induction ps generalizing u with
  | nil => exact ⟨hu, fun _ _ => rfl, by simp⟩
  | cons q qs ih =>
    obtain ⟨hq, nodup⟩ := List.nodup_cons.1 nodup
    have hs := same q List.mem_cons_self
    have same' : ∀ p ∈ qs, (f q u).port p = s.port p := fun p hp =>
      ((only q u).others p (fun e => hq (e ▸ hp))).trans (same p (List.mem_cons_of_mem _ hp))
    obtain ⟨hP, hout, hin⟩ := ih nodup (f q u) (keep q u hu hs) same'
    refine ⟨hP, fun p hp => ?_, fun p hp => ?_⟩
    · obtain ⟨hne, hp⟩ := not_or.1 (fun g => hp (List.mem_cons.2 g))
      exact (hout p hp).trans ((only q u).others p hne)
    · rcases List.mem_cons.1 hp with rfl | hp
      · exact ⟨u, hu, hs, hout p hq⟩
      · exact hin p hp

theorem OnPort.restartRest {p : PortId} {s t : State} (h : OnPort p s t) : OnPort p s (restartRest p t) := by
  unfold Machine.restartRest
  split
  · exact (h.mod _).startRest
  · exact h

theorem OnPort.warmEnd {p : PortId} {s t : State} (h : OnPort p s t) : OnPort p s (warmEnd p t) := by
  have g : OnPort p s (if (t.port p).power.isArmed then Machine.enterReady p false t else t) := (h.enterReady false).ite h
  exact g.restartRest.pausingEvent.modPort _

theorem onPort_warmPort (p : PortId) (s : State) : OnPort p s (warmPort p s) :=
  (((OnPort.refl p s).releaseUnstarted).modPort _ fun c hc =>
    (field_of_body (body_warmJobs c) Port.camMark).trans hc).warmEnd

theorem spares_warmStart (p : PortId) (s : State) : Spares s (warmStart p s) :=
  ((Spares.refl s).releaseUnstarted p).modJobs p _ body_warmJobs

/-- The port rules of a warm reset from s have reached u. -/
structure WarmReached (s u : State) : Prop where
  keeps : Keeps true (emptyTables (resetLink s)) u
  spares : Spares (emptyTables (resetLink s)) u

theorem WarmReached.warmStarted {u : State} {p : PortId} (h : WarmReached s u)
    (hp : u.port p = (emptyTables (resetLink s)).port p) : WarmStarted p s (warmStart p u) where
  record := by rw [warmStart, port_modPort_self, port_releaseUnstarted, hp, port_emptyTables]
  cues := (h.spares.trans (spares_warmStart p u)).cues rfl
  adv := (h.spares.trans (spares_warmStart p u)).adv rfl
  clock := congrArg Prod.fst ((h.keeps.releaseUnstarted p).modPort p _ fun _ ok => warmJobs_ok ok).still
  stations := congrArg (·.2.1) ((h.keeps.releaseUnstarted p).modPort p _ fun _ ok => warmJobs_ok ok).still

theorem WarmReached.warmPort {u : State} {p : PortId} (h : WarmReached s u)
    (hp : u.port p = (emptyTables (resetLink s)).port p) : WarmReached s (warmPort p u) where
  keeps := h.keeps.warmPort p
  spares := (h.spares.trans (spares_warmStart p u)).trans
    ((h.warmStarted hp).tends.spares (OnPort.refl p _).warmEnd)

/-- The port rules of a warm reset, in the order of the ports. -/
def warmPorts (s : State) : State := forEach allPorts warmPort (emptyTables (resetLink s))

/-- They reach every port once. -/
theorem warmPorts_reached (s : State) : WarmReached s (warmPorts s) ∧
    ∀ p, ∃ t, WarmStarted p s t ∧ (warmPorts s).port p = (warmEnd p t).port p := by
  obtain ⟨h, -, hp⟩ := forEach_ports (P := WarmReached s) (s := emptyTables (resetLink s)) warmPort onPort_warmPort
    (fun p u hu he => hu.warmPort he) allPorts (by decide) _ ⟨.refl true _, .refl _⟩ fun _ _ => rfl
  refine ⟨h, fun p => ?_⟩
  obtain ⟨u, hu, hup, hw⟩ := hp p ((by decide : ∀ p, p ∈ allPorts) p)
  exact ⟨_, hu.warmStarted hup, hw⟩

theorem drainHeld_none (h : s.heldOut = []) : drainHeld s = s := by
  rw [drainHeld, h, drain, ← h]

/-- With no transfer held by the host, a warm reset ends as a step does. -/
theorem warmReset_eq (h : s.heldOut = []) : warmReset s = finish (warmPorts s) := by
  have still := (warmPorts_reached s).1.keeps.finish.still
  simp only [State.still, Prod.mk.injEq] at still
  obtain ⟨-, -, -, -, -, -, -, -, -, -, -, -, -, held, -⟩ := still
  show drainHeld (finish (warmPorts s)) = _
  exact drainHeld_none (held.trans h)

theorem exec_restartExpiry {r : Restart} (hr : s.restart = some r) (hd : reachedMs s.clock (addMs r.at_ 500) = true) :
    exec .restartExpiry s = .next (takeReset r s) := by
  show execRestartExpiry s = _
  simp [execRestartExpiry, State.restartDue, hr, Option.filter, hd]

theorem exec_restartExpiry_warm {r : Restart} (hr : s.restart = some r)
    (hd : reachedMs s.clock (addMs r.at_ 500) = true) (hf : r.full = false) (hh : s.heldOut = []) :
    exec .restartExpiry s = .next (finish (warmPorts s)) := by
  rw [exec_restartExpiry hr hd, takeReset, hf, if_neg Bool.false_ne_true, warmReset_eq hh]

theorem exec_usbReattach {t : Nat} (ht : s.reattachAt = some t) (hd : reachedMs s.clock t = true) :
    exec .usbReattach s = .next { s with attached := true, reattachAt := none } := by
  show execUsbReattach s = _
  simp [execUsbReattach, State.reattachDue, State.expired, ht, hd]

end Ports

/-- Settles O14: every port's record at a WARM reset is what `warmEnd` makes of a `WarmStarted` one. -/
theorem restartExpiryAndReattach : Obligations.RestartExpiryAndReattach := by
  unfold Obligations.RestartExpiryAndReattach
  refine ⟨fun s r hr hd => ⟨fun hf => ?full, fun hf hh => ⟨_, exec_restartExpiry_warm hr hd hf hh, ?emptied⟩⟩,
    fun s r hr hd hf hh => ⟨_, exec_restartExpiry_warm hr hd hf hh, fun p => ?port⟩,
    fun s t ht hd => exec_usbReattach ht hd⟩
  case full =>
    rw [exec_restartExpiry hr hd, takeReset, if_pos hf]
    rfl
  case emptied =>
    obtain ⟨⟨keeps, spares⟩, ports⟩ := warmPorts_reached s
    have hk := keeps.finish
    have hs := spares.finish rfl rfl
    have still := hk.still
    have outside := hs.outside
    simp only [State.still, State.outside, Prod.mk.injEq] at still outside
    obtain ⟨clock, stations, steady, inrush, aging, walk, -, -, syncEnd, traps, lastReport, -, restart, -, attached, -⟩ :=
      still
    obtain ⟨settles, settleReady, eventsMark, inXfer, owner, lock, waiting, events⟩ := outside
    refine ⟨List.length_eq_zero_iff.1 hk.line, settles, settleReady, eventsMark, lastReport, inXfer, restart, attached, clock,
      hs.cues rfl, owner, lock, waiting, syncEnd, hs.adv rfl, events, hk.same rfl, aging, walk, stations, steady, inrush,
      traps, fun p => ?_⟩
    have settings := hs.settings p
    rw [port_emptyTables] at settings
    simp only [Port.settings, Prod.mk.injEq] at settings
    obtain ⟨station, limit, enabled, pause, conflict, profile, held⟩ := settings
    refine ⟨station, limit, enabled, pause, conflict, profile, held, ?_⟩
    obtain ⟨t, ht, hp⟩ := ports p
    have unarmed : ((warmPorts s).port p).power.isArmed = false := by
      rw [hp]
      exact warmEnd_unarmed ht.cues ht.order
    exact ((Spares.refl _).finish (spares.cues rfl) spares.settles).unarmed p unarmed
  case port =>
    obtain ⟨⟨-, spares⟩, ports⟩ := warmPorts_reached s
    obtain ⟨t, ht, hp⟩ := ports p
    have adv : (warmPorts s).adv = [] := spares.adv rfl
    have plain {j : Job} : (!j.isHost && !j.isPrep && !j.isAhead) = !j.dropped := by
      simp only [Job.dropped, Bool.not_or]
    simp only [plain, hp]
    refine ⟨fun hu => ⟨?_, ht.commitment_end hu⟩, fun hu => ?_, ht.lane_end, fun j hj hd => ?_, fun j hj h1 h2 h3 => ?_,
      ht.order_end, fun j js hq hs => ⟨ht.host_end hq hs, fun hw => ht.write_end hq hs (by simpa [Job.isWriteRun] using hw)⟩,
      fun _ _ => ht.ready_end, fun _ => ht.armed_end, fun ps full hw hj => ?_, fun ps w hw ho => ?_,
      fun hr ha hq => ht.other_end hr ha (.inl hq)⟩
    · rw [ht.resv_end, if_pos hu]
    · rw [ht.resv_end, if_neg (by simp [hu])]
    · exact ht.dropped_end hj (by simpa [Job.dropped, or_assoc] using hd)
    · exact ht.kept_end hj (by simp [Job.dropped, h1, h2, h3])
    · exact (ht.pending_end hw hj).congr rfl rfl rfl rfl rfl hp (adv.trans ht.adv_end.symm)
    · rw [ht.other_end (by simp [hw, Power.isReady]) (by simp [hw, Power.isArmed]) (.inr ho), hw]

end Sys2Proof.Machine

namespace Sys2Proof.Machine

/-! # Proofs: DESCRIBE and CLOCK (O12) -/

section DescribeClock

variable {k : ReqKind} {r : Request} {s : State}

/-- A station is defined exactly when some port's record names it. -/
theorem membersOf_nonempty (s : State) (st : StationId) :
    (!(s.membersOf st).isEmpty) = allPorts.any (fun p => (s.port p).station == some st) := by
  rw [Bool.eq_iff_iff, Bool.not_eq_true', List.isEmpty_eq_false_iff, State.membersOf, ne_eq, List.filter_eq_nil_iff,
    List.any_eq_true]
  push Not
  rfl

theorem definedStations_eq (s : State) :
    s.definedStations = (allStations.filter (fun st => allPorts.any (fun p => (s.port p).station == some st))).length := by
  simp only [State.definedStations, membersOf_nonempty]

/-- The revision is the free value of log 8, one byte that is not 0 (R185). -/
theorem revision_range : 1 ≤ Config.revision ∧ Config.revision ≤ 255 :=
  ⟨Nat.succ_pos _, Config.revisionLessOne.isLt⟩

/-- An open link answers a request that is not framed BAD_LENGTH, and nothing else changes (R179). -/
theorem exec_unframed (ho : Open s) (hf : ¬ Framed k r) :
    exec (ofRequest k r) s = .next (s.replied (replyKind k) r.tag [0x02#8]) := by
  rw [exec_ofRequest, takeOut_open ho]
  exact congrArg _ (takeRequest_unframed hf s)

/-- DESCRIBE and CLOCK have an empty body (R185). -/
theorem not_framed_of_body (hk : k = .describe ∨ k = .clock) (hb : r.body ≠ []) : ¬ Framed k r := by
  rintro ⟨-, -, hl⟩
  obtain rfl | rfl := hk <;> exact hb (List.length_eq_zero_iff.1 (beq_iff_eq.1 hl))

end DescribeClock

/-- Settles O12: a taken request is its owner's reply, field by field, and one with a body is not framed. -/
theorem describeAndClock : Obligations.DescribeAndClock := by
  unfold Obligations.DescribeAndClock
  refine fun r s => ⟨fun h => ?describe, revision_range, fun h => ?clock, fun ho _ _ hb => ⟨?badDescribe, ?badClock⟩⟩
  case describe =>
    rw [← definedStations_eq]
    exact exec_taken h
  case clock => exact exec_taken h
  case badDescribe => exact exec_unframed ho (not_framed_of_body (.inl rfl) hb)
  case badClock => exact exec_unframed ho (not_framed_of_body (.inr rfl) hb)

end Sys2Proof.Machine

namespace Sys2Proof.Machine

/-! # Proofs: the check byte of a lane frame (O17) -/

section CheckByte

variable {e : Exchange} {status data check : Byte}

theorem crc8_nil : crc8 [] = 0x00#8 := rfl

/-- The register is shifted once per covered bit, in transmission order (R193). -/
theorem crc8_concat (bits : List Bool) (b : Bool) : crc8 (bits ++ [b]) = crcStep (crc8 bits) b :=
  List.foldl_concat ..

/-- The bit shifted out of the register is its bit 7 (R193). -/
theorem crcStep_eq (reg : Byte) (b : Bool) :
    crcStep reg b = if reg.getLsbD 7 != b then (reg <<< 1) ^^^ 0x07#8 else reg <<< 1 := by
  rw [crcStep, BitVec.msb_eq_getLsbD_last]

/-- The register goes on from one field of a request to the next: operation, attribute, data (R193). -/
theorem requestCheck_eq_fields (op : LaneOp) (a : Nat) (d : Byte) : requestCheck op a d =
    (bitsMsb 8 d.toNat).foldl crcStep ((bitsMsb 6 a).foldl crcStep (crc8 (bitsMsb 3 op.code))) := by
  rw [requestCheck, requestBits, crc8, List.foldl_append, List.foldl_append, crc8]

/-- The example of R193, by the register after each of its fields. -/
theorem requestCheck_read_status : requestCheck .read 0 0x00#8 = 0x5B#8 := by
  have afterOp : crc8 (bitsMsb 3 LaneOp.read.code) = 0x07#8 := by decide
  have afterAttr : (bitsMsb 6 0).foldl crcStep 0x07#8 = 0xC7#8 := by decide
  have afterData : (bitsMsb 8 (0x00#8).toNat).foldl crcStep 0xC7#8 = 0x5B#8 := by decide
  rw [requestCheck_eq_fields, afterOp, afterAttr, afterData]

/-- A wrong check byte fails the attempt, whatever the status and data bytes hold (R193, R30). -/
theorem attemptSucceeds_of_check_ne (h : check ≠ responseCheck status data) :
    attemptSucceeds e status data check = false := by
  have hc : (check == responseCheck status data) = false := beq_eq_false_iff_ne.2 h
  rw [attemptSucceeds, hc, Bool.false_and, Bool.false_and]

end CheckByte

/-- Settles O17: the covered fields hold by definition, and each other clause is a lemma of its own. -/
theorem checkByte : Obligations.CheckByte := by
  unfold Obligations.CheckByte
  refine ⟨fun bits b => ⟨crc8_nil, ?shift⟩, fun _ _ _ => ⟨rfl, rfl⟩, fun _ _ => rfl, ?covered,
    requestCheck_read_status, fun _ _ _ _ => attemptSucceeds_of_check_ne⟩
  case shift => rw [crc8_concat, crcStep_eq]
  case covered => rfl

end Sys2Proof.Machine

namespace Sys2Proof.Machine

/-! ## What one command keeps -/

section Sound

variable {b : Bool} {s t u : State}

/-- A command that leads from s to t keeps the invariant and the budgets. -/
structure Sound (s t : State) : Prop where
  inv : Inv s → Inv t
  budgets : WithinBudgets s → WithinBudgets t

namespace Sound

theorem refl (s : State) : Sound s s := ⟨id, id⟩

theorem trans (h : Sound s t) (g : Sound t u) : Sound s u := ⟨g.inv ∘ h.inv, g.budgets ∘ h.budgets⟩

theorem of_keeps (h : Keeps b s t) : Sound s t := ⟨inv_keeps h, h.budgets⟩

/-- The fields that the invariant and the budgets speak of are as they were. -/
theorem of_eq (hk : t.clock = s.clock) (hp : t.ports = s.ports) (hb : (t.steady, t.inrush) = (s.steady, s.inrush))
    (hl : (t.cues, t.adv, t.events, t.reports, t.line) = (s.cues, s.adv, s.events, s.reports, s.line))
    (hu : (t.owner, t.lock, t.table) = (s.owner, s.lock, s.table)) : Sound s t := by
  simp only [Prod.mk.injEq] at hb hl hu
  obtain ⟨hs, hi⟩ := hb
  obtain ⟨hc, ha, he, hr, hn⟩ := hl
  obtain ⟨ho, hk', ht⟩ := hu
  exact ⟨fun i => inv_of_eq i ⟨hk, hp, hc, ha, he, hr, hn, ho, hk', ht⟩,
    fun w => within_of_eq w hk hs hi fun p => by simp [State.port, hp]⟩

/-- The queue of commands and the counter of free values count for neither. -/
theorem queued (l : List Instr) (n : Nat) (s : State) : Sound s { s with pending := l, freeCount := n } :=
  of_eq rfl rfl rfl rfl rfl

theorem walking (w : Option Walk) (s : State) : Sound s { s with walk := w } := of_eq rfl rfl rfl rfl rfl

theorem ite {c : Prop} [Decidable c] (h : Sound s t) : Sound s (if c then t else s) := by
  split
  · exact h
  · exact refl s

/-- A taken, held or lost transfer: a request adds at most one entry to a reply line that has room. -/
theorem takeOut (x : OutXfer) (s : State) : Sound s (takeOut x s) := by
  unfold Machine.takeOut
  split
  · exact refl s
  · split
    · rename_i h
      simp only [Bool.and_eq_true] at h
      exact ⟨fun i => inv_dispatch x i h.1, (Serves.dispatch x s).budgets⟩
    · exact of_eq rfl rfl rfl rfl rfl

theorem takeReset (r : Restart) (s : State) : Sound s (takeReset r s) := ⟨inv_takeReset r, within_takeReset r⟩

theorem completeIn (x : InXfer) (s : State) : Sound s (completeIn x s) := ⟨inv_completeIn x, within_completeIn x⟩

/-- The owner of the unit changes in its marks alone. -/
theorem setOwner {o o' : Owner} (ho : s.owner = some o) : Sound s { s with owner := some o' } :=
  of_keeps ((Keeps.refl true s).setOwner o' (by simp [ho]))

end Sound

/-- A command leads from s to a next state, and keeps the invariant and the budgets. -/
def SoundNext (s : State) (r : Result) : Prop := ∃ t, r = .next t ∧ Sound s t

namespace SoundNext

theorem next (h : Sound s t) : SoundNext s (.next t) := ⟨t, rfl, h⟩

theorem stay : SoundNext s (.next s) := next (.refl s)

/-- A timed command whose effect is an operation of the ports, the lanes or the cues. -/
theorem due {c : Prop} [Decidable c] (h : Keeps b s t) : SoundNext s (.next (if c then t else s)) :=
  next (Sound.ite (.of_keeps h))

end SoundNext

/-! ### The host link -/

theorem soundNext_request (k : ReqKind) (r : Request) (s : State) : SoundNext s (exec (ofRequest k r) s) := by
  rw [exec_ofRequest]
  exact .next (.takeOut _ s)

theorem soundNext_inTransfer (s : State) : SoundNext s (execInTransfer s) := by
  unfold execInTransfer
  split
  · exact .next (.of_eq rfl rfl rfl rfl rfl)
  · exact .stay

theorem soundNext_inTransferComplete (s : State) : SoundNext s (execInTransferComplete s) := by
  unfold execInTransferComplete
  split
  · exact .next (.completeIn _ s)
  · exact .stay

theorem soundNext_inTransferAbandoned (s : State) : SoundNext s (execInTransferAbandoned s) := by
  unfold execInTransferAbandoned
  split
  · exact .next (.of_eq rfl rfl rfl rfl rfl)
  · exact .stay

theorem soundNext_restartExpiry (s : State) : SoundNext s (execRestartExpiry s) := by
  unfold execRestartExpiry
  split
  · exact .next (.takeReset _ s)
  · exact .stay

theorem soundNext_usbReattach (s : State) : SoundNext s (execUsbReattach s) := by
  unfold execUsbReattach
  split
  · exact .next (.of_eq rfl rfl rfl rfl rfl)
  · exact .stay

/-! ### The ports -/

theorem soundNext_presenceFall (p : PortId) (s : State) : SoundNext s (execPresenceFall p s) := by
  have g := (Keeps.refl true s).mod p ({ · with presence := false })
  unfold execPresenceFall
  dsimp only
  split
  · exact .next (.of_keeps (g.presenceFall p).finish)
  · exact .next (.of_keeps g)

theorem soundNext_railSense (p : PortId) (n : Nat) (s : State) : SoundNext s (execRailSense p n s) :=
  .next (Sound.ite ⟨inv_railSensed p n, within_railSensed p n⟩)

theorem soundNext_laneResponse (p : PortId) (status data check : Byte) (a : Bool) (s : State) :
    SoundNext s (execLaneResponse p status data check a s) := by
  unfold execLaneResponse
  split
  · split
    · exact .next (.of_keeps (((Keeps.refl true s).mod p _).judgeResponse p _ _ _ _).finish)
    · exact .stay
  · exact .stay

theorem soundNext_responseLimitExpiry (p : PortId) (a : Bool) (s : State) :
    SoundNext s (execResponseLimitExpiry p a s) := by
  unfold execResponseLimitExpiry
  split
  · split
    · exact .next (.of_keeps (((Keeps.refl true s).mod p _).attemptFailed p _).finish)
    · exact .stay
  · exact .stay

theorem soundNext_reservationStart (p : PortId) (s : State) : SoundNext s (execReservationStart p s) := by
  unfold execReservationStart
  split
  · exact .due ((Keeps.refl true s).startReservation p _ ‹_›).finish
  · exact .stay

theorem soundNext_rampEnd (p : PortId) (s : State) : SoundNext s (execRampEnd p s) := by
  unfold execRampEnd
  split
  · exact .due ((Keeps.refl true s).setPhase p _ _).finish
  · exact .stay

theorem soundNext_resetHoldEnd (p : PortId) (s : State) : SoundNext s (execResetHoldEnd p s) := by
  unfold execResetHoldEnd
  split
  · exact .due ((Keeps.refl true s).releaseReset p _ _).finish
  · exact .stay

theorem soundNext_initWaitRead (p : PortId) (s : State) : SoundNext s (execInitWaitRead p s) := by
  unfold execInitWaitRead
  split
  · exact .due ((Keeps.refl true s).setPhase p _ _).finish
  · exact .stay

theorem soundNext_resumeRead (p : PortId) (s : State) : SoundNext s (execResumeRead p s) := by
  unfold execResumeRead
  split
  · exact .due ((Keeps.refl true s).setPhase p _ _).finish
  · exact .stay

theorem soundNext_keepwarmTimerExpiry (p : PortId) (s : State) : SoundNext s (execKeepwarmTimerExpiry p s) := by
  have g := (Keeps.refl true s).modPort p (fun c => ({ c with power := .keepwarm none } : Port).owePing)
    (fun _ ok => owePing_ok (ok.of_eq rfl rfl)) (fun _ => figures_owePing _)
  exact .due g.finish

theorem soundNext_attentionRise (p : PortId) (s : State) : SoundNext s (execAttentionRise p s) := by
  have g := (Keeps.refl true s).modPort p (fun c => ({ c with attention := true } : Port).testPoll)
    (fun _ ok => testPoll_ok (ok.of_eq rfl rfl)) (fun _ => figures_testPoll _)
  exact .next (.of_keeps g.finish)

theorem soundNext_presenceRise (p : PortId) (a : Bool) (s : State) : SoundNext s (execPresenceRise p a s) := by
  have g := (Keeps.refl true s).mod p ({ · with presence := true, attention := a })
  exact .next (.of_keeps (g.presenceRise p).finish)

theorem soundNext_restTimerExpiry (p : PortId) (s : State) : SoundNext s (execRestTimerExpiry p s) := by
  unfold execRestTimerExpiry
  split
  · exact .due ((Keeps.refl true s).restDecision p _).finish
  · exact .stay

/-! ### The fire unit and the tables -/

theorem soundNext_fullPress (s : State) : SoundNext s (execFullPress s) := by
  unfold execFullPress
  split
  · rename_i o h
    obtain ⟨ho, _⟩ := Option.filter_eq_some_iff.1 h
    exact .next (.of_keeps (((Keeps.refl true s).setOwner _ (by simp [ho])).forEach _ _ fun p _ g => g.pressPort p))
  · exact .stay

theorem soundNext_syncPulse (s : State) : SoundNext s (execSyncPulse s) := by
  unfold execSyncPulse
  split
  · rename_i o h
    obtain ⟨ho, _⟩ := Option.filter_eq_some_iff.1 h
    exact .next ((Sound.setOwner ho).trans (.of_eq rfl rfl rfl rfl rfl))
  · exact .stay

theorem soundNext_release (s : State) : SoundNext s (execRelease s) := by
  unfold execRelease
  split
  · rename_i o h
    obtain ⟨ho, _⟩ := Option.filter_eq_some_iff.1 h
    exact .next (.of_keeps ((Keeps.refl true s).releaseSequence o (by simp [ho])).finish)
  · exact .stay

theorem soundNext_freeing (s : State) : SoundNext s (execFreeing s) := by
  unfold execFreeing
  split
  · exact .next (.of_keeps ((Keeps.refl true s).freeUnit _).finish)
  · exact .stay

theorem soundNext_settleTimeout (st : StationId) (s : State) : SoundNext s (execSettleTimeout st s) := by
  unfold execSettleTimeout
  split
  · exact .next (.of_keeps ((Keeps.refl true s).endSettle st _ _))
  · exact .stay

theorem soundNext_clearWalkVisit (s : State) : SoundNext s (execClearWalkVisit s) := by
  unfold execClearWalkVisit
  split
  · split
    · exact .next ((Sound.walking _ s).trans (.of_keeps ((Keeps.refl true _).visitPosition _).finish))
    · exact .stay
  · exact .stay

/-- Every command leads to a next state, and keeps the invariant and the budgets. -/
theorem soundNext_exec (c : Instr) (s : State) : SoundNext s (exec c s) := by
  have k := Keeps.refl true s
  cases c with
  | describe r => exact soundNext_request .describe r s
  | clock r => exact soundNext_request .clock r s
  | restart r => exact soundNext_request .restart r s
  | stationSet r => exact soundNext_request .stationSet r s
  | stationGet r => exact soundNext_request .stationGet r s
  | budgetSet r => exact soundNext_request .budgetSet r s
  | portSet r => exact soundNext_request .portSet r s
  | cameraGet r => exact soundNext_request .cameraGet r s
  | clearFault r => exact soundNext_request .clearFault r s
  | wake r => exact soundNext_request .wake r s
  | pause r => exact soundNext_request .pause r s
  | attrGet r => exact soundNext_request .attrGet r s
  | attrSet r => exact soundNext_request .attrSet r s
  | cuePost r => exact soundNext_request .cuePost r s
  | cueCancel r => exact soundNext_request .cueCancel r s
  | cueList r => exact soundNext_request .cueList r s
  | settle r => exact soundNext_request .settle r s
  | aheadWake r => exact soundNext_request .aheadWake r s
  | aheadDrop r => exact soundNext_request .aheadDrop r s
  | fireUnlock r => exact soundNext_request .fireUnlock r s
  | idList r => exact soundNext_request .idList r s
  | idPin r => exact soundNext_request .idPin r s
  | idUnpin r => exact soundNext_request .idUnpin r s
  | idClear r => exact soundNext_request .idClear r s
  | idAging r => exact soundNext_request .idAging r s
  | trapSet r => exact soundNext_request .trapSet r s
  | trapGet r => exact soundNext_request .trapGet r s
  | eventsFetch r => exact soundNext_request .eventsFetch r s
  | unknownKind bytes =>
    show SoundNext s (execUnknownKind bytes s)
    exact .next (.takeOut _ s)
  | inTransfer => exact soundNext_inTransfer s
  | inTransferComplete => exact soundNext_inTransferComplete s
  | inTransferAbandoned => exact soundNext_inTransferAbandoned s
  | restartExpiry => exact soundNext_restartExpiry s
  | masterReset =>
    show SoundNext s (execMasterReset s)
    exact .next ⟨fun _ => inv_masterReset s, fun _ => within_masterReset s⟩
  | usbReattach => exact soundNext_usbReattach s
  | presenceRise p a => exact soundNext_presenceRise p a s
  | presenceFall p => exact soundNext_presenceFall p s
  | attentionRise p => exact soundNext_attentionRise p s
  | railOvercurrent p =>
    show SoundNext s (execRailOvercurrent p s)
    exact .due (k.enterFault p _).finish
  | laneResponse p status data check a => exact soundNext_laneResponse p status data check a s
  | responseLimitExpiry p a => exact soundNext_responseLimitExpiry p a s
  | reservationStart p => exact soundNext_reservationStart p s
  | reservationWindowEnd p =>
    show SoundNext s (execReservationWindowEnd p s)
    exact .due (k.releaseResv p).finish
  | rampEnd p => exact soundNext_rampEnd p s
  | resetHoldEnd p => exact soundNext_resetHoldEnd p s
  | initWaitRead p => exact soundNext_initWaitRead p s
  | initMaxExpiry p =>
    show SoundNext s (execInitMaxExpiry p s)
    exact .due (k.beginCalibrate p).finish
  | calibrateWaitEnd p =>
    show SoundNext s (execCalibrateWaitEnd p s)
    exact .due (k.beginRestore p).finish
  | resumeRead p => exact soundNext_resumeRead p s
  | keepwarmTimerExpiry p => exact soundNext_keepwarmTimerExpiry p s
  | dozeLimitExpiry p =>
    show SoundNext s (execDozeLimitExpiry p s)
    exact .due (k.takePause p _).finish
  | pauseWaitExpiry p =>
    show SoundNext s (execPauseWaitExpiry p s)
    exact .due ((k.enterReady p _).addAbandoned p).finish
  | restTimerExpiry p => exact soundNext_restTimerExpiry p s
  | horizonEntry cue =>
    show SoundNext s (execHorizonEntry cue s)
    exact .due (k.planAndEnter cue).finish
  | preparationStart cue =>
    show SoundNext s (execPreparationStart cue s)
    exact .due (k.startPreparation cue).finish
  | fireRequestTime cue =>
    show SoundNext s (execFireRequestTime cue s)
    exact .due (k.closePreparation cue).finish
  | slackExpiry cue =>
    show SoundNext s (execSlackExpiry cue s)
    exact .due (k.missCue cue).finish
  | fullPress => exact soundNext_fullPress s
  | syncPulse => exact soundNext_syncPulse s
  | syncPulseEnd =>
    show SoundNext s (execSyncPulseEnd s)
    exact .next (Sound.ite (.of_eq rfl rfl rfl rfl rfl))
  | release => exact soundNext_release s
  | freeing => exact soundNext_freeing s
  | confirmTimeout cue =>
    show SoundNext s (execConfirmTimeout cue s)
    exact .due (k.confirmExpired cue)
  | lockExpiry =>
    show SoundNext s (execLockExpiry s)
    exact .due k.noLock.grantRule.finish
  | settleTimeout st => exact soundNext_settleTimeout st s
  | idAgingExpiry i =>
    show SoundNext s (execIdAgingExpiry i s)
    exact .due (k.removeEntry i)
  | clearWalkVisit => exact soundNext_clearWalkVisit s
  | clearWalkEnd =>
    show SoundNext s (execClearWalkEnd s)
    exact .next (Sound.ite (.of_eq rfl rfl rfl rfl rfl))
  | advanceEntryExpiry p a =>
    show SoundNext s (execAdvanceEntryExpiry p a s)
    exact .due (k.dropEntry p a)
  | orderExpiry p =>
    show SoundNext s (execOrderExpiry p s)
    exact .due (k.dropOrder p)
  | railSense p n => exact soundNext_railSense p n s

end Sound

/-! ## The idle step -/

section Idle

variable {s : State}

/-- With no command due, neither the start nor the end of a reservation's window is due (R111). -/
theorem not_due_of_empty (h : s.dueEvents = []) (p : PortId) : s.startDue p = false ∧ s.windowDue p = false := by
  simp only [State.dueEvents, List.append_eq_nil_iff, List.flatMap_eq_nil_iff] at h
  obtain ⟨⟨⟨hp, _⟩, _⟩, _⟩ := h
  have hp := hp p (mem_allPorts p)
  simp only [State.portDue, dueIf, List.append_eq_nil_iff] at hp
  have no : ∀ {d : Bool} {c : Instr}, (if d then [c] else []) = [] → d = false := by intro d c; cases d <;> simp
  obtain ⟨⟨⟨⟨⟨⟨⟨⟨⟨⟨⟨⟨⟨_, hs⟩, hw⟩, _⟩, _⟩, _⟩, _⟩, _⟩, _⟩, _⟩, _⟩, _⟩, _⟩, _⟩ := hp
  exact ⟨no hs, no hw⟩

theorem inv_idle (i : Inv s) : Inv (idle s) := by
  unfold idle
  split
  · exact ⟨Nat.mod_lt _ (by decide), i.2.1, i.2.2.1, i.2.2.2⟩
  · exact (Sound.queued _ _ s).inv i
  · exact (Sound.queued _ _ s).inv i

theorem within_idleStep (range : ClockInRange s) (w : WithinBudgets s) : WithinBudgets (idle s) := by
  unfold idle
  split
  · exact within_tick w range (not_due_of_empty ‹_›)
  · exact (Sound.queued _ _ s).budgets w
  · exact (Sound.queued _ _ s).budgets w

/-- A step is the idle step, or keeps what every command keeps. -/
theorem step_cases {t : State} (h : step s = .next t) : t = idle s ∨ Sound s t := by
  unfold step at h
  split at h
  · rename_i c rest hp
    obtain ⟨u, hu, sound⟩ := soundNext_exec c { s with pending := rest }
    rw [hu, Host.Outcome.next.injEq] at h
    exact .inr (h ▸ (Sound.queued rest s.freeCount s).trans sound)
  · rw [Host.Outcome.next.injEq] at h
    exact .inl h.symm

end Idle

/-- Settles O8: a command keeps the invariant as `Sound` says, and the idle step changes the clock or the queue of
commands. -/
theorem invKeptByStep : Obligations.InvKeptByStep := by
  intro s t i h
  rcases step_cases h with e | sound
  · exact e ▸ inv_idle i
  · exact sound.inv i

/-- Settles O60: a command keeps the budgets as `Sound` says; a millisecond passes only when no window's start or end is
due. -/
theorem budgetsKept : Obligations.BudgetsKept := by
  intro s t range w h
  rcases step_cases h with e | sound
  · exact e ▸ within_idleStep range w
  · exact sound.budgets w

/-! ## The machine, its queue and its reset -/

/-- Settles O4: each command leads to a next state, and the bytes that name a request are taken as its transfer. -/
theorem everyCommandRuns : Obligations.EveryCommandRuns := by
  refine ⟨fun c s => ?_, fun k kind tag lo hi body s hk => ?_⟩
  · obtain ⟨t, ht, _⟩ := soundNext_exec c s
    exact ⟨t, ht⟩
  · rw [exec_ofRequest]
    show execUnknownKind _ s = _
    simp only [execUnknownKind, transferOf, hk]

/-- Settles O1: it is the definition of a step. -/
theorem stepRunsFrontCommand : Obligations.StepRunsFrontCommand := fun _ _ _ => rfl

end Sys2Proof.Machine

namespace Sys2Proof.Machine

/-! ## Which commands are due -/

section Due

variable {s : State} {p : PortId} {i : Nat} {c : Instr}

/-- A command whose condition does not hold leaves the state. -/
theorem next_of_not_due {d : Bool} {t : State} (h : d = false) : (.next (if d then t else s) : Result) = .next s := by
  simp [h]

theorem mem_dueIf {d : Bool} {x : Instr} : c ∈ dueIf d x ↔ d = true ∧ c = x := by
  cases d <;> simp [dueIf]

theorem expired_iff {o : Option Nat} : s.expired o = true ↔ ∃ t, o = some t ∧ reachedMs s.clock t = true := by
  cases o <;> simp [State.expired]

/-! ### The conditions of a port -/

theorem phase_eq_some {ph : Phase} : s.phase p = some ph ↔ ∃ w, (s.port p).power = .waking w ∧ w.phase = ph := by
  unfold State.phase Power.phase?
  cases (s.port p).power <;> simp

theorem limitDue_iff : s.limitDue p = true ↔ ∃ e, (s.port p).lane = some e ∧ 3 ≤ diffMs s.clock e.started := by
  unfold State.limitDue State.attemptAge
  cases (s.port p).lane <;> simp

theorem startDue_iff :
    s.startDue p = true ↔ ∃ r, (s.port p).resv = some r ∧ r.started = false ∧ s.slotReached r.start = true := by
  unfold State.startDue
  cases (s.port p).resv <;> simp

theorem windowDue_iff : s.windowDue p = true ↔
    ∃ r, (s.port p).resv = some r ∧ r.started = true ∧ s.slotReached (addSlot r.start r.length) = true := by
  unfold State.windowDue
  cases (s.port p).resv <;> simp

theorem rampDue_iff : s.rampDue p = true ↔
    ∃ w e, (s.port p).power = .waking w ∧ w.phase = .ramp e ∧ s.slotReached e = true := by
  have : s.rampDue p = true ↔ ∃ e, s.phase p = some (.ramp e) ∧ s.slotReached e = true := by
    unfold State.rampDue
    split <;> simp_all
  simp only [this, phase_eq_some]
  grind

theorem resetHoldDue_iff : s.resetHoldDue p = true ↔
    ∃ w e v, (s.port p).power = .waking w ∧ w.phase = .resetHold e false v ∧ s.slotReached e = true := by
  have : s.resetHoldDue p = true ↔ ∃ e v, s.phase p = some (.resetHold e false v) ∧ s.slotReached e = true := by
    unfold State.resetHoldDue
    split <;> simp_all
  simp only [this, phase_eq_some]
  grind

theorem initReadDue_iff : s.initReadDue p = true ↔
    ∃ w r m, (s.port p).power = .waking w ∧ w.phase = .initWait r m ∧ s.slotReached r = true := by
  have : s.initReadDue p = true ↔ ∃ r m, s.phase p = some (.initWait r m) ∧ s.slotReached r = true := by
    unfold State.initReadDue
    split <;> simp_all
  simp only [this, phase_eq_some]
  grind

theorem initMaxDue_iff : s.initMaxDue p = true ↔
    ∃ w r m, (s.port p).power = .waking w ∧ w.phase = .initWait r m ∧ s.slotReached m = true := by
  have : s.initMaxDue p = true ↔ ∃ r m, s.phase p = some (.initWait r m) ∧ s.slotReached m = true := by
    unfold State.initMaxDue
    split <;> simp_all
  simp only [this, phase_eq_some]
  grind

theorem calibrateDue_iff : s.calibrateDue p = true ↔
    ∃ w e, (s.port p).power = .waking w ∧ w.phase = .calibrate (some e) ∧ s.slotReached e = true := by
  have : s.calibrateDue p = true ↔ ∃ e, s.phase p = some (.calibrate (some e)) ∧ s.slotReached e = true := by
    unfold State.calibrateDue
    split <;> simp_all
  simp only [this, phase_eq_some]
  grind

theorem resumeReadDue_iff : s.resumeReadDue p = true ↔
    ∃ w t n, (s.port p).power = .waking w ∧ w.phase = .resume (some t) n ∧ reachedMs s.clock t = true := by
  have : s.resumeReadDue p = true ↔ ∃ t n, s.phase p = some (.resume (some t) n) ∧ reachedMs s.clock t = true := by
    unfold State.resumeReadDue
    split <;> simp_all [expired_iff]
  simp only [this, phase_eq_some]
  grind

theorem keepwarmDue_iff :
    s.keepwarmDue p = true ↔ ∃ t, (s.port p).power = .keepwarm (some t) ∧ reachedMs s.clock t = true := by
  unfold State.keepwarmDue Power.keepTimer?
  cases (s.port p).power <;> simp [expired_iff]

theorem dozeDue_iff : s.dozeDue p = true ↔ ∃ t, (s.port p).power = .doze (some t) ∧ reachedMs s.clock t = true := by
  unfold State.dozeDue Power.dozeTimer?
  cases (s.port p).power <;> simp [expired_iff]

theorem waitDue_iff : s.waitDue p = true ↔ ∃ ps t, (s.port p).power = .pausing ps t ∧ reachedMs s.clock t = true := by
  unfold State.waitDue Power.waitTimer?
  cases (s.port p).power <;> simp [expired_iff]

theorem restDue_iff :
    s.restDue p = true ↔ ∃ t hold, (s.port p).power = .ready (some t) hold ∧ reachedMs s.clock t = true := by
  unfold State.restDue Power.restTimer?
  cases (s.port p).power <;> simp [expired_iff]

theorem orderDue_iff :
    s.orderDue p = true ↔ ∃ o, (s.port p).order = some o ∧ reachedMs s.clock o.expiry = true := by
  unfold State.orderDue
  simp [expired_iff]

/-! ### The conditions of a cue, the fire unit and the tables -/

theorem cueIn_iff {v : CueState} {f : Cue → Bool} :
    s.cueIn i v f = true ↔ ∃ c, s.cue? i = some c ∧ c.state = v ∧ f c = true := by
  unfold State.cueIn
  cases s.cue? i <;> simp

/-- Some cue of the list has the id exactly when the list gives a cue for it. -/
theorem cue?_isSome : (∃ c ∈ s.cues, c.id = i) ↔ ∃ c, s.cue? i = some c := by
  unfold State.cue?
  rw [← Option.isSome_iff_exists]
  simp

theorem cue?_id {c : Cue} (h : s.cue? i = some c) : c ∈ s.cues ∧ c.id = i := by
  unfold State.cue? at h
  exact ⟨List.mem_of_find?_eq_some h, by simpa using List.find?_some h⟩

theorem slackDue_iff : s.slackDue i = true ↔ ∃ q ∈ s.waiting, q.cue = i ∧ reachedMs s.clock q.slackAt = true := by
  simp [State.slackDue]

theorem pressDue_iff : s.pressDue.isSome = true ↔
    ∃ o, s.owner = some o ∧ o.pressed = false ∧ reachedMs s.clock (addMs o.t0 o.focus) = true := by
  unfold State.pressDue
  cases s.owner <;> simp [Option.filter, Option.isSome_iff_exists, Owner.pressAt]

theorem syncDue_iff : s.syncDue.isSome = true ↔ ∃ o, s.owner = some o ∧ o.pressed = true ∧ o.synced = false ∧
    reachedMs s.clock (addMs o.t0 (o.focus + o.strobe)) = true := by
  unfold State.syncDue
  cases s.owner <;> simp [Option.filter, Option.isSome_iff_exists, Owner.syncAt, and_assoc]

theorem releaseDue_iff : s.releaseDue.isSome = true ↔ ∃ o, s.owner = some o ∧ o.synced = true ∧ o.released = false ∧
    reachedMs s.clock (addMs o.t0 (o.focus + o.press)) = true := by
  unfold State.releaseDue
  cases s.owner <;> simp [Option.filter, Option.isSome_iff_exists, Owner.releaseAt, and_assoc]

theorem freeDue_iff : s.freeDue.isSome = true ↔ ∃ o, s.owner = some o ∧ o.released = true ∧
    reachedMs s.clock (addMs o.t0 (o.focus + o.press + 20)) = true := by
  unfold State.freeDue
  cases s.owner <;> simp [Option.filter, Option.isSome_iff_exists, Owner.freeAt]

theorem lockDue_iff : s.lockDue = true ↔ ∃ l, s.lock = some l ∧ reachedMs s.clock l.expiry = true := by
  unfold State.lockDue
  simp [expired_iff]

theorem restartDue_iff :
    s.restartDue.isSome = true ↔ ∃ r, s.restart = some r ∧ reachedMs s.clock (addMs r.at_ 500) = true := by
  unfold State.restartDue
  cases s.restart <;> simp [Option.filter, Option.isSome_iff_exists]

theorem settleDue_iff {st : StationId} :
    (s.settleDue st).isSome = true ↔ ∃ q, s.settleReq st = some q ∧ reachedMs s.clock q.expiry = true := by
  unfold State.settleDue
  cases s.settleReq st <;> simp [Option.filter, Option.isSome_iff_exists]

theorem agedOut_iff {e : IdEntry} : s.agedOut e = true ↔
    ∃ t, e.bound = none ∧ e.pinned = false ∧ e.unbind = some t ∧ s.aging * 1000 ≤ diffMs s.clock t := by
  unfold State.agedOut
  cases e.unbind <;> simp [and_assoc]

theorem agingDue_iff {k : Position} : s.agingDue k = true ↔ ∃ e t, s.entryAt k = some e ∧ e.bound = none ∧
    e.pinned = false ∧ e.unbind = some t ∧ s.aging * 1000 ≤ diffMs s.clock t := by
  unfold State.agingDue
  cases s.entryAt k <;> simp [agedOut_iff]

theorem visitDue_iff : s.visitDue.isSome = true ↔
    ∃ w, s.walk = some w ∧ w.next < 32 ∧ reachedMs s.clock (addMs w.t0 (2 * w.next)) = true := by
  unfold State.visitDue
  cases s.walk <;> simp [Option.filter, Option.isSome_iff_exists]

theorem walkEndDue_iff :
    s.walkEndDue = true ↔ ∃ w, s.walk = some w ∧ 32 ≤ w.next ∧ reachedMs s.clock (addMs w.t0 64) = true := by
  unfold State.walkEndDue
  cases s.walk <;> simp

theorem entryDue_iff {a : Nat} : s.entryDue p a = true ↔
    ∃ e, s.adv.find? (fun e => e.port == p && e.attr == a) = some e ∧ reachedMs s.clock e.expiry = true := by
  unfold State.entryDue State.entryFor
  simp [expired_iff]

/-- An entry that is due is one of the table's. -/
theorem entryDue_mem {a : Nat} (h : s.entryDue p a = true) : ∃ e ∈ s.adv, e.port = p ∧ e.attr = a := by
  obtain ⟨e, he, _⟩ := entryDue_iff.1 h
  exact ⟨e, List.mem_of_find?_eq_some he, by simpa using List.find?_some he⟩

theorem mem_allStations (st : StationId) : st ∈ allStations := by
  revert st
  decide

/-! ### The list of due commands -/

theorem mem_dueEvents : c ∈ s.dueEvents ↔
    ((∃ p, c ∈ s.portDue p) ∨ (∃ x ∈ s.cues, c ∈ s.cueDue x.id)) ∨ c ∈ s.fireDue ∨ c ∈ s.tableDue := by
  simp [State.dueEvents, mem_allPorts, or_assoc]

/-- A cue's command is due of the cue that the list gives for its id. -/
theorem exists_cueDue {d : Nat → Bool} :
    (∃ x ∈ s.cues, d x.id = true ∧ i = x.id) ↔ (∃ x, s.cue? i = some x) ∧ d i = true := by
  rw [← cue?_isSome]
  grind

theorem exists_cueIn {v : CueState} {f : Cue → Bool} :
    (∃ x ∈ s.cues, s.cueIn x.id v f = true ∧ i = x.id) ↔ s.cueIn i v f = true := by
  rw [exists_cueDue (d := fun i => s.cueIn i v f), and_iff_right_iff_imp, cueIn_iff]
  exact fun ⟨c, hc, _⟩ => ⟨c, hc⟩

/-- The condition that makes a timed command due, in the words of Timing.lean. -/
def State.dueBy (s : State) : Instr → Prop
  | .responseLimitExpiry p a => s.limitDue p = true ∧ a = (s.port p).attention
  | .reservationStart p => s.startDue p = true
  | .reservationWindowEnd p => s.windowDue p = true
  | .rampEnd p => s.rampDue p = true
  | .resetHoldEnd p => s.resetHoldDue p = true
  | .initWaitRead p => s.initReadDue p = true
  | .initMaxExpiry p => s.initMaxDue p = true
  | .calibrateWaitEnd p => s.calibrateDue p = true
  | .resumeRead p => s.resumeReadDue p = true
  | .keepwarmTimerExpiry p => s.keepwarmDue p = true
  | .dozeLimitExpiry p => s.dozeDue p = true
  | .pauseWaitExpiry p => s.waitDue p = true
  | .restTimerExpiry p => s.restDue p = true
  | .orderExpiry p => s.orderDue p = true
  | .horizonEntry i => s.horizonDue i = true
  | .preparationStart i => s.prepDue i = true
  | .fireRequestTime i => s.fireReqDue i = true
  | .slackExpiry i => (∃ c, s.cue? i = some c) ∧ s.slackDue i = true
  | .confirmTimeout i => s.confirmDue i = true
  | .fullPress => s.pressDue.isSome = true
  | .syncPulse => s.syncDue.isSome = true
  | .syncPulseEnd => s.pulseDue = true
  | .release => s.releaseDue.isSome = true
  | .freeing => s.freeDue.isSome = true
  | .lockExpiry => s.lockDue = true
  | .restartExpiry => s.restartDue.isSome = true
  | .usbReattach => s.reattachDue = true
  | .clearWalkVisit => s.visitDue.isSome = true
  | .clearWalkEnd => s.walkEndDue = true
  | .settleTimeout st => (s.settleDue st).isSome = true
  | .idAgingExpiry k => s.agingDue k = true
  | .advanceEntryExpiry p a => s.entryDue p a = true
  | _ => False

/-- The list of due commands holds each command whose condition has come, and no other. -/
theorem mem_dueEvents_iff_dueBy (c : Instr) : c ∈ s.dueEvents ↔ s.dueBy c := by
  simp only [mem_dueEvents, State.portDue, State.cueDue, State.fireDue, State.tableDue, List.mem_append, mem_dueIf,
    List.mem_flatMap]
  cases c with
  | horizonEntry i => simp [State.dueBy, State.horizonDue, exists_cueIn]
  | preparationStart i => simp [State.dueBy, State.prepDue, exists_cueIn]
  | fireRequestTime i => simp [State.dueBy, State.fireReqDue, exists_cueIn]
  | slackExpiry i => simp [State.dueBy, exists_cueDue (d := s.slackDue)]
  | confirmTimeout i => simp [State.dueBy, State.confirmDue, exists_cueIn]
  | advanceEntryExpiry p a =>
    have mem := fun h => entryDue_mem (s := s) (p := p) (a := a) h
    simp only [reduceCtorEq, and_false, exists_false, or_false, false_or, Instr.advanceEntryExpiry.injEq, State.dueBy]
    grind
  | _ => simp [State.dueBy, mem_allStations, mem_allPositions]

/-- Each condition in the words of the statement. -/
theorem dueBy_iff_dueNow (c : Instr) : s.dueBy c ↔ s.dueNow c := by
  cases c with
  | responseLimitExpiry p a =>
    simp only [State.dueBy, State.dueNow, limitDue_iff]
    grind
  | reservationStart p => exact startDue_iff
  | reservationWindowEnd p => exact windowDue_iff
  | rampEnd p => exact rampDue_iff
  | resetHoldEnd p => exact resetHoldDue_iff
  | initWaitRead p => exact initReadDue_iff
  | initMaxExpiry p => exact initMaxDue_iff
  | calibrateWaitEnd p => exact calibrateDue_iff
  | resumeRead p => exact resumeReadDue_iff
  | keepwarmTimerExpiry p => exact keepwarmDue_iff
  | dozeLimitExpiry p => exact dozeDue_iff
  | pauseWaitExpiry p => exact waitDue_iff
  | restTimerExpiry p => exact restDue_iff
  | orderExpiry p => exact orderDue_iff
  | horizonEntry i => exact cueIn_iff
  | preparationStart i => exact cueIn_iff
  | fireRequestTime i => exact cueIn_iff
  | slackExpiry i => exact and_congr_right fun _ => slackDue_iff
  | confirmTimeout i =>
    simp only [State.dueBy, State.dueNow, State.confirmDue, cueIn_iff, expired_iff]
    grind
  | fullPress => exact pressDue_iff
  | syncPulse => exact syncDue_iff
  | syncPulseEnd => exact expired_iff
  | release => exact releaseDue_iff
  | freeing => exact freeDue_iff
  | lockExpiry => exact lockDue_iff
  | restartExpiry => exact restartDue_iff
  | usbReattach => exact expired_iff
  | clearWalkVisit => exact visitDue_iff
  | clearWalkEnd => exact walkEndDue_iff
  | settleTimeout st => exact settleDue_iff
  | idAgingExpiry k => exact agingDue_iff
  | advanceEntryExpiry p a => exact entryDue_iff
  | _ => exact Iff.rfl

end Due

/-- Settles O2: the due commands by their conditions, and the three branches of the idle step. -/
theorem emptyQueueLetsTimePass : Obligations.EmptyQueueLetsTimePass := by
  refine ⟨fun s c => (mem_dueEvents_iff_dueBy c).trans (dueBy_iff_dueNow c), fun s hp => ?_⟩
  have stepped : step s = .next (idle s) := by
    unfold step
    rw [hp]
  rw [stepped]
  unfold idle
  refine ⟨fun h => ?_, fun c h => ?_, fun c d cs h => ?_⟩
  · rw [h]
    rfl
  · rw [h]
  · rw [h]
    refine ⟨chooseDue s.freeCount c (d :: cs), ?_, rfl⟩
    unfold chooseDue
    cases hi : (c :: d :: cs)[Config.pick s.freeCount % ((d :: cs).length + 1)]? with
    | none => exact List.mem_cons_self
    | some e => exact List.mem_of_getElem? hi

/-- Settles O3: each command tests its condition first. -/
theorem commandNotDueChangesNothing : Obligations.CommandNotDueChangesNothing := by
  intro s p a cue attr st k
  refine ⟨fun h => ?restart, fun h => ?reattach, next_of_not_due, fun h => ?limit, fun h => ?start, next_of_not_due,
    fun h => ?ramp, fun h => ?hold, fun h => ?read, next_of_not_due, next_of_not_due, fun h => ?resume, next_of_not_due,
    next_of_not_due, next_of_not_due, fun h => ?rest, next_of_not_due, next_of_not_due, next_of_not_due,
    next_of_not_due, fun h => ?press, fun h => ?sync, next_of_not_due, fun h => ?release, fun h => ?free,
    next_of_not_due, next_of_not_due, fun h => ?settle, next_of_not_due, fun h => ?visit, next_of_not_due,
    next_of_not_due, next_of_not_due⟩
  case restart => simp [exec, execRestartExpiry, h]
  case reattach => simp [exec, execUsbReattach, h]
  case limit =>
    simp only [exec, execResponseLimitExpiry, h]
    split <;> rfl
  case start =>
    simp only [exec, execReservationStart, h]
    split <;> rfl
  case ramp =>
    simp only [exec, execRampEnd, h]
    split <;> rfl
  case hold =>
    simp only [exec, execResetHoldEnd, h]
    split <;> rfl
  case read =>
    simp only [exec, execInitWaitRead, h]
    split <;> rfl
  case resume =>
    simp only [exec, execResumeRead, h]
    split <;> rfl
  case rest =>
    simp only [exec, execRestTimerExpiry, h]
    split <;> rfl
  case press => simp [exec, execFullPress, h]
  case sync => simp [exec, execSyncPulse, h]
  case release => simp [exec, execRelease, h]
  case free => simp [exec, execFreeing, h]
  case settle => simp [exec, execSettleTimeout, h]
  case visit => simp [exec, execClearWalkVisit, h]

/-! ## The reset -/

/-- Settles O5: the values of `State.reset`, and the empty tables entry by entry. -/
theorem resetState : Obligations.ResetState := by
  refine ⟨rfl, rfl, rfl, rfl, rfl, rfl, by decide, rfl, rfl, rfl, rfl, rfl, rfl, rfl, rfl, rfl, rfl, rfl, rfl, rfl, rfl, rfl,
    fun k => ?_, fun st => ⟨?_, ?_, ?_⟩, fun i => ?_, fun p => ?_⟩
  · simp [State.reset, State.entryAt]
  · simp [State.reset, State.settleReq]
  · simp [State.reset, State.station]
  · simp [State.reset, State.membersOf, State.port, Port.reset]
  · simp [State.reset, TrapRule.reset]
  · simp [State.reset, State.port, Port.reset]

/-- Settles O7: at reset every table is empty and no port holds a reservation or a commitment. -/
theorem invAtReset : Obligations.InvAtReset := by
  refine ⟨⟨by simp [ClockInRange, State.reset], ⟨fun p => ?_, by decide, by decide, by decide, by decide, by decide⟩, fun _ => rfl, unique_empty⟩,
    within_idle fun p => ?_⟩
  · simpa [State.port, State.reset] using reset_ok
  · simp [State.port, State.reset, Port.reset]

end Sys2Proof.Machine

namespace Sys2Proof.Machine

/-! ## What the operations of the ports, the planner and the cues leave unchanged

They write the ports, the cues, the advance table and the report queue with its marks, and nothing else. -/

section Outer

/-- Everything of the machine but the ports, the cues, the advance table, the reports and the IN transfer. -/
def State.outer (s : State) :=
  (s.still, s.table, s.owner, s.lock, s.waiting, s.events, s.line, s.settles, s.settleReady)

variable {s t : State}

/-- The parts of `State.outer`, one by one. -/
theorem outer_parts (h : t.outer = s.outer) : t.still = s.still ∧ t.table = s.table ∧ t.owner = s.owner ∧
    t.lock = s.lock ∧ t.waiting = s.waiting ∧ t.events = s.events ∧ t.line = s.line ∧ t.settles = s.settles ∧
    t.settleReady = s.settleReady := by
  simpa [State.outer] using h

theorem clock_of_outer (h : t.outer = s.outer) : t.clock = s.clock := congrArg (·.1.1) h
theorem stations_of_outer (h : t.outer = s.outer) : t.stations = s.stations := congrArg (·.1.2.1) h
theorem table_of_outer (h : t.outer = s.outer) : t.table = s.table := (outer_parts h).2.1
theorem line_of_outer (h : t.outer = s.outer) : t.line = s.line := (outer_parts h).2.2.2.2.2.2.1

theorem outer_forEach {α : Type} (g : α → State → State) (h : ∀ x u, (g x u).outer = u.outer) (xs : List α) (s : State) :
    (forEach xs g s).outer = s.outer := forEach_field State.outer g h xs s

@[simp] theorem outer_modPort (p : PortId) (f : Port → Port) (s : State) : (s.modPort p f).outer = s.outer := rfl
@[simp] theorem outer_modCue (id : Nat) (f : Cue → Cue) (s : State) : (modCue id f s).outer = s.outer := rfl
@[simp] theorem outer_removeCue (id : Nat) (s : State) : (removeCue id s).outer = s.outer := rfl
@[simp] theorem outer_reports (s : State) (r : List Report) : { s with reports := r }.outer = s.outer := rfl
@[simp] theorem outer_inXfer (s : State) (x : Option InXfer) : { s with inXfer := x }.outer = s.outer := rfl
@[simp] theorem outer_clearEntries (p : PortId) (s : State) : (clearEntries p s).outer = s.outer := rfl
@[simp] theorem outer_dropEntry (p : PortId) (a : Nat) (s : State) : (dropEntry p a s).outer = s.outer := rfl
@[simp] theorem outer_appendEntry (p : PortId) (pr : Pair) (v : Bool) (n : Nat) (s : State) :
    (appendEntry p pr v n s).outer = s.outer := rfl
@[simp] theorem outer_setPrep (cue : Nat) (p : PortId) (v : Prep) (s : State) : (setPrep cue p v s).outer = s.outer := rfl
@[simp] theorem outer_setDisp (cue : Nat) (p : PortId) (d : Option Disp) (r : Option Nat) (s : State) :
    (setDisp cue p d r s).outer = s.outer := rfl
@[simp] theorem outer_setResv (p : PortId) (r : Option Reservation) (s : State) : (setResv p r s).outer = s.outer := rfl
@[simp] theorem outer_commit (p : PortId) (s : State) : (commit p s).outer = s.outer := rfl
@[simp] theorem outer_withdraw (p : PortId) (s : State) : (withdraw p s).outer = s.outer := rfl
@[simp] theorem outer_coverBy (p : PortId) (cue req r : Nat) (s : State) : (coverBy p cue req r s).outer = s.outer := rfl
@[simp] theorem outer_dropOrder (p : PortId) (s : State) : (dropOrder p s).outer = s.outer := rfl
@[simp] theorem outer_setOrder (p : PortId) (o : Order) (s : State) : (setOrder p o s).outer = s.outer := rfl
@[simp] theorem outer_setLane (p : PortId) (e : Option Exchange) (s : State) : (setLane p e s).outer = s.outer := rfl
@[simp] theorem outer_markStarted (p : PortId) (s : State) : (markStarted p s).outer = s.outer := rfl
@[simp] theorem outer_setHead (p : PortId) (k : JobKind) (s : State) : (setHead p k s).outer = s.outer := rfl
@[simp] theorem outer_enqueueJob (p : PortId) (k : JobKind) (s : State) : (enqueueJob p k s).outer = s.outer := rfl
@[simp] theorem outer_setCueState (id : Nat) (v : CueState) (s : State) : (setCueState id v s).outer = s.outer := rfl
@[simp] theorem outer_markPort (p : PortId) (s : State) : (markPort p s).outer = s.outer := by
  unfold markPort
  repeat' split
  all_goals simp

@[simp] theorem outer_setGradeChanged (p : PortId) (s : State) : (setGradeChanged p s).outer = s.outer := by
  unfold setGradeChanged
  dsimp only
  repeat' split
  all_goals simp

@[simp] theorem outer_addAbandoned (p : PortId) (s : State) : (addAbandoned p s).outer = s.outer := by
  unfold addAbandoned
  dsimp only
  repeat' split
  all_goals simp

@[simp] theorem outer_addConflict (p : PortId) (s : State) : (addConflict p s).outer = s.outer := by
  unfold addConflict
  dsimp only
  repeat' split
  all_goals simp

@[simp] theorem outer_setOffload (p : PortId) (v : Bool) (s : State) : (setOffload p v s).outer = s.outer := by
  unfold setOffload
  repeat' split
  all_goals simp

@[simp] theorem outer_setMediaFull (p : PortId) (v : Bool) (s : State) : (setMediaFull p v s).outer = s.outer := by
  unfold setMediaFull
  repeat' split
  all_goals simp

@[simp] theorem outer_setHostPause (p : PortId) (v : Bool) (s : State) : (setHostPause p v s).outer = s.outer := by
  unfold setHostPause
  repeat' split
  all_goals simp

@[simp] theorem outer_settleCommitment (p : PortId) (s : State) : (settleCommitment p s).outer = s.outer := by
  unfold settleCommitment
  repeat' split
  all_goals simp

@[simp] theorem outer_releaseResv (p : PortId) (s : State) : (releaseResv p s).outer = s.outer := by
  simp [releaseResv]

@[simp] theorem outer_releaseUnstarted (p : PortId) (s : State) : (releaseUnstarted p s).outer = s.outer := by
  unfold releaseUnstarted
  repeat' split
  all_goals simp

@[simp] theorem outer_setPower (p : PortId) (new : Power) (s : State) : (setPower p new s).outer = s.outer := by
  unfold setPower
  dsimp only
  repeat' split
  all_goals simp

@[simp] theorem outer_startRest (p : PortId) (s : State) : (startRest p s).outer = s.outer := by
  unfold startRest
  repeat' split
  all_goals simp

@[simp] theorem outer_dropHold (cue : Nat) (p : PortId) (s : State) : (dropHold cue p s).outer = s.outer := by
  unfold dropHold
  repeat' split
  all_goals simp

@[simp] theorem outer_checkEntries (p : PortId) (form : CheckForm) (ps : List Pair) (s : State) :
    (checkEntries p form ps s).outer = s.outer := by
  unfold checkEntries
  split
  all_goals rfl

@[simp] theorem outer_prepareMember (c : Cue) (p : PortId) (s : State) : (prepareMember c p s).outer = s.outer := by
  unfold prepareMember
  dsimp only
  repeat' split
  all_goals simp

@[simp] theorem outer_checkOnReady (p : PortId) (s : State) : (checkOnReady p s).outer = s.outer := by
  exact outer_forEach _ (by simp) _ s

@[simp] theorem outer_handOver (p : PortId) (s : State) : (handOver p s).outer = s.outer := by
  unfold handOver
  repeat' split
  all_goals simp

@[simp] theorem outer_loseSettings (p : PortId) (s : State) : (loseSettings p s).outer = s.outer := by
  refine outer_forEach _ (fun c u => ?_) _ s
  split
  all_goals simp

@[simp] theorem outer_enterDoze (p : PortId) (s : State) : (enterDoze p s).outer = s.outer := by
  simp [enterDoze]

@[simp] theorem outer_enterDeep (p : PortId) (s : State) : (enterDeep p s).outer = s.outer := by
  simp [enterDeep]

@[simp] theorem outer_startKeepwarm (p : PortId) (s : State) : (startKeepwarm p s).outer = s.outer := by
  unfold startKeepwarm
  repeat' split
  all_goals simp

@[simp] theorem outer_enterKeepwarm (p : PortId) (s : State) : (enterKeepwarm p s).outer = s.outer := by
  simp [enterKeepwarm]

@[simp] theorem outer_pauseAction (p : PortId) (x : Target) (s : State) : (pauseAction p x s).outer = s.outer := by
  unfold pauseAction
  repeat' split
  all_goals simp

@[simp] theorem outer_pauseReady (p : PortId) (ps : Pause) (s : State) : (pauseReady p ps s).outer = s.outer := by
  unfold pauseReady
  repeat' split
  all_goals simp

@[simp] theorem outer_pausingEvent (p : PortId) (s : State) : (pausingEvent p s).outer = s.outer := by
  unfold pausingEvent
  repeat' split
  all_goals simp

@[simp] theorem outer_enterReady (p : PortId) (rest : Bool) (s : State) : (enterReady p rest s).outer = s.outer := by
  unfold enterReady
  dsimp only
  repeat' split
  all_goals simp

@[simp] theorem outer_wakeDone (p : PortId) (s : State) : (wakeDone p s).outer = s.outer := by
  unfold wakeDone
  repeat' split
  all_goals simp

@[simp] theorem outer_placeFor (p : PortId) (cue req : Nat) (s : State) : (placeFor p cue req s).outer = s.outer := by
  unfold placeFor
  repeat' split
  all_goals simp

@[simp] theorem outer_rewriteEntries (p : PortId) (x old : Nat) (s : State) :
    (rewriteEntries p x old s).outer = s.outer := by
  unfold rewriteEntries
  split
  · exact outer_forEach _ (by simp) _ s
  · rfl

@[simp] theorem outer_planPaused (p : PortId) (cue req : Nat) (s : State) :
    (planPaused p cue req s).outer = s.outer := by
  unfold planPaused
  repeat' split
  all_goals simp

@[simp] theorem outer_planOne (p : PortId) (cue : Nat) (s : State) : (planOne p cue s).outer = s.outer := by
  unfold planOne
  dsimp only
  repeat' split
  all_goals simp

@[simp] theorem outer_replan (p : PortId) (s : State) : (replan p s).outer = s.outer := by
  exact outer_forEach _ (by simp) _ s

@[simp] theorem outer_undoReservation (p : PortId) (s : State) : (undoReservation p s).outer = s.outer := by
  unfold undoReservation
  repeat' split
  all_goals simp

@[simp] theorem outer_reneed (cue : Nat) (p : PortId) (s : State) : (reneed cue p s).outer = s.outer := by
  unfold reneed
  repeat' split
  all_goals simp

@[simp] theorem outer_lossOfNeed (cue : Nat) (s : State) : (lossOfNeed cue s).outer = s.outer := by
  exact outer_forEach _ (by simp) _ s

@[simp] theorem outer_planCue (cue : Nat) (s : State) : (planCue cue s).outer = s.outer := by
  unfold planCue
  split
  · exact outer_forEach _ (by simp) _ s
  · rfl

@[simp] theorem outer_placeAsap (p : PortId) (s : State) : (placeAsap p s).outer = s.outer := by
  unfold placeAsap
  repeat' split
  all_goals simp

@[simp] theorem outer_exclude (p : PortId) (d : Disp) (s : State) : (exclude p d s).outer = s.outer := by
  exact outer_forEach _ (by simp) _ s

@[simp] theorem outer_startDeepWake (p : PortId) (r : Reservation) (s : State) :
    (startDeepWake p r s).outer = s.outer := by
  simp [startDeepWake]

@[simp] theorem outer_startResume (p : PortId) (f : Forecast) (s : State) : (startResume p f s).outer = s.outer := by
  unfold startResume
  repeat' split
  all_goals simp

@[simp] theorem outer_reportCue (id : Nat) (s : State) : (reportCue id s).outer = s.outer := by
  unfold reportCue
  repeat' split
  all_goals simp

@[simp] theorem outer_finishCue (id : Nat) (s : State) : (finishCue id s).outer = s.outer := by
  simp [finishCue]

@[simp] theorem outer_confirmEnd (id : Nat) (s : State) : (confirmEnd id s).outer = s.outer := by
  unfold confirmEnd
  repeat' split
  all_goals simp

@[simp] theorem outer_restAfter (cue : Nat) (p : PortId) (s : State) : (restAfter cue p s).outer = s.outer := by
  unfold restAfter
  repeat' split
  all_goals simp

@[simp] theorem outer_lossWhilePlanned (p : PortId) (d : Disp) (c : Cue) (s : State) :
    (recordLossIn.lossWhilePlanned p d c s).outer = s.outer := rfl
@[simp] theorem outer_recordLossIn (p : PortId) (d : Disp) (o : CamOutcome) (c : Cue) (s : State) :
    (recordLossIn p d o c s).outer = s.outer := by
  unfold recordLossIn
  repeat' split
  all_goals simp

@[simp] theorem outer_recordLoss (p : PortId) (d : Disp) (o : CamOutcome) (s : State) :
    (recordLoss p d o s).outer = s.outer := by
  exact outer_forEach _ (by simp) _ s

@[simp] theorem outer_takePause (p : PortId) (ps : Pause) (s : State) : (takePause p ps s).outer = s.outer := by
  unfold takePause
  repeat' split
  all_goals simp

@[simp] theorem outer_thermalProtect (p : PortId) (s : State) : (thermalProtect p s).outer = s.outer := by
  unfold thermalProtect
  dsimp only
  repeat' split
  all_goals simp

@[simp] theorem outer_thermalRead (p : PortId) (v : Byte) (s : State) : (thermalRead p v s).outer = s.outer := by
  unfold thermalRead
  dsimp only
  repeat' split
  all_goals simp

@[simp] theorem outer_powerModeFailed (p : PortId) (x : Target) (s : State) :
    (powerModeFailed p x s).outer = s.outer := by
  unfold powerModeFailed
  repeat' split
  all_goals simp

@[simp] theorem outer_endRestore (p : PortId) (s : State) : (endRestore p s).outer = s.outer := by
  unfold endRestore
  repeat' split
  all_goals simp

@[simp] theorem outer_prepEnd (cue : Nat) (p : PortId) (ok : Bool) (s : State) :
    (prepEnd cue p ok s).outer = s.outer := by
  unfold prepEnd
  repeat' split
  all_goals simp

@[simp] theorem outer_returnOrder (p : PortId) (o : Order) (s : State) : (returnOrder p o s).outer = s.outer := by
  unfold returnOrder
  repeat' split
  all_goals simp

@[simp] theorem outer_startWaitingResume (p : PortId) (s : State) : (startWaitingResume p s).outer = s.outer := by
  unfold startWaitingResume
  repeat' split
  all_goals simp

@[simp] theorem outer_clearOwed (p : PortId) (s : State) : (clearOwed p s).outer = s.outer := by
  unfold clearOwed
  repeat' split
  all_goals simp

@[simp] theorem outer_setPhase (p : PortId) (ph : Phase) (o : Option WakeEx) (s : State) :
    (setPhase p ph o s).outer = s.outer := by
  unfold setPhase
  repeat' split
  all_goals simp

@[simp] theorem outer_beginCalibrate (p : PortId) (s : State) : (beginCalibrate p s).outer = s.outer := by
  simp [beginCalibrate]

@[simp] theorem outer_beginInitWait (p : PortId) (r : Nat) (s : State) : (beginInitWait p r s).outer = s.outer := by
  simp [beginInitWait]

@[simp] theorem outer_beginRestore (p : PortId) (s : State) : (beginRestore p s).outer = s.outer := by
  unfold beginRestore
  repeat' split
  all_goals simp

@[simp] theorem outer_recordWrite (p : PortId) (pr : Pair) (ok : Bool) (n : Nat) (s : State) :
    (recordWrite p pr ok n s).outer = s.outer := by
  unfold recordWrite
  repeat' split
  all_goals simp

@[simp] theorem outer_pingEnd (p : PortId) (s : State) : (pingEnd p s).outer = s.outer := by
  unfold pingEnd
  dsimp only
  repeat' split
  all_goals simp

@[simp] theorem outer_startPreparation (id : Nat) (s : State) : (startPreparation id s).outer = s.outer := by
  unfold startPreparation
  split
  · dsimp only
    split
    · simp
    · refine (outer_forEach _ (fun p u => ?_) _ _).trans (outer_setCueState _ _ s)
      split
      all_goals simp
  · rfl

@[simp] theorem outer_planAndEnter (id : Nat) (s : State) : (planAndEnter id s).outer = s.outer := by
  unfold planAndEnter
  dsimp only
  repeat' split
  all_goals simp

@[simp] theorem outer_endPreps (id : Nat) (p : PortId) (s : State) : (endPreps id p s).outer = s.outer := by
  unfold endPreps
  dsimp only
  repeat' split
  all_goals simp

@[simp] theorem outer_dropPending (p : PortId) (s : State) : (dropPending p s).outer = s.outer := by
  unfold dropPending
  repeat' split
  all_goals simp

@[simp] theorem outer_dropAhead (p : PortId) (s : State) : (dropAhead p s).outer = s.outer := rfl
end Outer

end Sys2Proof.Machine

namespace Sys2Proof.Machine

/-! ## Transfers that are refused, held or lost -/

section Transfers

variable {k : ReqKind} {r : Request} {s t : State}

/-- Bytes that name no request are the transfer of the UNKNOWN_KIND row. -/
theorem transferOf_unknown {bytes : List Byte} (h : namesNoRequest bytes = true) : transferOf bytes = .unknown bytes := by
  unfold namesNoRequest at h
  unfold transferOf
  split
  · simp only [Option.isNone_iff_eq_none] at h
    simp [h]
  · rfl

theorem answerRaw_eq (kind tag : Byte) (st : Status) (s : State) :
    answerRaw kind tag st s = s.replied (kind ||| 0x80#8) tag [st.code] := rfl

/-- The reply to a transfer of at least one byte that names no request (R178, R179). -/
theorem takeUnknown_cons (kind : Byte) (rest : List Byte) (s : State) :
    takeUnknown (kind :: rest) s = s.replied (kind ||| 0x80#8) (rest.getD 0 0#8)
      [if (kind :: rest).length < 4 ∨ 512 < (kind :: rest).length ∨
          (kind :: rest).length ≠ 4 + u16 (kind :: rest) 2 then 0x02#8 else 0x03#8] := by
  simp only [takeUnknown, answerRaw_eq, Config.maxMessage]
  by_cases h4 : (kind :: rest).length < 4
  · simp only [h4, if_true, true_or, Status.code]
  · by_cases hl : 512 < (kind :: rest).length ∨ (kind :: rest).length ≠ 4 + u16 (kind :: rest) 2
    · simp only [h4, hl, if_false, if_true, or_true, Status.code]
    · simp only [h4, hl, if_false, or_self, Status.code]

/-- Settles O9: the transfer that names no request by its length, and the request that fails the framing. -/
theorem malformedTransferAnswered : Obligations.MalformedTransferAnswered := by
  refine ⟨fun s bytes ho hn => ?_, fun k r s ho hf => exec_unframed ho hf⟩
  have taken : exec (.unknownKind bytes) s = .next (takeUnknown bytes s) := by
    show Host.Outcome.next (takeOut (transferOf bytes) s) = _
    rw [transferOf_unknown hn, takeOut_open ho]
    rfl
  rw [taken]
  refine ⟨fun h => by rw [h]; rfl, fun kind rest h => ?_⟩
  rw [h, takeUnknown_cons]

/-- Settles O10: an attached link that is not open holds the transfer behind the earlier ones. -/
theorem transferHeldOff : Obligations.TransferHeldOff := by
  intro k r s
  rw [exec_ofRequest]
  unfold takeOut
  refine ⟨fun ha => by simp [ha], fun ha hn => ?_⟩
  have shut : (s.accepting && s.heldOut.isEmpty) = false := by
    simp only [Open, ha, true_and] at hn
    by_contra h
    simp [State.accepting, ha] at h
    tauto
  simp [ha, shut]

/-- Settles O13: the two codes of RESTART, and every other code refused. -/
theorem restartTaken : Obligations.RestartTaken := by
  intro r s ht
  have served : exec (.restart r) s = .next (serveRestart r.tag r.body s) := exec_taken (k := .restart) ht
  rw [served]
  unfold serveRestart
  refine ⟨fun h1 h2 => ?_, fun h => ?_⟩
  · rw [show twoCode (u8 r.body 0) = none by simp [twoCode, h1, h2]]
    exact congrArg _ (refuse_eq _ _ _ s)
  · rw [show twoCode (u8 r.body 0) = some (decide (u8 r.body 0 = 2)) by rcases h with h | h <;> simp [twoCode, h]]
    rfl

end Transfers

/-! ## Refusals leave the state -/

section Refusals

variable {s t u : State} {k : ReqKind} {tag : Byte}

/-- What follows the result of a job that ends (R37): the freed entry is served, and the end is an event for PAUSING, for a
waiting resume and for R38. -/
def afterJob (p : PortId) (j : Job) (s : State) : State :=
  let s := s.modPort p Port.serveRoom
  let s := if j.holdsPause then pausingEvent p s else s
  let s := if j.isPowerMode && j.started then startWaitingResume p s else s
  if j.isPoll then s.modPort p Port.testPoll else s

theorem jobEnd_eq (p : PortId) (j : Job) (f : State → State) (s : State) :
    jobEnd p j f s = afterJob p j (f (s.modPort p (fun c => { c with queue := c.queue.tail }))) := rfl

@[simp] theorem outer_afterJob (p : PortId) (j : Job) (s : State) : (afterJob p j s).outer = s.outer := by
  unfold afterJob
  dsimp only
  repeat' split
  all_goals simp

/-- The waiting entries of the reply line may have been answered, and the answered ones stand. -/
def KeepsAnswers (s t : State) : Prop :=
  ∃ f : ReplyEntry → ReplyEntry, (∀ e, e.body.isSome → f e = e) ∧ t.line = s.line.map f

namespace KeepsAnswers

theorem refl (s : State) : KeepsAnswers s s := ⟨id, fun _ _ => rfl, by simp⟩

theorem trans (h : KeepsAnswers s t) (g : KeepsAnswers t u) : KeepsAnswers s u := by
  obtain ⟨f, hf, ht⟩ := h
  obtain ⟨f', hf', hu⟩ := g
  exact ⟨f' ∘ f, fun e he => by simp [hf e he, hf' e he], by rw [hu, ht, List.map_map]⟩

theorem of_outer (h : t.outer = s.outer) : KeepsAnswers s t := ⟨id, fun _ _ => rfl, by rw [line_of_outer h]; simp⟩

theorem giveAnswer (n : Nat) (b : List Byte) (s : State) : KeepsAnswers s (giveAnswer n b s) := by
  refine ⟨_, fun e he => ?_, rfl⟩
  rw [if_neg (by rintro ⟨_, h⟩; simp [h] at he)]

theorem forEach {α : Type} (f : α → State → State) (hf : ∀ x u, KeepsAnswers u (f x u)) (xs : List α) (s : State) :
    KeepsAnswers s (forEach xs f s) := by
  induction xs generalizing s with
  | nil => exact refl s
  | cons x xs ih => exact (hf x s).trans (ih _)

theorem startCheckFailed (p : PortId) (j : Job) (s : State) : KeepsAnswers s (startCheckFailed p j s) := by
  unfold Machine.startCheckFailed
  split
  case h_1 => exact giveAnswer _ _ s
  case h_2 => exact giveAnswer _ _ s
  all_goals exact of_outer (by simp)

theorem jobEnd (p : PortId) (j : Job) (f : State → State) (hf : ∀ u, KeepsAnswers u (f u)) (s : State) :
    KeepsAnswers s (jobEnd p j f s) := by
  rw [jobEnd_eq]
  have dequeued : KeepsAnswers s (s.modPort p (fun c => { c with queue := c.queue.tail })) := of_outer rfl
  exact (dequeued.trans (hf _)).trans (of_outer (outer_afterJob p j _))

theorem chooseNext (p : PortId) (n : Nat) (s : State) : KeepsAnswers s (chooseNext p n s) := by
  induction n generalizing s with
  | zero => exact refl s
  | succ n ih =>
    unfold Machine.chooseNext
    dsimp only
    repeat' split
    case h_2.isTrue.isTrue => exact (jobEnd p _ id refl s).trans (ih _)
    case h_2.isFalse.isFalse => exact (jobEnd p _ _ (startCheckFailed p _) s).trans (ih _)
    all_goals exact of_outer (by simp)

theorem finish (s : State) : KeepsAnswers s (finish s) := by
  unfold Machine.finish kickAll
  refine (forEach _ (fun p u => chooseNext p _ u) _ s).trans (forEach _ (fun st u => ⟨id, fun _ _ => rfl, ?_⟩) _ _)
  rw [List.map_id]
  unfold testSettle
  repeat' split
  all_goals rfl

end KeepsAnswers

/-- The last entry of the reply line is an answer with the status OK or OK_CLAMPED. -/
def LastIsOk (t : State) : Prop :=
  ∃ pre e c rest, t.line = pre ++ [e] ∧ e.body = some (c :: rest) ∧ (c = 0x00#8 ∨ c = 0x01#8)

theorem LastIsOk.of_keeps (h : LastIsOk s) (g : KeepsAnswers s t) : LastIsOk t := by
  obtain ⟨pre, e, c, rest, hs, he, hc⟩ := h
  obtain ⟨f, hf, ht⟩ := g
  exact ⟨pre.map f, e, c, rest, by simp [ht, hs, hf e (by simp [he])], he, hc⟩

theorem okOr_code (c : Bool) : (okOr c).code = 0x00#8 ∨ (okOr c).code = 0x01#8 := by
  cases c
  · exact .inl rfl
  · exact .inr rfl

theorem lastIsOk_answer {st : Status} (h : st.code = 0x00#8 ∨ st.code = 0x01#8) (c : List Byte) (u : State) :
    LastIsOk (answer k tag st c u) := ⟨_, _, _, _, rfl, rfl, h⟩

/-- A request is answered with nothing but the reply line changed, or with OK or OK_CLAMPED, or is not answered yet. -/
def Replies (k : ReqKind) (tag : Byte) (s t : State) : Prop :=
  (∃ st c, t = answer k tag st c s) ∨ LastIsOk t ∨ t.line.length = s.line.length

namespace Replies

theorem refuse (st : Status) : Replies k tag s (refuse k tag st s) := .inl ⟨st, [], rfl⟩

theorem answer (st : Status) (c : List Byte) : Replies k tag s (answer k tag st c s) := .inl ⟨st, c, rfl⟩

theorem done (clamped : Bool) (c : List Byte) (u : State) : Replies k tag s (Machine.answer k tag (okOr clamped) c u) :=
  .inr (.inl (lastIsOk_answer (okOr_code clamped) c u))

theorem finished (clamped : Bool) (c : List Byte) (u : State) :
    Replies k tag s (finish (Machine.answer k tag (okOr clamped) c u)) :=
  .inr (.inl ((lastIsOk_answer (okOr_code clamped) c u).of_keeps (KeepsAnswers.finish _)))

end Replies

theorem replies_cuePost (b : List Byte) (s : State) : Replies .cuePost tag s (serveCuePost tag b s) := by
  unfold serveCuePost
  dsimp only
  split
  · split
    · exact .refuse _
    · split
      · exact .refuse _
      · exact .finished false _ _
  · exact .refuse _

theorem replies_cueCancel (b : List Byte) (s : State) : Replies .cueCancel tag s (serveCueCancel tag b s) := by
  unfold serveCueCancel
  split
  · exact .refuse _
  · split
    · exact .refuse _
    · split
      case h_5 => exact .refuse _
      case h_6 => exact .refuse _
      case h_7 => exact .refuse _
      all_goals exact .finished false _ _

theorem replies_aheadWake (b : List Byte) (s : State) : Replies .aheadWake tag s (serveAheadWake tag b s) := by
  unfold serveAheadWake
  dsimp only
  split
  · exact .refuse _
  · split
    · exact .refuse _
    · exact .refuse _
  · split
    · exact .refuse _
    · exact .finished _ _ _

theorem replies_idPin (b : List Byte) (s : State) : Replies .idPin tag s (serveIdPin tag b s) := by
  have pinned : ∀ x o c, Replies .idPin tag s (pinIdentity tag x o c s) := by
    intro x o c
    unfold pinIdentity
    split
    · split
      · split
        · exact .refuse _
        · exact .done _ _ _
      · exact .inr (.inr rfl)
    · split
      · exact .done _ _ _
      · exact .refuse _
  unfold serveIdPin
  split
  · exact .refuse _
  · exact pinned _ _ _
  · exact pinned _ _ _

theorem replies_wake (b : List Byte) (s : State) : Replies .wake tag s (serveWake tag b s) := by
  unfold serveWake
  dsimp only
  split
  · exact .refuse _
  · split
    · exact .finished false _ _
    · exact .refuse _

theorem replies_stationSet (b : List Byte) (s : State) : Replies .stationSet tag s (serveStationSet tag b s) := by
  unfold serveStationSet
  dsimp only
  split
  · split
    · exact .refuse _
    · split
      · exact .refuse _
      · split
        · exact .refuse _
        · exact .finished _ _ _
  · exact .refuse _

theorem replies_settle (b : List Byte) (s : State) : Replies .settle tag s (serveSettle tag b s) := by
  unfold serveSettle
  dsimp only
  split
  · exact .refuse _
  · split
    · exact .refuse _
    · split
      · exact .answer _ _
      · exact .inr (.inr rfl)

/-- Every request but the two that wait for a lane is answered as `Replies` says. -/
theorem replies_serve (h : k ≠ .attrGet) (h' : k ≠ .attrSet) (tag : Byte) (b : List Byte) (s : State) :
    Replies k tag s (serve k tag b s) := by
  cases k <;> simp only [serve]
  case attrGet => exact absurd rfl h
  case attrSet => exact absurd rfl h'
  case describe => exact .answer _ _
  case clock => exact .answer _ _
  case restart =>
    unfold serveRestart
    split
    · exact .refuse _
    · exact .done false _ _
  case stationSet => exact replies_stationSet b s
  case stationGet =>
    unfold serveStationGet
    split
    · exact .answer _ _
    · exact .refuse _
  case budgetSet => exact .done _ _ _
  case portSet =>
    unfold servePortSet
    split
    · exact .finished _ _ _
    · exact .refuse _
  case cameraGet =>
    unfold serveCameraGet
    split
    · exact .refuse _
    · exact .inr (.inl (lastIsOk_answer (.inl rfl) _ s))
  case clearFault =>
    unfold serveClearFault
    split
    · exact .refuse _
    · split
      · exact .finished false _ _
      · exact .refuse _
  case wake => exact replies_wake b s
  case pause =>
    unfold servePause
    split
    · split
      · exact .finished false _ _
      · exact .refuse _
    · exact .refuse _
  case cuePost => exact replies_cuePost b s
  case cueCancel => exact replies_cueCancel b s
  case cueList =>
    unfold serveCueList
    dsimp only
    split
    · exact .refuse _
    · exact .answer _ _
  case settle => exact replies_settle b s
  case aheadWake => exact replies_aheadWake b s
  case aheadDrop =>
    unfold serveAheadDrop
    dsimp only
    split
    · exact .refuse _
    · exact .finished false _ _
  case fireUnlock =>
    unfold serveFireUnlock
    dsimp only
    split
    · exact .refuse _
    · split
      · exact .finished false _ _
      · exact .answer _ _
  case idList =>
    unfold serveIdList
    dsimp only
    split
    · exact .refuse _
    · exact .answer _ _
  case idPin => exact replies_idPin b s
  case idUnpin =>
    unfold serveIdUnpin
    split
    · exact .refuse _
    · exact .done false _ _
  case idClear =>
    unfold serveIdClear
    split
    · exact .refuse _
    · exact .done false _ _
  case idAging =>
    unfold serveIdAging
    dsimp only
    split
    · exact .done false _ _
    · exact .done true _ _
  case trapSet =>
    unfold serveTrapSet
    split
    · exact .done false _ _
    · exact .refuse _
  case trapGet =>
    unfold serveTrapGet
    split
    · exact .answer _ _
    · exact .refuse _
  case eventsFetch => exact .finished _ _ _

/-- Settles O11: of the ways `Replies` gives, a status other than OK and OK_CLAMPED leaves the first. -/
theorem refusalLeavesState : Obligations.RefusalLeavesState := by
  intro k r s t code rest h h' ht he hl h0 h1
  rw [exec_taken ht, Host.Outcome.next.injEq] at he
  have rep := replies_serve h h' r.tag r.body s
  rw [he] at rep
  rcases rep with ⟨st, c, rfl⟩ | ⟨pre, e, c, rest', hpre, hbody, hc⟩ | hlen
  · rw [line_answer] at hl
    obtain ⟨hst, hcs⟩ : st.code = code ∧ c = rest := by simpa using hl
    rw [answer_eq, hst, hcs]
  · rw [hl] at hpre
    have last := (List.append_inj' hpre rfl).2
    simp only [List.cons.injEq, and_true] at last
    rw [← last] at hbody
    obtain ⟨hcode, _⟩ : code = c ∧ rest = rest' := by simpa using hbody
    rcases hc with hc | hc
    · exact absurd (hcode.trans hc) h0
    · exact absurd (hcode.trans hc) h1
  · rw [hl] at hlen
    simp at hlen

end Refusals

end Sys2Proof.Machine

namespace Sys2Proof.Machine

/-! ## What the operations of one port's record leave unchanged

They write the ports and hand CAMERA_CHANGE reports to the link, and nothing else. -/

section Around

variable {s t u : State} {p q : PortId}

/-- Everything of the machine but the ports and the report queue. -/
def State.around (s : State) := (s.outer, s.cues, s.adv, s.eventsMark, s.inXfer)

/-- The parts of `State.around`, one by one. -/
theorem around_parts (h : t.around = s.around) : t.outer = s.outer ∧ t.cues = s.cues ∧ t.adv = s.adv ∧
    t.eventsMark = s.eventsMark ∧ t.inXfer = s.inXfer := by
  simpa [State.around] using h

/-- A state is its ports and its reports, and the rest. -/
theorem eq_of_around (h : t.around = s.around) : t = { s with ports := t.ports, reports := t.reports } := by
  cases s
  cases t
  simp_all [State.around, State.outer, State.still]

@[simp] theorem around_modPort (p : PortId) (f : Port → Port) (s : State) : (s.modPort p f).around = s.around := rfl
@[simp] theorem around_setResv (p : PortId) (r : Option Reservation) (s : State) : (setResv p r s).around = s.around := rfl
@[simp] theorem around_withdraw (p : PortId) (s : State) : (withdraw p s).around = s.around := rfl
@[simp] theorem around_commit (p : PortId) (s : State) : (commit p s).around = s.around := rfl
@[simp] theorem around_setLane (p : PortId) (e : Option Exchange) (s : State) : (setLane p e s).around = s.around := rfl
@[simp] theorem around_dropOrder (p : PortId) (s : State) : (dropOrder p s).around = s.around := rfl
@[simp] theorem around_setOrder (p : PortId) (o : Order) (s : State) : (setOrder p o s).around = s.around := rfl
@[simp] theorem around_enqueueJob (p : PortId) (k : JobKind) (s : State) : (enqueueJob p k s).around = s.around := rfl
@[simp] theorem around_setHead (p : PortId) (k : JobKind) (s : State) : (setHead p k s).around = s.around := rfl
@[simp] theorem around_markStarted (p : PortId) (s : State) : (markStarted p s).around = s.around := rfl
@[simp] theorem around_dropAhead (p : PortId) (s : State) : (dropAhead p s).around = s.around := rfl

@[simp] theorem around_markPort (p : PortId) (s : State) : (markPort p s).around = s.around := by
  unfold markPort
  repeat' split
  all_goals rfl

@[simp] theorem around_setOffload (p : PortId) (v : Bool) (s : State) : (setOffload p v s).around = s.around := by
  unfold setOffload
  split
  all_goals simp

@[simp] theorem around_setMediaFull (p : PortId) (v : Bool) (s : State) : (setMediaFull p v s).around = s.around := by
  unfold setMediaFull
  split
  all_goals simp

@[simp] theorem around_setHostPause (p : PortId) (v : Bool) (s : State) : (setHostPause p v s).around = s.around := by
  unfold setHostPause
  split
  all_goals simp

@[simp] theorem around_settleCommitment (p : PortId) (s : State) : (settleCommitment p s).around = s.around := by
  unfold settleCommitment
  split
  all_goals rfl

@[simp] theorem around_releaseResv (p : PortId) (s : State) : (releaseResv p s).around = s.around := by
  simp [releaseResv]

@[simp] theorem around_releaseUnstarted (p : PortId) (s : State) : (releaseUnstarted p s).around = s.around := by
  unfold releaseUnstarted
  split
  all_goals simp

@[simp] theorem around_setPower (p : PortId) (new : Power) (s : State) : (setPower p new s).around = s.around := by
  unfold setPower
  dsimp only
  split
  all_goals simp

@[simp] theorem around_startRest (p : PortId) (s : State) : (startRest p s).around = s.around := by
  unfold startRest
  split
  all_goals rfl

@[simp] theorem around_dropHold (cue : Nat) (p : PortId) (s : State) : (dropHold cue p s).around = s.around := by
  unfold dropHold
  repeat' split
  all_goals rfl

@[simp] theorem around_handOver (p : PortId) (s : State) : (handOver p s).around = s.around := by
  unfold handOver
  repeat' split
  all_goals rfl

@[simp] theorem around_enterDoze (p : PortId) (s : State) : (enterDoze p s).around = s.around := by
  simp [enterDoze]

@[simp] theorem around_startKeepwarm (p : PortId) (s : State) : (startKeepwarm p s).around = s.around := by
  unfold startKeepwarm
  split
  all_goals simp

@[simp] theorem around_enterKeepwarm (p : PortId) (s : State) : (enterKeepwarm p s).around = s.around := by
  simp [enterKeepwarm]

@[simp] theorem around_placeAsap (p : PortId) (s : State) : (placeAsap p s).around = s.around := by
  unfold placeAsap
  repeat' split
  all_goals simp

@[simp] theorem around_startDeepWake (p : PortId) (r : Reservation) (s : State) :
    (startDeepWake p r s).around = s.around := by
  simp [startDeepWake]

@[simp] theorem around_startResume (p : PortId) (f : Forecast) (s : State) : (startResume p f s).around = s.around := by
  unfold startResume
  split
  all_goals simp

@[simp] theorem around_startWaitingResume (p : PortId) (s : State) : (startWaitingResume p s).around = s.around := by
  unfold startWaitingResume
  split
  all_goals simp

@[simp] theorem around_returnOrder (p : PortId) (o : Order) (s : State) : (returnOrder p o s).around = s.around := by
  unfold returnOrder
  split
  all_goals rfl

@[simp] theorem around_clearOwed (p : PortId) (s : State) : (clearOwed p s).around = s.around := by
  unfold clearOwed
  split
  all_goals rfl

@[simp] theorem around_setPhase (p : PortId) (ph : Phase) (o : Option WakeEx) (s : State) :
    (setPhase p ph o s).around = s.around := by
  unfold setPhase
  split
  all_goals rfl

@[simp] theorem around_dropPending (p : PortId) (s : State) : (dropPending p s).around = s.around := by
  unfold dropPending
  split
  all_goals rfl

/-! ### The reports of one port -/

/-- The reports that have joined the queue from s to t are CAMERA_CHANGEs of one port. -/
def ReportsOf (p : PortId) (s t : State) : Prop := ∀ q ∈ t.reports, q ∈ s.reports ∨ q = .camera p

namespace ReportsOf

theorem refl (p : PortId) (s : State) : ReportsOf p s s := fun _ => .inl

theorem trans (h : ReportsOf p s t) (g : ReportsOf p t u) : ReportsOf p s u := fun q hq => (g q hq).elim (h q) .inr

theorem markPort (p : PortId) (s : State) : ReportsOf p s (markPort p s) := by
  unfold Machine.markPort
  repeat' split
  case isFalse.isFalse.isFalse.isTrue =>
    intro q hq
    simpa using hq
  all_goals exact refl p s

theorem setOffload (p : PortId) (v : Bool) (s : State) : ReportsOf p s (setOffload p v s) := by
  unfold Machine.setOffload
  split
  · exact refl p s
  · exact markPort p _

theorem settleCommitment (p : PortId) (s : State) : ReportsOf p s (settleCommitment p s) := by
  unfold Machine.settleCommitment
  split
  all_goals exact refl p s

theorem setPower (p : PortId) (new : Power) (s : State) : ReportsOf p s (setPower p new s) := by
  unfold Machine.setPower
  dsimp only
  refine trans ?_ (settleCommitment p _)
  split
  · exact markPort p _
  · exact refl p s

end ReportsOf

/-! ### Marks and the camera state -/

/-- A port that is marked owes its CAMERA_CHANGE. -/
theorem marked_markPort (p : PortId) (s : State) : (markPort p s).marked p := by
  unfold markPort
  repeat' split
  case isFalse.isFalse.isTrue => exact .inr (List.contains_iff_mem.1 ‹_›)
  case isFalse.isFalse.isFalse.isTrue => exact .inr (by simp)
  all_goals exact .inl (by simp [*])

/-- The commitment of a port in a state (R84). -/
theorem port_settleCommitment_eq (p : PortId) (s : State) : (settleCommitment p s).port p = { s.port p with
    commitment := if (s.port p).power.awakeState = false ∧ (s.port p).resv = none then none else (s.port p).commitment } := by
  unfold settleCommitment
  by_cases h : (s.port p).power.awakeState = false ∧ (s.port p).resv = none
  · rw [if_pos (by simp [h]), if_pos h, port_modPort_self]
  · rw [if_neg (by simpa using h), if_neg h]

/-- A port's record after the setter of the camera state: `Port.enter`, the commitment by R84, and the mark. -/
theorem port_setPower_eq (p : PortId) (new : Power) (s : State) : (setPower p new s).port p =
    { Port.enter s.clock new (s.port p) with
      commitment := if new.awakeState = false ∧ (s.port p).resv = none then none else (s.port p).commitment
      camMark := ((setPower p new s).port p).camMark } := by
  have fig := figures_enter (s.port p) s.clock new
  simp only [Port.figures, Prod.mk.injEq] at fig
  have settled : ∀ u : State, (u.port p).unmarked = (Port.enter s.clock new (s.port p)).unmarked →
      (settleCommitment p u).port p = { Port.enter s.clock new (s.port p) with
        commitment := if new.awakeState = false ∧ (s.port p).resv = none then none else (s.port p).commitment
        camMark := ((settleCommitment p u).port p).camMark } := by
    intro u h
    rw [port_settleCommitment_eq, Port.eq_of_unmarked h]
    simp only [power_enter, fig]
  unfold setPower
  dsimp only
  apply settled
  split
  · rw [unmarked_markPort, port_modPort_self]
  · rw [port_modPort_self]

/-- A change of state marks the port (R2). -/
theorem marked_setPower {new : Power} (h : (s.port p).power.code ≠ new.code) : (setPower p new s).marked p := by
  unfold setPower
  dsimp only
  rw [if_pos (by simpa using h)]
  exact (OnPort.refl p _).settleCommitment.marks p (marked_markPort p _)

/-- The record of a port, the mark aside, after a flag is set. -/
theorem port_setOffload_eq (p : PortId) (v : Bool) (s : State) : (setOffload p v s).port p =
    { s.port p with offload := v, camMark := ((setOffload p v s).port p).camMark } := by
  unfold setOffload
  split
  · rename_i h
    rw [← h]
  · refine Port.eq_of_unmarked (d := { s.port p with offload := v }) ?_
    rw [unmarked_markPort, port_modPort_self]

/-- With no cue in the list there are no settings to lose. -/
theorem loseSettings_empty (h : s.cues = []) (p : PortId) : loseSettings p s = s := by
  simp [loseSettings, h, forEach]

end Around

/-! ## The master reset -/

section MasterReset

variable {s w : State} {p : PortId}

/-- The machine at a master reset, before the presence inputs are sampled. -/
def State.cleared (s : State) : State :=
  { State.reset with ports := s.ports.map Port.masterReset, freeCount := s.freeCount, pending := s.pending }

theorem port_cleared (s : State) (p : PortId) : s.cleared.port p = (s.port p).masterReset := by
  simp [State.cleared, State.port]

/-- The record of a port that finds its presence input high at a master reset (R28, R4, log 47). -/
def Port.risen (c : Port) : Port :=
  { Port.reset with
    presence := true
    attention := c.attention
    power := .deep
    resync := true
    queue := ⟨.identify [], false, false, false⟩ :: (if c.attention then [⟨.poll, false, false, false⟩] else []) }

/-- A presence rise on a port whose record is the one at reset, with no cue and no advance entry in the machine. -/
theorem presenceRise_cleared {c : Port} (hp : w.port p = c.masterReset) (h : c.presence = true) (hc : w.cues = [])
    (ha : w.adv = []) : (presenceRise p w).around = w.around ∧ (presenceRise p w).marked p ∧
      ReportsOf p w (presenceRise p w) ∧
      (presenceRise p w).port p = { c.risen with camMark := ((presenceRise p w).port p).camMark } := by
  let v : State := w.modPort p ({ · with
    hostPause := false, offload := false, mediaFull := false, run := 0, grade := none, pollBit := false, resync := true })
  have hv : v.port p = { c.masterReset with resync := true } := by
    simp only [v, port_modPort_self, hp]
    rfl
  have risen : presenceRise p w =
      (clearEntries p (setOffload p false (setPower p .deep v))).modPort p (fun c => c.oweIdentify.testPoll) := by
    unfold presenceRise
    rw [if_pos (by rw [hp]; rfl)]
    have none : (clearEntries p (setOffload p false (setPower p .deep v))).cues = [] := by
      show (setOffload p false (setPower p .deep v)).cues = []
      rw [(around_parts (around_setOffload p false _)).2.1, (around_parts (around_setPower p .deep v)).2.1]
      exact hc
    exact congrArg (State.modPort · p _) (loseSettings_empty none p)
  have same : clearEntries p (setOffload p false (setPower p .deep v)) = setOffload p false (setPower p .deep v) := by
    have : (setOffload p false (setPower p .deep v)).adv = [] := by
      rw [(around_parts (around_setOffload p false _)).2.2.1, (around_parts (around_setPower p .deep v)).2.2.1]
      exact ha
    unfold clearEntries
    rw [this, List.filter_nil, ← this]
  rw [risen, same]
  refine ⟨?_, ?_, ?_, ?_⟩
  · rw [around_modPort, around_setOffload, around_setPower]
    rfl
  · refine (((OnPort.refl p _).setOffload false).modPort _ (by simp)).marks p (marked_setPower ?_)
    rw [hv]
    exact (by decide : Power.code .vacant ≠ Power.code .deep)
  · exact (ReportsOf.setPower p .deep v).trans (ReportsOf.setOffload p false _)
  · rw [port_modPort_self, port_setOffload_eq, port_setPower_eq, hv]
    cases ha : c.attention <;>
      simp [Port.masterReset, Port.reset, Port.enter, Port.railChange, Power.railOn, Port.dropResumeWait,
        Power.isKeepwarm, Power.awakeState, Port.oweIdentify, Port.queuedIdle, Port.enqueue, Port.hasRoom, pushJob,
        Job.mk', Port.testPoll, Port.pollOwed, Power.isVacant, Port.risen, h, ha, Job.isPoll, Config.queueSize]

/-- What every port's sampling has kept on the way through a master reset. -/
structure Sampling (s u : State) : Prop where
  around : u.around = s.cleared.around
  reports : ∀ q ∈ u.reports, ∃ p, (s.port p).presence = true ∧ q = .camera p

/-- One port samples its presence input. -/
def sample (p : PortId) (s : State) : State := if (s.port p).presence then presenceRise p s else s

theorem presence_cleared (h : w.port p = s.cleared.port p) : (w.port p).presence = (s.port p).presence := by
  rw [h, port_cleared]
  rfl

theorem Sampling.sample (h : Sampling s w) (hp : w.port p = s.cleared.port p) : Sampling s (sample p w) := by
  unfold Machine.sample
  split
  · rename_i hr
    obtain ⟨_, hc, ha, _⟩ := around_parts h.around
    obtain ⟨har, _, hrep, _⟩ := presenceRise_cleared (hp.trans (port_cleared s p)) (presence_cleared hp ▸ hr) hc ha
    refine ⟨har.trans h.around, fun q hq => ?_⟩
    rcases hrep q hq with hq | hq
    · exact h.reports q hq
    · exact ⟨p, presence_cleared hp ▸ hr, hq⟩
  · exact h

theorem onPort_sample (p : PortId) (s : State) : OnPort p s (sample p s) :=
  (OnPort.refl p s).presenceRise.ite (.refl p s)

/-- The marks of the ports whose presence input was high stand to the end. -/
theorem marked_forEach_sample {ps : List PortId} {u : State} (h : u.marked p) : (forEach ps sample u).marked p := by
  induction ps generalizing u with
  | nil => exact h
  | cons q qs ih => exact ih ((onPort_sample q u).marks p h)

theorem marked_sampled {ps : List PortId} (nodup : ps.Nodup) (hp : p ∈ ps) {u : State} (hs : Sampling s u)
    (same : ∀ q ∈ ps, u.port q = s.cleared.port q) (h : (s.port p).presence = true) :
    (forEach ps sample u).marked p := by
  induction ps generalizing u with
  | nil => cases hp
  | cons q qs ih =>
    obtain ⟨hq, nodup⟩ := List.nodup_cons.1 nodup
    have hqs := same q List.mem_cons_self
    rcases List.mem_cons.1 hp with rfl | hp
    · have hr := (presence_cleared hqs).trans h
      obtain ⟨_, hc, ha, _⟩ := around_parts hs.around
      have now : (sample p u).marked p := by
        unfold sample
        rw [if_pos hr]
        exact (presenceRise_cleared (hqs.trans (port_cleared s p)) h hc ha).2.1
      exact marked_forEach_sample (ps := qs) now
    · refine ih nodup hp (hs.sample hqs) fun r hr => ?_
      exact ((onPort_sample q u).others r (fun e => hq (e ▸ hr))).trans (same r (List.mem_cons_of_mem _ hr))

/-- Settles O6: the ports are sampled one after another, each from its record at reset. -/
theorem masterResetState : Obligations.MasterResetState := by
  intro s
  have start : Sampling s s.cleared := ⟨rfl, by simp [State.cleared, State.reset]⟩
  obtain ⟨reached, _, sampled⟩ := forEach_ports (s := s.cleared) (P := Sampling s) sample onPort_sample
    (fun _ _ h hp => h.sample hp) allPorts nodup_allPorts s.cleared start (fun _ _ => rfl)
  have marks := fun p => marked_sampled (p := p) nodup_allPorts (mem_allPorts p) start (fun _ _ => rfl)
  generalize hu : forEach allPorts sample s.cleared = u at reached sampled marks
  have eq := eq_of_around reached.around
  have low : ∀ p, (s.port p).presence = false →
      u.port p = { Port.reset with presence := false, attention := (s.port p).attention } := by
    intro p hp
    obtain ⟨w, _, hw, hup⟩ := sampled p (mem_allPorts p)
    rw [hup, sample, if_neg (by rw [presence_cleared hw, hp]; decide), hw, port_cleared, Port.masterReset, hp]
  have high : ∀ p, (s.port p).presence = true → u.port p = { (s.port p).risen with camMark := (u.port p).camMark } := by
    intro p hp
    obtain ⟨w, sw, hw, hup⟩ := sampled p (mem_allPorts p)
    obtain ⟨_, hc, ha, _⟩ := around_parts sw.around
    rw [hup, sample, if_pos ((presence_cleared hw).trans hp)]
    exact (presenceRise_cleared (hw.trans (port_cleared s p)) hp hc ha).2.2.2
  refine ⟨u, by rw [← hu]; rfl, eq, ?_⟩
  obtain ⟨houter, hcues, hadv, hmark, hxfer⟩ := around_parts reached.around
  obtain ⟨hstill, htable, howner, hlock, hwaiting, hevents, hline, hsettles, hready⟩ := outer_parts houter
  refine ⟨hmark, hstill, hcues, howner, hlock, hwaiting, hadv, hevents, hline, hready, hxfer, htable, hsettles,
    reached.reports, low, fun p hp => ⟨high p hp, marks p hp, ?_⟩⟩
  rw [high p hp]
  exact ⟨rfl, rfl, rfl, rfl, rfl, rfl, rfl, rfl, rfl, rfl, rfl, rfl, rfl, rfl, rfl, rfl, rfl, rfl, rfl, rfl⟩

end MasterReset

end Sys2Proof.Machine

namespace Sys2Proof.Machine

/-! ## The IN endpoint -/

section InTransfer

variable {s t : State} {x : InXfer}

theorem exec_inTransfer (ha : s.attached = true) (hx : s.inXfer = none) : exec .inTransfer s = .next (beginIn s) := by
  show execInTransfer s = _
  simp [execInTransfer, ha, hx]

theorem exec_inTransferComplete (hx : s.inXfer = some x) : exec .inTransferComplete s = .next (completeIn x s) := by
  show execInTransferComplete s = _
  simp [execInTransferComplete, hx]

theorem exec_inTransferAbandoned (hx : s.inXfer = some x) : exec .inTransferAbandoned s = .next (abandonIn x s) := by
  show execInTransferAbandoned s = _
  simp [execInTransferAbandoned, hx]

theorem reportSource_none (h : s.reports = [] ∨ s.restart.isSome = true) : s.reportSource = none := by
  unfold State.reportSource
  rcases h with h | h
  · simp [h]
  · simp [Option.isSome_iff_ne_none.1 h]

theorem reportSource_some {q : Report} {qs : List Report} (h : s.reports = q :: qs) (hr : s.restart = none) :
    s.reportSource = some .report := by
  simp [State.reportSource, h, hr]

theorem headReady_false (h : ∀ e es, s.line = e :: es → e.body = none) : s.headReady = false := by
  unfold State.headReady
  split
  · simp [h _ _ ‹_›]
  · rfl

theorem replySource_none (hs : s.settleReady = []) (h : ∀ e es, s.line = e :: es → e.body = none) :
    s.replySource = none := by
  simp [State.replySource, hs, headReady_false h]

/-- A reply is sent where there is no report to send, or the report queue was served last (R183). -/
theorem freshSource_reply {r : InSource} (h : s.replySource = some r)
    (hq : s.reports = [] ∨ s.restart.isSome = true ∨ s.lastReport = true) : s.freshSource = r := by
  unfold State.freshSource
  rw [h]
  cases hr : s.reportSource with
  | none => rfl
  | some q =>
    have last : s.lastReport = true := by
      by_contra hl
      have := reportSource_none (s := s) (by tauto)
      simp [this] at hr
    simp [last]

/-- A report is sent where there is no reply to send, or a reply was served last (R183). -/
theorem freshSource_report (h : s.reportSource = some .report) (hr : s.lastReport = false ∨ s.replySource = none) :
    s.freshSource = .report := by
  unfold State.freshSource
  rw [h]
  cases hq : s.replySource with
  | none => rfl
  | some r =>
    have last : s.lastReport = false := by simpa [hq] using hr
    simp [last]

theorem inSource_fresh (h : s.resend = none) : s.inSource = s.freshSource := by
  simp [State.inSource, h]

theorem beginIn_settle {q : SettleReply} {qs : List SettleReply} (hs : s.settleReady = q :: qs) (h : s.inSource = .settle) :
    beginIn s = { s with inXfer := some ⟨.settle, message 0x90#8 q.tag q.body, false, false, false⟩
                         lastReport := false
                         resend := none } := by
  simp only [beginIn, h, State.inMessage, hs]
  rfl

theorem beginIn_replyLine {e : ReplyEntry} {es : List ReplyEntry} {b : List Byte} (hl : s.line = e :: es)
    (hb : e.body = some b) (h : s.inSource = .replyLine) :
    beginIn s = { s with inXfer := some ⟨.replyLine, message e.kind e.tag b, false, false, false⟩
                         lastReport := false
                         resend := none } := by
  simp only [beginIn, h, State.inMessage, hl, hb]
  rfl

theorem beginIn_report {q : Report} {qs : List Report} (hq : s.reports = q :: qs) (h : s.inSource = .report) :
    beginIn s = { s with
      inXfer := some ⟨.report, reportMessage q s, s.carried .report (·.gradeChanged), s.carried .report (·.noteAbandoned),
        s.carried .report (·.noteConflict)⟩
      lastReport := true
      resend := none } := by
  simp only [beginIn, h, State.inMessage, hq]

theorem beginIn_noData (h : s.inSource = .noData) : beginIn s = { s with
    inXfer := some ⟨.noData, [], false, false, false⟩, resend := none } := by
  simp only [beginIn, h, State.inMessage]
  rfl

/-- A message to send again that was not there is none. -/
theorem resend_none (h : s.resend = none) (x : Option InXfer) (l : Bool) :
    { s with inXfer := x, lastReport := l, resend := none } = { s with inXfer := x, lastReport := l } := by
  rw [State.mk.injEq]
  simp [h]

/-- Settles O15: the source, by what there is to send, and the message that it gives. -/
theorem inTransferChooses : Obligations.InTransferChooses := by
  intro s ha hx hr
  rw [exec_inTransfer ha hx]
  refine ⟨fun q qs hs hq => ?_, fun e es b hs hl hb hq => ?_, fun q qs hq hn hs => ?_, fun hs hl hq => ?_⟩
  · have src : s.inSource = .settle := by
      rw [inSource_fresh hr]
      exact freshSource_reply (by simp [State.replySource, hs]) hq
    rw [beginIn_settle hs src, resend_none hr]
  · have src : s.inSource = .replyLine := by
      rw [inSource_fresh hr]
      exact freshSource_reply (by simp [State.replySource, hs, State.headReady, hl, hb]) hq
    rw [beginIn_replyLine hl hb src, resend_none hr]
  · have src : s.inSource = .report := by
      rw [inSource_fresh hr]
      exact freshSource_report (reportSource_some hq hn) (hs.imp_right fun ⟨hs, hl⟩ => replySource_none hs hl)
    rw [beginIn_report hq src, resend_none hr]
    refine ⟨_, rfl, rfl, fun p hp => ?_, fun b hb => ?_, fun he => ?_⟩
    · simp [reportMessage, State.carried, State.headCamera, hq, hp]
    · simp [reportMessage, State.carried, State.headCamera, hq, hb]
    · simp [reportMessage, State.carried, State.headCamera, hq, he]
  · have src : s.inSource = .noData := by
      rw [inSource_fresh hr]
      simp [State.freshSource, replySource_none hs hl, reportSource_none hq]
    rw [beginIn_noData src]
    exact congrArg Host.Outcome.next (resend_none hr _ s.lastReport)

/-! ### The end of an IN transfer -/

theorem lowestMarked_none (h : ∀ q, (s.port q).camMark = false) : s.lowestMarked = none := by
  simp [State.lowestMarked, h]

/-- The ports ascend in the list of them all. -/
theorem pairwise_allPorts : allPorts.Pairwise (· < ·) := by decide

theorem find?_allPorts {f : PortId → Bool} {p : PortId} (h : f p = true) (low : ∀ q, q < p → f q = false) :
    allPorts.find? f = some p := by
  obtain ⟨as, bs, hl⟩ := List.append_of_mem (mem_allPorts p)
  have sorted := pairwise_allPorts
  rw [hl, List.pairwise_append] at sorted
  have none : as.find? f = none := by
    rw [List.find?_eq_none]
    intro q hq
    simpa using low q (sorted.2.2 q hq p List.mem_cons_self)
  rw [hl, List.find?_append, none, Option.none_or, List.find?_cons_of_pos h]

/-- No mark waits: a freed place of the report queue stays free. -/
theorem serveMark_none (hc : ∀ c ∈ s.cues, c.mark = false) (he : s.eventsMark = false)
    (hp : ∀ q, (s.port q).camMark = false) : serveMark s = s := by
  have : s.cues.find? (fun c => c.mark) = none := by simpa using hc
  simp [serveMark, this, he, serveCamMark, lowestMarked_none hp]

/-- The first marked cue of the list is reported and leaves it. -/
theorem serveMark_cue {c : Cue} (hc : s.cues.find? (fun c => c.mark) = some c)
    (hu : ∀ d ∈ s.cues, d.id = c.id → d = c) (room : s.reports.length < 16) : serveMark s = { s with
      reports := s.reports ++ [.cueDone c.doneBody], cues := s.cues.filter (fun d => d.id != c.id) } := by
  have named : s.cue? c.id = some c := by
    unfold State.cue?
    cases hf : s.cues.find? (fun d => d.id == c.id) with
    | none => exact absurd (List.mem_of_find?_eq_some hc) (by simpa using fun h => (List.find?_eq_none.1 hf) c h (by simp))
    | some d => rw [hu d (List.mem_of_find?_eq_some hf) (by simpa using List.find?_some hf)]
  simp only [serveMark, hc, reportCue, named, Config.reportCapacity, room, if_true]
  rfl

theorem serveMark_events (hc : ∀ c ∈ s.cues, c.mark = false) (he : s.eventsMark = true) (hn : s.events ≠ []) :
    serveMark s = { s with reports := s.reports ++ [.events], eventsMark := false } := by
  have : s.cues.find? (fun c => c.mark) = none := by simpa using hc
  simp [serveMark, this, he, hn]

/-- The lowest marked port is served when no cue is marked and there are no events to report. -/
theorem serveMark_camera {p : PortId} (hc : ∀ c ∈ s.cues, c.mark = false) (he : s.eventsMark = false ∨ s.events = [])
    (hm : (s.port p).camMark = true) (low : ∀ q, q < p → (s.port q).camMark = false) :
    serveMark s = { s with reports := s.reports ++ [Report.camera p], eventsMark := false }.modPort p
      ({ · with camMark := false }) := by
  have none : s.cues.find? (fun c => c.mark) = none := by simpa using hc
  have served : ∀ t : State, t.ports = s.ports → serveCamMark t =
      { t with reports := t.reports ++ [Report.camera p] }.modPort p ({ · with camMark := false }) := by
    intro t ht
    have : t.lowestMarked = some p := find?_allPorts (by simpa [State.port, ht] using hm)
      fun q hq => by simpa [State.port, ht] using low q hq
    simp only [serveCamMark, this]
    rfl
  unfold serveMark
  rw [none]
  dsimp only
  split
  · rename_i hmark
    have empty : s.events.isEmpty = true := by simpa using he.resolve_left (by simp [hmark])
    rw [if_pos empty, served { s with eventsMark := false } rfl]
  · rename_i hmark
    have : s.eventsMark = false := by simpa using hmark
    rw [served s rfl, ← this]

/-- The report sent is no CAMERA_CHANGE: it leaves its queue, and one mark is served. -/
theorem completeIn_report {q : Report} {qs : List Report} (hs : x.source = .report) (hq : s.reports = q :: qs)
    (hn : ∀ p, q ≠ .camera p) : completeIn x s = serveMark { s with inXfer := none, reports := qs } := by
  have head : ({ s with inXfer := none } : State).headCamera = none := by
    unfold State.headCamera
    split
    · rename_i p _ h
      exact absurd (List.cons.inj (hq.symm.trans h)).1 (hn p)
    · rfl
  have cleared : clearSent x { s with inXfer := none } = { s with inXfer := none } := by
    unfold clearSent
    rw [head]
  have sent : completeIn x s = reportSent x { s with inXfer := none } := by simp only [completeIn, hs]
  rw [sent, reportSent, cleared]
  simp only [hq, List.tail_cons]

/-- Settles O16: the source that loses its message, the marks that a freed place serves, and the message sent again. -/
theorem inTransferEnds : Obligations.InTransferEnds := by
  refine ⟨fun s x hx => ?_, fun s x hx => ?_, fun s x q qs hx hs hq hlen hn => ?_⟩
  · rw [exec_inTransferComplete hx]
    refine ⟨fun h => ?_, fun h => ?_, fun e es h hl hr hh => ?_, fun e es r h hl hr => ?_, fun p qs h hq hc he hm => ?_⟩
    · simp only [completeIn, h]
    · simp only [completeIn, h]
    · simp only [completeIn, h, replySent, hl, hr]
      exact congrArg Host.Outcome.next (drainHeld_none hh)
    · simp only [completeIn, h, replySent, hl, hr, takeReset]
    · have sent : completeIn x s = serveMark ({ s with inXfer := none, reports := qs }.modPort p (fun c => { c with
          gradeChanged := c.gradeChanged && !x.grade
          noteAbandoned := c.noteAbandoned && !x.abandoned
          noteConflict := c.noteConflict && !x.conflict })) := by
        simp only [completeIn, h, reportSent, clearSent, State.headCamera, hq, clearCarried]
        rfl
      refine congrArg Host.Outcome.next (sent.trans (serveMark_none hc he fun q => ?_))
      rw [port_modPort]
      split
      · exact hm q
      · exact hm q
  · refine ⟨by rw [exec_inTransferAbandoned hx]; rfl, fun t q qs h hs ha ht => ?_⟩
    rw [exec_inTransferAbandoned hx, Host.Outcome.next.injEq] at ht
    have hres : t.resend = some .settle := by rw [← ht, abandonIn, h]; rfl
    have hset : t.settleReady = q :: qs := by rw [← ht]; exact hs
    have src : t.inSource = .settle := by simp [State.inSource, hres, hset]
    rw [exec_inTransfer (by rw [← ht]; exact ha) (by rw [← ht]; rfl), beginIn_settle hset src, ← ht]
    rfl
  · rw [exec_inTransferComplete hx, completeIn_report hs hq hn]
    have room : qs.length < 16 := by
      rw [hq, List.length_cons] at hlen
      omega
    refine ⟨fun c hc hu => ?_, fun hc he hev => ?_, fun p hc he hm low => ?_⟩
    · rw [serveMark_cue (s := { s with inXfer := none, reports := qs }) hc hu room]
    · rw [serveMark_events (s := { s with inXfer := none, reports := qs }) hc he hev]
    · rw [serveMark_camera (s := { s with inXfer := none, reports := qs }) hc he hm low]

end InTransfer

/-! ## Attempts -/

section Attempts

variable {s : State} {p : PortId} {e : Exchange}

theorem exec_laneResponse (he : (s.port p).lane = some e) (ha : s.attemptAge e ≤ 3) (st d ch : Byte) (a : Bool) :
    exec (.laneResponse p st d ch a) s =
      .next (finish (judgeResponse p e st d ch (s.modPort p ({ · with attention := a })))) := by
  show execLaneResponse p st d ch a s = _
  simp only [execLaneResponse, he, ha, if_true]

/-- The attempt that is made again in the place of one that failed. -/
def State.again (s : State) (e : Exchange) : Exchange := { e with retry := true, started := s.clock }

theorem attemptFailed_first (h : e.retry = false) (a : Bool) :
    attemptFailed p e (s.modPort p ({ · with attention := a })) =
      s.modPort p (fun c => { c with attention := a, lane := some (s.again e) }) := by
  simp only [attemptFailed, h, setLane, modPort_modPort]
  rfl

theorem exec_laneResponse_again (he : (s.port p).lane = some e) (hr : e.retry = false) (ha : s.attemptAge e ≤ 3)
    {st d ch : Byte} (hv : attemptSucceeds e st d ch = false) (a : Bool) : exec (.laneResponse p st d ch a) s =
      .next (finish (s.modPort p (fun c => { c with attention := a, lane := some (s.again e) }))) := by
  rw [exec_laneResponse he ha, judgeResponse, hv, if_neg Bool.false_ne_true, attemptFailed_first hr]

theorem isAck_xor (st : Byte) : isAck (st ^^^ 0x20#8) = isAck st := by
  revert st
  decide

theorem eventCode_xor (st : Byte) : eventCode (st ^^^ 0x20#8) = eventCode st := by
  revert st
  decide

/-- A response with its right check byte succeeds by its status and its echo alone (R30, R194). -/
theorem attemptSucceeds_iff (e : Exchange) (st d : Byte) : attemptSucceeds e st d (responseCheck st d) = true ↔
    st.toNat / 64 = 1 ∧ (e.op = .write → d = e.data) ∧ (e.op = .poll → st.toNat % 16 ≤ 9) := by
  unfold attemptSucceeds isAck eventCode
  cases e.op <;> simp

theorem ofCode_none {n : Nat} (h : n < 16) : EventKind.ofCode n = none ↔ n = 0 ∨ 10 ≤ n := by
  revert n
  decide

/-- Settles O18: the verdict by status, operation and echo, in which bit 5 of the status plays no part. -/
theorem responseVerdict : Obligations.ResponseVerdict := by
  refine ⟨attemptSucceeds_iff, fun e st d => ?_, fun st => ⟨Iff.rfl, ?_, rfl⟩, fun p s e st d a he ho hr ha hv => ?_⟩
  · simp only [attemptSucceeds, isAck_xor, eventCode_xor, beq_self_eq_true]
  · exact ofCode_none (Nat.mod_lt _ (by decide))
  · refine ⟨_, s.again e, exec_laneResponse_again he hr ha hv a, ?_, ho, rfl, rfl⟩
    rw [port_modPort_self]

/-- Settles O19: a failed first attempt is made again in the place of the first, and a late response finds none. -/
theorem attemptFailure : Obligations.AttemptFailure := by
  refine ⟨fun p s e a he hr => ⟨fun st d ch ha hv => exec_laneResponse_again he hr ha hv a, fun ha => ?_, rfl⟩,
    fun p s st d ch a h => ?_⟩
  · show execResponseLimitExpiry p a s = _
    simp only [execResponseLimitExpiry, he, State.limitMayBeReached, ha, decide_true, if_true, attemptFailed_first hr]
    rfl
  · show execLaneResponse p st d ch a s = _
    unfold execLaneResponse
    split
    · rw [if_neg (Nat.not_le.2 (h _ ‹_›))]
    · rfl

end Attempts

end Sys2Proof.Machine

namespace Sys2Proof.Machine

/-! ## Bytes and what is read from them -/

section Bytes

variable {a b : Byte} {l pre post : List Byte} {n i : Nat}

@[simp] theorem toNat_toByte (n : Nat) : (toByte n).toNat = n % 256 := BitVec.toNat_ofNat n 8

theorem toByte_congr {m : Nat} (h : m % 256 = n % 256) : toByte m = toByte n := by
  apply BitVec.eq_of_toNat_eq
  simpa using h

theorem u8_lt (l : List Byte) (i : Nat) : u8 l i < 256 := (l.getD i 0#8).isLt

@[simp] theorem u8_cons_zero (a : Byte) (l : List Byte) : u8 (a :: l) 0 = a.toNat := rfl
@[simp] theorem u8_cons_succ (a : Byte) (l : List Byte) (i : Nat) : u8 (a :: l) (i + 1) = u8 l i := rfl

/-- A body read past what stands before a field. -/
theorem u8_append (pre l : List Byte) (i : Nat) : u8 (pre ++ l) (pre.length + i) = u8 l i := by
  simp [u8, List.getD_eq_getElem?_getD, List.getElem?_append_right]

theorem u16_append (pre l : List Byte) (i : Nat) : u16 (pre ++ l) (pre.length + i) = u16 l i := by
  simp [u16, Nat.add_assoc, u8_append]

theorem u32_append (pre l : List Byte) (i : Nat) : u32 (pre ++ l) (pre.length + i) = u32 l i := by
  simp [u32, Nat.add_assoc, u16_append]

theorem identAt_append (pre l : List Byte) (i : Nat) : identAt (pre ++ l) (pre.length + i) = identAt l i := by
  simp [identAt, Nat.add_assoc, u8_append]

theorem profileAt_append (pre l : List Byte) (i : Nat) : profileAt (pre ++ l) (pre.length + i) = profileAt l i := by
  simp [profileAt, Nat.add_assoc, u8_append, u16_append]

/-! ### Fields read back -/

theorem u16_le16 (n : Nat) (l : List Byte) : u16 (le16 n ++ l) 0 = n % 65536 := by
  simp [u16, le16]
  omega

theorem u32_le32 (n : Nat) (l : List Byte) : u32 (le32 n ++ l) 0 = n % 4294967296 := by
  simp [u32, u16, le32]
  omega

/-- The six bytes of an identity, most significant first. -/
theorem identBytes_eq (x : Ident) : identBytes x = [toByte (x.toNat / 1099511627776), toByte (x.toNat / 4294967296),
    toByte (x.toNat / 16777216), toByte (x.toNat / 65536), toByte (x.toNat / 256), toByte x.toNat] := by
  simp [identBytes, List.range_succ]

theorem identAt_eq (l : List Byte) (i : Nat) : identAt l i = BitVec.ofNat 48
    (((((u8 l i * 256 + u8 l (i + 1)) * 256 + u8 l (i + 2)) * 256 + u8 l (i + 3)) * 256 + u8 l (i + 4)) * 256 +
      u8 l (i + 5)) := by
  simp [identAt, List.range_succ]

theorem identAt_identBytes (x : Ident) (l : List Byte) : identAt (identBytes x ++ l) 0 = x := by
  apply BitVec.eq_of_toNat_eq
  have := x.isLt
  simp only [identAt_eq, identBytes_eq, List.cons_append, List.nil_append, u8_cons_zero, u8_cons_succ, zero_add,
    BitVec.toNat_ofNat]
  omega

theorem profileAt_bytes {f : Profile} (h1 : f.resumeLatency < 256) (h2 : f.initMax < 65536) (h3 : f.deepInrush < 65536)
    (h4 : f.inrushSlots < 256) (h5 : f.awake < 65536) (h6 : f.resumeInrush < 65536) (l : List Byte) :
    profileAt (f.bytes ++ l) 0 = f := by
  cases f
  simp only [profileAt, Profile.bytes, le16, u16, List.cons_append, List.nil_append, u8_cons_zero, u8_cons_succ, zero_add,
    toNat_toByte, Profile.mk.injEq] at *
  omega

/-- The bytes of a number read from a body are the body's. -/
theorem le16_u16 (b : List Byte) (i : Nat) : le16 (u16 b i) = [toByte (u8 b i), toByte (u8 b (i + 1))] := by
  have := u8_lt b i
  simp only [le16, u16, List.cons.injEq, and_true]
  exact ⟨toByte_congr (by omega), toByte_congr (by omega)⟩

theorem le32_u32 (b : List Byte) (i : Nat) : le32 (u32 b i) =
    [toByte (u8 b i), toByte (u8 b (i + 1)), toByte (u8 b (i + 2)), toByte (u8 b (i + 3))] := by
  have h0 := u8_lt b i
  have h1 := u8_lt b (i + 1)
  have h2 := u8_lt b (i + 2)
  simp only [le32, u32, u16, Nat.add_assoc, Nat.reduceAdd, List.cons.injEq, and_true]
  exact ⟨toByte_congr (by omega), toByte_congr (by omega), toByte_congr (by omega), toByte_congr (by omega)⟩

theorem identBytes_identAt (b : List Byte) (i : Nat) : identBytes (identAt b i) = [toByte (u8 b i),
    toByte (u8 b (i + 1)), toByte (u8 b (i + 2)), toByte (u8 b (i + 3)), toByte (u8 b (i + 4)),
    toByte (u8 b (i + 5))] := by
  have h0 := u8_lt b i
  have h1 := u8_lt b (i + 1)
  have h2 := u8_lt b (i + 2)
  have h3 := u8_lt b (i + 3)
  have h4 := u8_lt b (i + 4)
  have h5 := u8_lt b (i + 5)
  simp only [identBytes_eq, identAt_eq, BitVec.toNat_ofNat, List.cons.injEq, and_true]
  exact ⟨toByte_congr (by omega), toByte_congr (by omega), toByte_congr (by omega), toByte_congr (by omega),
    toByte_congr (by omega), toByte_congr (by omega)⟩

/-! ### Lengths -/

@[simp] theorem length_le16 (n : Nat) : (le16 n).length = 2 := rfl
@[simp] theorem length_le32 (n : Nat) : (le32 n).length = 4 := rfl
@[simp] theorem length_identBytes (x : Ident) : (identBytes x).length = 6 := by simp [identBytes]
@[simp] theorem length_portSetBytes (ps : List PortId) : (portSetBytes ps).length = 4 := rfl
@[simp] theorem length_profileBytes' (f : Profile) : f.bytes.length = 10 := rfl

@[simp] theorem length_profileBytes (f : Option Profile) : (profileBytes f).length = 10 := by
  cases f <;> rfl

@[simp] theorem length_optTime (t : Option Nat) : (optTime t).length = 4 := by
  cases t <;> rfl

@[simp] theorem length_optIndex {n : Nat} (x : Option (Fin n)) : (optIndex x).length = 1 := by
  cases x <;> rfl

@[simp] theorem length_optCue (x : Option Nat) : (optCue x).length = 1 := by
  cases x <;> rfl

@[simp] theorem length_readingBytes (x : Option Nat) : (readingBytes x).length = 2 := by
  cases x <;> rfl

@[simp] theorem length_resvBytes (r : Option Reservation) : (resvBytes r).length = 14 := by
  cases r <;> simp [resvBytes]

@[simp] theorem length_cameraBytes (p : PortId) (s : State) : (cameraBytes p s).length = 66 := by
  simp [cameraBytes]

@[simp] theorem length_eventBytes (e : EventRec) : e.bytes.length = 14 := by
  simp [EventRec.bytes]

@[simp] theorem length_trapBytes (i : Nat) (q : TrapRule) : (q.bytes i).length = 21 := by
  simp [TrapRule.bytes]

@[simp] theorem length_stationBytes (st : StationId) (s : State) : (stationBytes st s).length = 30 := by
  simp [stationBytes]

/-- Settles O58: a field is read past what stands before it, and the lengths add up. -/
theorem bodiesReadBack : Obligations.BodiesReadBack := by
  refine ⟨fun pre post => ⟨fun n hn => ?_, fun n hn => ?_, fun x => ?_, fun f h1 h2 h3 h4 h5 h6 => ?_⟩,
    length_cameraBytes, length_eventBytes, length_trapBytes, length_stationBytes⟩
  · rw [List.append_assoc]
    exact (u16_append pre _ 0).trans ((u16_le16 n post).trans (Nat.mod_eq_of_lt hn))
  · rw [List.append_assoc]
    exact (u32_append pre _ 0).trans ((u32_le32 n post).trans (Nat.mod_eq_of_lt hn))
  · rw [List.append_assoc]
    exact (identAt_append pre _ 0).trans (identAt_identBytes x post)
  · rw [List.append_assoc]
    exact (profileAt_append pre _ 0).trans (profileAt_bytes h1 h2 h3 h4 h5 h6 post)

end Bytes

/-! ## Trap rules -/

section Traps

variable {s : State} {q : TrapRule} {i : Nat} {b : List Byte}

theorem trapBytes_eq (i : Nat) (q : TrapRule) : q.bytes i = toByte i :: flagByte q.enabled ::
    (le16 q.kinds.toNat ++ (le32 q.ports.toNat ++ (identBytes q.ident ++
      (identBytes q.mask ++ [toByte (actionCode q.forward)])))) := by
  simp [TrapRule.bytes]

theorem u8_trapBytes_index (i : Fin 16) (q : TrapRule) : u8 (q.bytes i.val) 0 = i.val := by
  rw [trapBytes_eq, u8_cons_zero, toNat_toByte]
  omega

theorem u8_trapBytes_enabled (i : Nat) (q : TrapRule) : u8 (q.bytes i) 1 = if q.enabled then 1 else 0 := by
  rw [trapBytes_eq, u8_cons_succ, u8_cons_zero]
  cases q.enabled <;> rfl

theorem u16_trapBytes_kinds (i : Nat) (q : TrapRule) : u16 (q.bytes i) 2 = q.kinds.toNat := by
  rw [trapBytes_eq]
  refine (u16_append [toByte i, flagByte q.enabled] _ 0).trans ((u16_le16 _ _).trans ?_)
  have := q.kinds.isLt
  omega

theorem u32_trapBytes_ports (i : Nat) (q : TrapRule) : u32 (q.bytes i) 4 = q.ports.toNat := by
  rw [trapBytes_eq]
  refine (u32_append ([toByte i, flagByte q.enabled] ++ le16 q.kinds.toNat) _ 0).trans ((u32_le32 _ _).trans ?_)
  have := q.ports.isLt
  omega

theorem identAt_trapBytes_ident (i : Nat) (q : TrapRule) : identAt (q.bytes i) 8 = q.ident := by
  rw [trapBytes_eq]
  exact (identAt_append ([toByte i, flagByte q.enabled] ++ le16 q.kinds.toNat ++ le32 q.ports.toNat) _ 0).trans
    (identAt_identBytes _ _)

theorem identAt_trapBytes_mask (i : Nat) (q : TrapRule) : identAt (q.bytes i) 14 = q.mask := by
  rw [trapBytes_eq, ← List.append_assoc (le32 _)]
  have h := (identAt_append ([toByte i, flagByte q.enabled] ++ le16 q.kinds.toNat ++ (le32 q.ports.toNat ++
    identBytes q.ident)) (identBytes q.mask ++ [toByte (actionCode q.forward)]) 0).trans (identAt_identBytes _ _)
  simpa using h

theorem u8_trapBytes_action (i : Nat) (q : TrapRule) : u8 (q.bytes i) 20 = if q.forward then 1 else 2 := by
  have h := u8_append ([toByte i, flagByte q.enabled] ++ le16 q.kinds.toNat ++ le32 q.ports.toNat ++
    identBytes q.ident ++ identBytes q.mask) [toByte (actionCode q.forward)] 0
  have : u8 (q.bytes i) 20 = (toByte (actionCode q.forward)).toNat := by simpa [trapBytes_eq] using h
  rw [this]
  cases q.forward <;> rfl

/-- The rule that a TRAP_SET with fields in range carries. -/
theorem trapRule?_some (h1 : u8 b 1 ≤ 1) (h2 : u16 b 2 < 512) (h4 : u32 b 4 < 16777216) (h20 : u8 b 20 = 1 ∨ u8 b 20 = 2) :
    trapRule? b = some ⟨decide (u8 b 1 = 1), BitVec.ofNat 9 (u16 b 2), BitVec.ofNat 24 (u32 b 4), identAt b 8,
      identAt b 14, decide (u8 b 20 = 1)⟩ := by
  have flag : flagOf? (u8 b 1) = some (decide (u8 b 1 = 1)) := by
    unfold flagOf?
    have : u8 b 1 = 0 ∨ u8 b 1 = 1 := by omega
    rcases this with h | h <;> simp [h]
  have two : twoCode (u8 b 20) = some (!decide (u8 b 20 = 1)) := by
    unfold twoCode
    rcases h20 with h | h <;> simp [h]
  simp [trapRule?, flag, two, badPortSet, Nat.not_le.2 h2, Nat.not_le.2 h4]

/-- Settles O59: each field is read at the offset where it stands. -/
theorem trapRuleReadsBack : Obligations.TrapRuleReadsBack := by
  intro i q
  refine ⟨by simp [lengthOk], ?_, u8_trapBytes_index i q⟩
  have hk := q.kinds.isLt
  have hp := q.ports.isLt
  rw [trapRule?_some]
  · rw [u8_trapBytes_enabled, u16_trapBytes_kinds, u32_trapBytes_ports, identAt_trapBytes_ident, identAt_trapBytes_mask,
      u8_trapBytes_action]
    cases q with
    | mk en kinds ports x m fw => cases en <;> cases fw <;> simp
  · rw [u8_trapBytes_enabled]
    split <;> decide
  · rw [u16_trapBytes_kinds]
    exact hk
  · rw [u32_trapBytes_ports]
    exact hp
  · rw [u8_trapBytes_action]
    cases q.forward <;> simp

/-- A byte of a body in range. -/
theorem getD_eq_toByte (b : List Byte) (i : Nat) : b.getD i 0#8 = toByte (u8 b i) := by
  apply BitVec.eq_of_toNat_eq
  rw [toNat_toByte, Nat.mod_eq_of_lt (u8_lt b i)]
  rfl

/-- A body of a given length is the list of its bytes. -/
theorem body_eq_bytes {n : Nat} (h : b.length = n) : b = (List.range n).map (fun i => toByte (u8 b i)) := by
  apply List.ext_getElem
  · simp [h]
  · intro i hi _
    rw [List.getElem_map, List.getElem_range, ← getD_eq_toByte, List.getD_eq_getElem b 0#8 hi]

/-- A rule read from the bytes of a body in range is carried by those bytes (R169, R170). -/
theorem trapBytes_read (hl : b.length = 21) (h1 : u8 b 1 ≤ 1) (h2 : u16 b 2 < 512) (h4 : u32 b 4 < 16777216)
    (h20 : u8 b 20 = 1 ∨ u8 b 20 = 2) : TrapRule.bytes (u8 b 0) ⟨decide (u8 b 1 = 1), BitVec.ofNat 9 (u16 b 2),
      BitVec.ofNat 24 (u32 b 4), identAt b 8, identAt b 14, decide (u8 b 20 = 1)⟩ = b := by
  have flag : flagByte (decide (u8 b 1 = 1)) = toByte (u8 b 1) := by
    have : u8 b 1 = 0 ∨ u8 b 1 = 1 := by omega
    rcases this with h | h <;> rw [h] <;> rfl
  have action : toByte (actionCode (decide (u8 b 20 = 1))) = toByte (u8 b 20) := by
    rcases h20 with h | h <;> rw [h] <;> rfl
  have hk : (BitVec.ofNat 9 (u16 b 2)).toNat = u16 b 2 := by
    rw [BitVec.toNat_ofNat]
    omega
  have hp : (BitVec.ofNat 24 (u32 b 4)).toNat = u32 b 4 := by
    rw [BitVec.toNat_ofNat]
    omega
  conv_rhs => rw [body_eq_bytes hl]
  rw [trapBytes_eq, hk, hp, flag, action, le16_u16, le32_u32, identBytes_identAt, identBytes_identAt]
  rfl

theorem trapOf?_fin (i : Fin 16) : trapOf? i.val = some i := by simp [trapOf?]

theorem trapRule?_none (h : 1 < u8 b 1 ∨ 512 ≤ u16 b 2 ∨ 16777216 ≤ u32 b 4 ∨ (u8 b 20 ≠ 1 ∧ u8 b 20 ≠ 2)) :
    trapRule? b = none := by
  unfold trapRule?
  rcases h with h | h | h | ⟨h1, h2⟩
  · rw [show flagOf? (u8 b 1) = none by unfold flagOf?; rw [if_neg (by omega), if_neg (by omega)]]
  · split
    · rw [if_pos (.inl h)]
    · rfl
  · split
    · rw [if_pos (.inr (by simpa [badPortSet] using h))]
    · rfl
  · rw [show twoCode (u8 b 20) = none by simp [twoCode, h1, h2]]
    split
    · simp_all
    · rfl

/-- The rules after a master reset match no event (R175). -/
theorem forwards_reset (e : EventRec) : forwards State.reset.traps.toList e = e.kind.forwardedByDefault := by
  refine forwards_default fun r hr => ?_
  have : r = TrapRule.reset := by
    simp only [State.reset, Vector.toList_replicate] at hr
    exact List.eq_of_mem_replicate hr
  simp [this, TrapRule.matches, TrapRule.reset]

/-- Settles O54: the two requests by the range of their fields, and the rules at reset. -/
theorem trapRules : Obligations.TrapRules := by
  refine ⟨fun r s ht => ?_, fun r s ht => ?_, fun i => by simp [State.reset, TrapRule.reset], forwards_reset⟩
  · have served : exec (.trapGet r) s = .next (serveTrapGet r.tag r.body s) := exec_taken (k := .trapGet) ht
    rw [served]
    unfold serveTrapGet
    refine ⟨fun h => ?_, fun i hi => ?_⟩
    · rw [show trapOf? (u8 r.body 0) = none by simp [trapOf?]; omega]
      exact congrArg _ (refuse_eq _ _ _ s)
    · rw [hi, trapOf?_fin]
      exact congrArg _ (answer_eq _ _ _ _ s)
  · have served : exec (.trapSet r) s = .next (serveTrapSet r.tag r.body s) := exec_taken (k := .trapSet) ht
    have hl : r.body.length = 21 := by simpa [lengthOk] using ht.length
    rw [served]
    unfold serveTrapSet
    refine ⟨fun h => ?_, fun i hi h1 h2 h4 h20 => ?_⟩
    · have no : trapOf? (u8 r.body 0) = none ∨ trapRule? r.body = none := by
        rcases h with h | h
        · exact .inl (by simp [trapOf?]; omega)
        · exact .inr (trapRule?_none h)
      split
      · simp_all
      · exact congrArg _ (refuse_eq _ _ _ s)
    · refine ⟨⟨decide (u8 r.body 1 = 1), BitVec.ofNat 9 (u16 r.body 2), BitVec.ofNat 24 (u32 r.body 4),
        identAt r.body 8, identAt r.body 14, decide (u8 r.body 20 = 1)⟩, rfl, ?_, ?_, rfl, rfl, rfl, ?_⟩
      · exact (BitVec.toNat_ofNat _ _).trans (Nat.mod_eq_of_lt h2)
      · exact (BitVec.toNat_ofNat _ _).trans (Nat.mod_eq_of_lt h4)
      · have bytes := trapBytes_read hl h1 h2 h4 h20
        rw [hi] at bytes
        rw [hi, trapOf?_fin, trapRule?_some h1 h2 h4 h20]
        simp only [bytes]
        exact congrArg _ (answer_eq _ _ _ _ _)

end Traps

end Sys2Proof.Machine

namespace Sys2Proof.Machine

/-! ## The held records and EVENTS_FETCH -/

section Held

variable {s : State} {p q : PortId} {l : List PortId}

/-- The older of the port found so far and one more port (R172). -/
def State.older (s : State) (acc : Option PortId) (p : PortId) : Option PortId :=
  match (s.port p).held, acc with
  | some e, some q =>
    match (s.port q).held with
    | some f => if diffMs s.clock f.time < diffMs s.clock e.time then some p else some q
    | none => some p
  | some _, none => some p
  | none, _ => acc

theorem oldestHeld_eq (s : State) : s.oldestHeld = allPorts.foldl s.older none := rfl

/-- A port found among some ports is the one whose held record is the oldest of theirs. -/
structure OldestIn (s : State) (l : List PortId) (acc : Option PortId) : Prop where
  absent : acc = none → ∀ p ∈ l, (s.port p).held = none
  found : ∀ q, acc = some q → q ∈ l ∧ (s.port q).held ≠ none ∧ ∀ r ∈ l, r ≠ q → s.heldBefore q r

/-- One more port, above the ones before it. -/
theorem OldestIn.concat {acc : Option PortId} (h : OldestIn s l acc) (above : ∀ q ∈ l, q < p) :
    OldestIn s (l ++ [p]) (s.older acc p) := by
  have vacuous : (s.port p).held = none → ∀ q, s.heldBefore q p := fun hp q e f _ hf => by simp [hp] at hf
  unfold State.older
  cases hp : (s.port p).held with
  | none =>
    refine ⟨fun ha r hr => ?_, fun q hq => ?_⟩
    · rcases List.mem_append.1 hr with hr | hr
      · exact h.absent ha r hr
      · rwa [List.mem_singleton.1 hr]
    · obtain ⟨hm, hne, hb⟩ := h.found q hq
      refine ⟨List.mem_append_left _ hm, hne, fun r hr hrq => ?_⟩
      rcases List.mem_append.1 hr with hr | hr
      · exact hb r hr hrq
      · rw [List.mem_singleton.1 hr]
        exact vacuous hp q
  | some e =>
    have lone : (∀ r ∈ l, (s.port r).held = none) → OldestIn s (l ++ [p]) (some p) := by
      intro hn
      refine ⟨by simp, fun q hq => ?_⟩
      obtain rfl : p = q := Option.some.inj hq
      refine ⟨by simp, by simp [hp], fun r hr hrp e f _ hf => ?_⟩
      rcases List.mem_append.1 hr with hr | hr
      · simp [hn r hr] at hf
      · exact absurd (List.mem_singleton.1 hr) hrp
    cases acc with
    | none => exact lone (h.absent rfl)
    | some q =>
      obtain ⟨hm, hne, hb⟩ := h.found q rfl
      cases hq : (s.port q).held with
      | none => exact absurd hq hne
      | some f =>
        simp only [hq]
        split
        · rename_i lt
          refine ⟨by simp, fun q' hq' => ?_⟩
          obtain rfl : p = q' := Option.some.inj hq'
          refine ⟨by simp, by simp [hp], fun r hr hrp e' f' he' hf' => .inl ?_⟩
          obtain rfl : e = e' := Option.some.inj (hp.symm.trans he')
          rcases List.mem_append.1 hr with hr | hr
          · by_cases hrq : r = q
            · obtain rfl : f = f' := Option.some.inj (hq.symm.trans (hrq ▸ hf'))
              exact lt
            · rcases hb r hr hrq f f' hq hf' with older | ⟨same, _⟩
              · exact older.trans lt
              · rwa [same]
          · exact absurd (List.mem_singleton.1 hr) hrp
        · rename_i ge
          refine ⟨by simp, fun q' hq' => ?_⟩
          obtain rfl : q = q' := Option.some.inj hq'
          refine ⟨List.mem_append_left _ hm, hne, fun r hr hrq => ?_⟩
          rcases List.mem_append.1 hr with hr | hr
          · exact hb r hr hrq
          · intro f' e' hf' he'
            rw [List.mem_singleton.1 hr] at he' ⊢
            obtain rfl : e = e' := Option.some.inj (hp.symm.trans he')
            obtain rfl : f = f' := Option.some.inj (hq.symm.trans hf')
            exact (Nat.lt_or_eq_of_le (Nat.le_of_not_lt ge)).imp_right fun same => ⟨same, above q hm⟩

theorem oldestIn (sorted : l.Pairwise (· < ·)) : OldestIn s l (l.foldl s.older none) := by
  induction l using List.reverseRecOn with
  | nil => exact ⟨by simp, by simp⟩
  | append_singleton l p ih =>
    rw [List.foldl_append]
    have := List.pairwise_append.1 sorted
    exact (ih this.1).concat fun q hq => this.2.2 q hq p (by simp)

theorem heldBefore_asymm (h : s.heldBefore p q) (hp : (s.port p).held ≠ none) (hq : (s.port q).held ≠ none) :
    ¬ s.heldBefore q p := by
  obtain ⟨e, he⟩ := Option.ne_none_iff_exists'.1 hp
  obtain ⟨f, hf⟩ := Option.ne_none_iff_exists'.1 hq
  intro g
  rcases h e f he hf with lt | ⟨same, lt⟩
  · rcases g f e hf he with lt' | ⟨same', _⟩
    · exact absurd lt' (Nat.lt_asymm lt)
    · exact absurd same' (Nat.ne_of_gt lt)
  · rcases g f e hf he with lt' | ⟨_, lt'⟩
    · exact absurd same (Nat.ne_of_gt lt')
    · exact absurd lt' (lt_asymm lt)

theorem oldestHeld_none : s.oldestHeld = none ↔ ∀ p, (s.port p).held = none := by
  have spec := oldestIn (s := s) pairwise_allPorts
  rw [← oldestHeld_eq] at spec
  refine ⟨fun h p => spec.absent h p (mem_allPorts p), fun h => ?_⟩
  cases ho : s.oldestHeld with
  | none => rfl
  | some q => exact absurd (h q) (spec.found q ho).2.1

/-- The port found is the one whose held record is the oldest (R172). -/
theorem oldestHeld_some : s.oldestHeld = some p ↔ (s.port p).held ≠ none ∧ ∀ q, q ≠ p → s.heldBefore p q := by
  have spec := oldestIn (s := s) pairwise_allPorts
  rw [← oldestHeld_eq] at spec
  refine ⟨fun h => ?_, fun ⟨hp, hb⟩ => ?_⟩
  · obtain ⟨_, hp, hb⟩ := spec.found p h
    exact ⟨hp, fun q hq => hb q (mem_allPorts q) hq⟩
  · cases ho : s.oldestHeld with
    | none => exact absurd (oldestHeld_none.1 ho p) hp
    | some q =>
      obtain ⟨_, hq, hb'⟩ := spec.found q ho
      by_cases e : q = p
      · rw [e]
      · exact absurd (hb q e) (heldBefore_asymm (hb' p (mem_allPorts p) (Ne.symm e)) hq hp)

/-! ### The held records enter the queue -/

/-- The record held by a port joins the queue, and R38 is tested for the port. -/
def State.takeHeld (s : State) (p : PortId) (e : EventRec) : State :=
  { s with events := s.events ++ [e] }.modPort p (fun c => ({ c with held := none } : Port).testPoll)

theorem refillEvents_succ {e : EventRec} (ho : s.oldestHeld = some p) (he : (s.port p).held = some e)
    (room : s.events.length < 64) (n : Nat) : refillEvents (n + 1) s = refillEvents n (s.takeHeld p e) := by
  simp only [refillEvents, ho, he, Config.eventCapacity, room, if_true]
  rfl

theorem refillEvents_stop (h : s.oldestHeld = none ∨ 64 ≤ s.events.length) (n : Nat) : refillEvents n s = s := by
  cases n with
  | zero => rfl
  | succ n =>
    unfold refillEvents
    rcases h with h | h
    · rw [h]
      dsimp only
      split <;> rfl
    · rw [if_neg (by simpa [Config.eventCapacity] using h)]

/-- What the refill has done from s to u: the held records of some ports have entered the queue, in their order. -/
structure Refilled (s u : State) (ps : List PortId) : Prop where
  rest : u = { s with events := u.events, ports := u.ports }
  events : u.events = s.events ++ ps.filterMap (fun p => (s.port p).held)
  order : ps.Pairwise s.heldBefore
  held : ∀ p ∈ ps, (s.port p).held ≠ none
  emptied : ∀ p ∈ ps, u.port p = ({ s.port p with held := none } : Port).testPoll
  first : ∀ p ∈ ps, ∀ q, q ∉ ps → s.heldBefore p q
  others : ∀ q, q ∉ ps → u.port q = s.port q
  room : s.events.length ≤ 64 → u.events.length ≤ 64

theorem Refilled.refl (s : State) : Refilled s s [] := ⟨rfl, by simp, .nil, by simp, by simp, by simp, by simp, id⟩

theorem held_testPoll (c : Port) : c.testPoll.held = c.held := field_of_body (body_testPoll c) Port.held

/-- The oldest held record enters first. -/
theorem Refilled.cons {u : State} {e : EventRec} {ps : List PortId} (ho : s.oldestHeld = some p)
    (he : (s.port p).held = some e) (room : s.events.length < 64) (h : Refilled (s.takeHeld p e) u ps) :
    Refilled s u (p :: ps) := by
  obtain ⟨hp, hb⟩ := oldestHeld_some.1 ho
  have self : ((s.takeHeld p e).port p).held = none := by
    rw [State.takeHeld, port_modPort_self, held_testPoll]
  have other : ∀ q, q ≠ p → (s.takeHeld p e).port q = s.port q := fun q hq => port_modPort_ne (Ne.symm hq) _ _
  have before : ∀ q r, q ≠ p → r ≠ p → (s.takeHeld p e).heldBefore q r → s.heldBefore q r := by
    intro q r hq hr hb e f he hf
    exact hb e f (by rw [other q hq]; exact he) (by rw [other r hr]; exact hf)
  have away : ∀ q ∈ ps, q ≠ p := fun q hq e => h.held q hq (e ▸ self)
  refine ⟨h.rest, ?_, ?_, ?_, ?_, ?_, ?_, fun _ => ?_⟩
  · rw [h.events, List.filterMap_cons_some (f := fun p => (s.port p).held) he, List.append_cons]
    congr 1
    exact List.filterMap_congr fun q hq => by rw [other q (away q hq)]
  · exact List.pairwise_cons.2 ⟨fun q hq => hb q (away q hq), h.order.imp_of_mem fun hq hr hb' =>
      before _ _ (away _ hq) (away _ hr) hb'⟩
  · intro q hq
    rcases List.mem_cons.1 hq with rfl | hq
    · exact hp
    · rw [← other q (away q hq)]
      exact h.held q hq
  · intro q hq
    rcases List.mem_cons.1 hq with rfl | hq
    · rw [h.others q (fun hm => away q hm rfl), State.takeHeld, port_modPort_self]
      rfl
    · rw [h.emptied q hq, other q (away q hq)]
  · intro q hq r hr
    obtain ⟨hrp, hr⟩ := not_or.1 (fun g => hr (List.mem_cons.2 g))
    rcases List.mem_cons.1 hq with rfl | hq
    · exact hb r hrp
    · exact before _ _ (away q hq) hrp (h.first q hq r hr)
  · intro q hq
    obtain ⟨hqp, hq⟩ := not_or.1 (fun g => hq (List.mem_cons.2 g))
    rw [h.others q hq, other q hqp]
  · exact h.room (by simp [State.takeHeld]; omega)

/-- The refill goes on until no record is held, the queue is full, or its steps are used up. -/
theorem refillEvents_refilled (n : Nat) (s : State) : ∃ ps, Refilled s (refillEvents n s) ps ∧
    ((∀ q, q ∉ ps → (s.port q).held = none) ∨ 64 ≤ (refillEvents n s).events.length ∨ ps.length = n) := by
  induction n generalizing s with
  | zero => exact ⟨[], .refl s, .inr (.inr rfl)⟩
  | succ n ih =>
    cases ho : s.oldestHeld with
    | none =>
      rw [refillEvents_stop (.inl ho)]
      exact ⟨[], .refl s, .inl fun q _ => oldestHeld_none.1 ho q⟩
    | some p =>
      by_cases room : s.events.length < 64
      · obtain ⟨e, he⟩ := Option.ne_none_iff_exists'.1 (oldestHeld_some.1 ho).1
        rw [refillEvents_succ ho he room]
        obtain ⟨ps, hr, hend⟩ := ih (s.takeHeld p e)
        refine ⟨p :: ps, hr.cons ho he room, hend.imp (fun h q hq => ?_) (Or.imp_right fun h => by simp [h])⟩
        obtain ⟨hqp, hq⟩ := not_or.1 (fun g => hq (List.mem_cons.2 g))
        have := h q hq
        rwa [State.takeHeld, port_modPort_ne (Ne.symm hqp)] at this
      · rw [refillEvents_stop (.inr (by omega))]
        exact ⟨[], .refl s, .inr (.inl (by omega))⟩

/-- No port's record enters twice. -/
theorem Refilled.nodup {u : State} {ps : List PortId} (h : Refilled s u ps) : ps.Nodup :=
  h.order.imp_of_mem fun hq _ hb e => heldBefore_asymm hb (h.held _ hq) (e ▸ h.held _ hq) (e ▸ hb)

/-- A list of 24 ports without repetition is all of them. -/
theorem mem_of_nodup_length {ps : List PortId} (nodup : ps.Nodup) (h : ps.length = 24) (p : PortId) : p ∈ ps := by
  have : ps.toFinset = Finset.univ := Finset.card_eq_iff_eq_univ _ |>.1 (by rw [List.toFinset_card_of_nodup nodup, h]; rfl)
  rw [← List.mem_toFinset, this]
  exact Finset.mem_univ p

/-- EVENTS_FETCH serves the records at the head, and the refill follows (R173). -/
theorem exec_eventsFetch {r : Request} (ht : Taken .eventsFetch r s) (u : State)
    (hu : u = refillEvents 24 { s with events := s.events.drop (clamp 1 32 (u8 r.body 0)) }) :
    exec (.eventsFetch r) s = .next (finish (u.replied 0x9C#8 r.tag
      ([if clamp 1 32 (u8 r.body 0) = u8 r.body 0 then 0x00#8 else 0x01#8, toByte u.events.length] ++
        portSetBytes (allPorts.filter (fun p => (u.port p).held.isSome)) ++
        [toByte (s.events.take (clamp 1 32 (u8 r.body 0))).length] ++
        (s.events.take (clamp 1 32 (u8 r.body 0))).flatMap EventRec.bytes))) := by
  have served : exec (.eventsFetch r) s = .next (serveEventsFetch r.tag r.body s) := exec_taken (k := .eventsFetch) ht
  have code : (okOr (clamp 1 32 (u8 r.body 0) != u8 r.body 0)).code =
      if clamp 1 32 (u8 r.body 0) = u8 r.body 0 then 0x00#8 else 0x01#8 := by
    by_cases h : clamp 1 32 (u8 r.body 0) = u8 r.body 0 <;> simp [h, okOr, Status.code]
  rw [served, serveEventsFetch, ← hu]
  simp only [answer_eq, code, State.heldPorts, List.cons_append, List.nil_append]
  rfl

/-- Settles O57: the refill takes the oldest held record at each step, and the reply is formed after it. -/
theorem eventsFetched : Obligations.EventsFetched := by
  refine ⟨⟨fun r s ht hn => ?_, fun r s ht _ => ?_⟩, fun s p e n ho he room => refillEvents_succ ho he room n,
    fun s => ⟨oldestHeld_none, fun p => oldestHeld_some⟩⟩
  · have stop := refillEvents_stop (s := { s with events := s.events.drop (clamp 1 32 (u8 r.body 0)) })
      (.inl (oldestHeld_none.2 hn)) 24
    have empty : allPorts.filter (fun p =>
        (State.port { s with events := s.events.drop (clamp 1 32 (u8 r.body 0)) } p).held.isSome) = [] :=
      List.filter_eq_nil_iff.2 fun p _ => by simp [State.port, ← hn p]
    rw [exec_eventsFetch ht _ stop.symm, empty]
    rfl
  · obtain ⟨ps, h, hend⟩ := refillEvents_refilled 24 { s with events := s.events.drop (clamp 1 32 (u8 r.body 0)) }
    refine ⟨_, ps, exec_eventsFetch ht _ rfl, h.rest, h.events, h.order,
      fun p hp => ⟨h.held p hp, h.emptied p hp, h.first p hp⟩, h.others, fun hl => h.room ?_, ?_⟩
    · rw [List.length_drop]
      omega
    · rcases hend with hend | hend | hlen
      · exact .inl hend
      · exact .inr hend
      · exact .inl fun q hq => absurd (mem_of_nodup_length h.nodup hlen q) hq

end Held

end Sys2Proof.Machine

namespace Sys2Proof.Machine

/-! ## Cues by their ids -/

section CueLists

variable {s : State} {c d : Cue} {i : Nat} {f : Cue → Cue}

/-- The only cue of an id is the one that the list gives for it. -/
theorem cue?_of_unique (hc : c ∈ s.cues) (hu : ∀ x ∈ s.cues, x.id = c.id → x = c) : s.cue? c.id = some c := by
  obtain ⟨d, hd⟩ := cue?_isSome.1 ⟨c, hc, rfl⟩
  obtain ⟨hm, hi⟩ := cue?_id hd
  rw [hd, hu d hm hi]

/-- A changed cue is found where the cue was. -/
theorem cue?_modCue (hf : ∀ x, (f x).id = x.id) (j i : Nat) (s : State) :
    (modCue j f s).cue? i = (s.cue? i).map (fun x => if x.id = j then f x else x) := by
  unfold State.cue? modCue
  rw [List.find?_map]
  congr 2
  funext x
  simp only [Function.comp]
  split
  · rw [hf]
  · rfl

/-- Changing the only cue of an id puts the new record in its place. -/
theorem modCue_unique (hc : s.cue? c.id = some c) (hu : ∀ x ∈ s.cues, x.id = c.id → x = c) (f : Cue → Cue) :
    modCue c.id f s = { s with cues := s.cues.map (fun x => if x.id = c.id then f c else x) } := by
  unfold modCue
  congr 1
  refine List.map_congr_left fun x hx => ?_
  split
  · rw [hu x hx ‹_›]
  · rfl

theorem modCue_modCue {g : Cue → Cue} (hf : ∀ x, (f x).id = x.id) (i : Nat) (s : State) :
    modCue i g (modCue i f s) = modCue i (fun x => g (f x)) s := by
  unfold modCue
  congr 1
  rw [List.map_map]
  refine List.map_congr_left fun x _ => ?_
  by_cases h : x.id = i <;> simp [h, hf]

theorem removeCue_modCue (hf : ∀ x, (f x).id = x.id) (i : Nat) (s : State) :
    removeCue i (modCue i f s) = removeCue i s := by
  unfold removeCue modCue
  congr 1
  simp only [List.filter_map]
  refine (List.map_congr_left fun x hx => ?_).trans (List.map_id _) |>.trans (List.filter_congr fun x _ => ?_)
  · have : x.id ≠ i := by
      intro e
      simp [e, hf] at hx
    simp [this]
  · by_cases h : x.id = i <;> simp [h, hf]

/-- What becomes of a CONFIRMING cue with an empty confirm list: it is DONE, and reported (R100, R101). -/
theorem finishCue_unique (hc : s.cue? c.id = some c) (hu : ∀ x ∈ s.cues, x.id = c.id → x = c) :
    (s.reports.length < 16 → finishCue c.id s = { s with
      cues := s.cues.filter (fun x => x.id != c.id), reports := s.reports ++ [Report.cueDone c.doneBody] }) ∧
    (16 ≤ s.reports.length → finishCue c.id s = { s with
      cues := s.cues.map (fun x => if x.id = c.id then { c with
        state := .done, timer := none, confirm := [], mark := true } else x) }) := by
  have named := cue?_modCue (f := fun c => { c with state := .done, timer := none, confirm := [] }) (fun _ => rfl) c.id c.id s
  rw [hc, Option.map_some, if_pos rfl] at named
  unfold finishCue reportCue
  rw [named]
  dsimp only [Config.reportCapacity]
  refine ⟨fun h => ?_, fun h => ?_⟩
  · rw [if_pos (show (modCue c.id _ s).reports.length < 16 from h)]
    exact congrArg (fun u : State => { u with reports := s.reports ++ [Report.cueDone c.doneBody] })
      (removeCue_modCue (f := fun c => { c with state := .done, timer := none, confirm := [] }) (fun _ => rfl) c.id s)
  · rw [if_neg (show ¬ (modCue c.id _ s).reports.length < 16 from Nat.not_lt.2 h),
      modCue_modCue (f := fun c => { c with state := .done, timer := none, confirm := [] }) (fun _ => rfl), modCue_unique hc hu]

end CueLists

/-! ## The internal effects of events -/

section Shot

variable {s : State} {p : PortId} {c d : Cue} {l : List Cue}

theorem Cue.withOutcome_eq (c : Cue) (p : PortId) (o : CamOutcome) : c.withOutcome p o =
    { c.modMember p ({ · with outcome := some o }) with confirm := c.confirm.filter (· != p) } := rfl

theorem awaitsShot_iff (p : PortId) (c : Cue) (q : State) : q.awaitsShot p c = true ↔
    (c.state = .firing ∨ c.state = .confirming) ∧ p ∈ c.confirm ∧ ∃ g, c.grant = some g ∧
      reachedMs q.clock g.fire = true := by
  unfold State.awaitsShot
  cases c.grant <;> simp [and_assoc]

/-- How long ago a cue was granted. -/
def Cue.grantAge (now : Nat) (c : Cue) : Nat := (c.grant.map (diffMs now ·.t0)).getD 0

theorem earliestGrant_none {now : Nat} : earliestGrant now l = none ↔ l = [] := by
  cases l with
  | nil => simp [earliestGrant]
  | cons c cs =>
    unfold earliestGrant
    cases earliestGrant now cs <;> simp
    split <;> simp

/-- The cue found is one of the list, and none was granted longer ago. -/
theorem earliestGrant_spec {now : Nat} (h : earliestGrant now l = some d) :
    d ∈ l ∧ ∀ x ∈ l, x.grantAge now ≤ d.grantAge now := by
  induction l generalizing d with
  | nil => simp [earliestGrant] at h
  | cons c cs ih =>
    unfold earliestGrant at h
    cases hcs : earliestGrant now cs with
    | none =>
      obtain rfl : c = d := by simpa [hcs] using h
      simp [earliestGrant_none.1 hcs]
    | some e =>
      obtain ⟨he, hmax⟩ := ih hcs
      simp only [hcs] at h
      split at h
      · obtain rfl : e = d := Option.some.inj h
        refine ⟨List.mem_cons_of_mem _ he, fun x hx => ?_⟩
        rcases List.mem_cons.1 hx with rfl | hx
        · exact Nat.le_of_lt ‹_›
        · exact hmax x hx
      · obtain rfl : c = d := Option.some.inj h
        refine ⟨List.mem_cons_self, fun x hx => ?_⟩
        rcases List.mem_cons.1 hx with rfl | hx
        · exact Nat.le_refl _
        · exact (hmax x hx).trans (Nat.le_of_not_lt ‹_›)

theorem earliestGrant_of_max {now : Nat} (hc : c ∈ l) (h : ∀ x ∈ l, x ≠ c → x.grantAge now < c.grantAge now) :
    earliestGrant now l = some c := by
  cases hd : earliestGrant now l with
  | none => simp [earliestGrant_none.1 hd] at hc
  | some d =>
    obtain ⟨hm, hmax⟩ := earliestGrant_spec hd
    by_cases e : d = c
    · rw [e]
    · exact absurd (hmax c hc) (Nat.not_le.2 (h d hm e))

theorem takeShot_none (h : ∀ c ∈ s.cues, s.awaitsShot p c = false) : takeShot p s = s := by
  have : s.cues.filter (s.awaitsShot p) = [] := List.filter_eq_nil_iff.2 fun c hc => by simp [h c hc]
  simp [takeShot, this, earliestGrant]

/-- A SHOT that a cue awaits confirms the port for it; a CONFIRMING cue with nothing left to confirm ends (R160, R100). -/
theorem takeShot_found (he : earliestGrant s.clock (s.cues.filter (s.awaitsShot p)) = some c) :
    takeShot p s = confirmEnd c.id (modCue c.id (·.withOutcome p .taken) s) := by
  simp only [takeShot, he]
  rfl

theorem withOutcome_id (p : PortId) (o : CamOutcome) (c : Cue) : (c.withOutcome p o).id = c.id := rfl

theorem withOutcome_state (p : PortId) (o : CamOutcome) (c : Cue) : (c.withOutcome p o).state = c.state := rfl

theorem outcome_withOutcome {o : CamOutcome} {m : Member} (hm : m ∈ (c.withOutcome p o).members) (hp : m.port = p) :
    m.outcome = some o := by
  obtain ⟨n, _, rfl⟩ := List.mem_map.1 hm
  dsimp only at hp ⊢
  split at hp
  · rename_i h
    rw [if_pos h]
  · rename_i h
    exact absurd hp h

/-- The cue that a port's outcome has been recorded in, found by its id. -/
theorem cue?_recorded {o : CamOutcome} (hc : s.cue? c.id = some c) :
    (modCue c.id (·.withOutcome p o) s).cue? c.id = some (c.withOutcome p o) := by
  rw [cue?_modCue (withOutcome_id p o), hc, Option.map_some, if_pos rfl]

/-- A cue that goes on has no confirm end. -/
theorem confirmEnd_goesOn {o : CamOutcome} (hc : s.cue? c.id = some c)
    (h : c.state ≠ .confirming ∨ (c.withOutcome p o).confirm ≠ []) :
    confirmEnd c.id (modCue c.id (·.withOutcome p o) s) = modCue c.id (·.withOutcome p o) s := by
  unfold confirmEnd
  rw [cue?_recorded hc]
  exact if_neg fun ⟨hs, he⟩ => h.elim (absurd hs) (absurd he)

theorem confirmEnd_ends {o : CamOutcome} (hc : s.cue? c.id = some c) (hs : c.state = .confirming)
    (he : (c.withOutcome p o).confirm = []) : confirmEnd c.id (modCue c.id (·.withOutcome p o) s) =
      finishCue c.id (modCue c.id (·.withOutcome p o) s) := by
  unfold confirmEnd
  rw [cue?_recorded hc]
  exact if_pos ⟨hs, he⟩

theorem finishCue_recorded {o : CamOutcome} (hc : s.cue? c.id = some c) (hu : ∀ x ∈ s.cues, x.id = c.id → x = c) :
    (s.reports.length < 16 → finishCue c.id (modCue c.id (·.withOutcome p o) s) = { s with
      cues := s.cues.filter (fun x => x.id != c.id)
      reports := s.reports ++ [Report.cueDone (c.withOutcome p o).doneBody] }) ∧
    (16 ≤ s.reports.length → finishCue c.id (modCue c.id (·.withOutcome p o) s) = { s with
      cues := s.cues.map (fun x => if x.id = c.id then { c.withOutcome p o with
        state := .done, timer := none, confirm := [], mark := true } else x) }) := by
  have unique : ∀ x ∈ (modCue c.id (·.withOutcome p o) s).cues, x.id = (c.withOutcome p o).id → x = c.withOutcome p o := by
    intro x hx hi
    obtain ⟨y, hy, rfl⟩ := List.mem_map.1 hx
    by_cases e : y.id = c.id
    · rw [if_pos e, hu y hy e]
    · rw [if_neg e] at hi
      exact absurd hi e
  obtain ⟨room, full⟩ := finishCue_unique (c := c.withOutcome p o) (cue?_recorded hc) unique
  refine ⟨fun h => (room h).trans ?_, fun h => (full h).trans ?_⟩
  · exact congrArg (fun u : State => { u with reports := s.reports ++ [Report.cueDone (c.withOutcome p o).doneBody] })
      (removeCue_modCue (f := (·.withOutcome p o)) (withOutcome_id p o) c.id s)
  · rw [State.mk.injEq]
    simp only [modCue, List.map_map, true_and, and_true]
    refine List.map_congr_left fun x _ => ?_
    by_cases e : x.id = c.id <;> simp [e, withOutcome_id]

end Shot

section Effects

variable {s : State} {p : PortId} {ps : Pause} {w : Nat}

theorem port_setMediaFull_eq (p : PortId) (v : Bool) (s : State) : (setMediaFull p v s).port p =
    { s.port p with mediaFull := v, camMark := ((setMediaFull p v s).port p).camMark } := by
  unfold setMediaFull
  split
  · rename_i h
    rw [← h]
  · refine Port.eq_of_unmarked (d := { s.port p with mediaFull := v }) ?_
    rw [unmarked_markPort, port_modPort_self]

/-- A camera in PAUSING that nothing holds back takes its pause as one from READY would be taken (R22). -/
theorem pausingEvent_acts (hp : (s.port p).power = .pausing ps w) (ho : (s.port p).offload = false)
    (hj : (s.port p).pauseHeldByJob = false) : pausingEvent p s = pauseReady p ps s := by
  simp [pausingEvent, pauseReady, hp, ho, hj]

theorem pausingEvent_taken (hp : (s.port p).power = .pausing ps w) (ho : (s.port p).offload = false)
    (hj : (s.port p).pauseHeldByJob = false) : PauseTaken p ps s (pausingEvent p s) := by
  rw [pausingEvent_acts hp ho hj]
  exact pauseReady_taken p ps s

/-- The end of an offload releases the pause that waits for it (R165, R22). -/
theorem offloadEnd_taken (ho : (s.port p).offload = true) (hp : (s.port p).power = .pausing ps w)
    (hj : (s.port p).pauseHeldByJob = false) :
    PauseTaken p ps (s.modPort p ({ · with offload := false })) (eventEffect p .offloadEnd s) := by
  have eff : eventEffect p .offloadEnd s = pausingEvent p (setOffload p false s) := by simp [eventEffect, ho]
  have busy := port_setOffload_eq p false s
  have outer := outer_setOffload p false s
  have taken := pausingEvent_taken (s := setOffload p false s) (p := p) (ps := ps) (w := w) (by rw [busy]; exact hp)
    (by rw [busy]) (by rw [busy]; exact hj)
  rw [eff]
  refine taken.congr (clock_of_outer outer).symm ?_ ?_ ?_ ?_ rfl rfl
  · refine stationOf_congr (stations_of_outer outer).symm ?_
    rw [busy, port_modPort_self]
  · rw [busy, port_modPort_self]
  · rw [busy, port_modPort_self]
    rfl
  · rw [busy, port_modPort_self]

/-- A pause leaves the offload-busy flag clear. -/
theorem pausingEvent_offload_clear (ho : (s.port p).offload = false) : ((pausingEvent p s).port p).offload = false := by
  have enter (new : Power) (u : State) : ((setPower p new u).port p).offload = (u.port p).offload :=
    setPower_field Port.offload p new u
  have doze (u : State) : ((enterDoze p u).port p).offload = (u.port p).offload := by
    unfold enterDoze enqueueJob
    rw [port_modPort_self, field_of_body (body_enqueue _ _) Port.offload, enter]
  have warm (u : State) : ((startKeepwarm p u).port p).offload = (u.port p).offload := by
    unfold startKeepwarm
    split
    · rw [port_modPort_self]
    · exact doze u
  unfold pausingEvent
  split
  · split
    · exact ho
    · unfold pauseAction
      split
      · rw [doze, ho]
      · rw [enterKeepwarm, warm, enqueueJob, port_modPort_self, field_of_body (body_enqueue _ _) Port.offload, enter, ho]
      · unfold enterDeep
        rw [loseSettings_field Port.offload]
        show ((setOffload p false _).port p).offload = false
        rw [port_setOffload_eq]
  · exact ho

theorem oweIdentify_mem (c : Port) : ∃ j ∈ c.oweIdentify.queue ++ c.oweIdentify.waitLine, j.isIdentify = true := by
  unfold Port.oweIdentify
  split
  · rename_i h
    simp only [Port.queuedIdle, Bool.or_eq_true, List.any_eq_true, Bool.and_eq_true] at h
    rcases h with ⟨j, hj, hi, _⟩ | ⟨j, hj, hi⟩
    · exact ⟨j, List.mem_append_left _ hj, hi⟩
    · exact ⟨j, List.mem_append_right _ hj, hi⟩
  · obtain ⟨j, hj, hk⟩ := enqueue_mem (.identify []) c
    exact ⟨j, hj, by simp [Job.isIdentify, hk]⟩

theorem oweThermal_owed (c : Port) : c.oweThermal.markThermal = true ∨ ∃ j ∈ c.oweThermal.queue, j.isThermal = true := by
  unfold Port.oweThermal
  split
  · rename_i h
    simp only [Port.queuedIdle, Bool.or_eq_true, List.any_eq_true, Bool.and_eq_true] at h
    rcases h with h | ⟨j, hj, hi, _⟩
    · exact .inl h
    · exact .inr ⟨j, hj, hi⟩
  · split
    · exact .inr ⟨Job.mk' .thermalRead, by simp [pushJob], rfl⟩
    · exact .inl rfl

/-- Settles O56: each kind of event by the operation that it is, SHOT by the cue granted first. -/
theorem eventEffects : Obligations.EventEffects := by
  intro p s
  refine ⟨?full, ?ok, fun h => ?marked, rfl, rfl, fun h => ?begins, fun h => ?off, fun ho => ⟨?clear, ?doze⟩, fun ho => ?idle,
    ?hello, fun h => ?rescan, fun h => ?identify, fun c hf hu hs => ?shot, fun ps w ho hp hj => offloadEnd_taken ho hp hj,
    takeShot_none, fun c g hc ha hg hu hmax => ?first, fun c q => awaitsShot_iff p c q, fun h => ?fault, fun h => ?thermal⟩
  case full => exact congrArg Port.mediaFull (port_setMediaFull_eq p true s)
  case ok => exact congrArg Port.mediaFull (port_setMediaFull_eq p false s)
  case marked =>
    show (setMediaFull p true s).marked p
    rw [setMediaFull, if_neg (by simp [h])]
    exact marked_markPort p _
  case begins =>
    simp only [eventEffect, h, if_true]
    rw [port_setOffload_eq]
  case off => simp [eventEffect, h]
  case clear =>
    simp only [eventEffect, ho, if_true]
    exact pausingEvent_offload_clear (by rw [port_setOffload_eq])
  case doze =>
    intro ps w hp hj hd
    obtain ⟨_, acts⟩ := offloadEnd_taken ho hp hj
    have acts := (acts (by rw [port_modPort_self]) (by rw [port_modPort_self]; exact hj)).1 hd
    rw [acts.1]
    congr 1
    unfold State.dozeTimer
    rw [stationOf_congr (s := s) (t := s.modPort p _) rfl (by rw [port_modPort_self])]
    rfl
  case idle => simp [eventEffect, ho]
  case hello =>
    simp only [eventEffect, port_modPort_self]
    split
    · rfl
    · exact field_of_body (body_oweIdentify _) Port.conflict
  case rescan => simp [eventEffect, h]
  case identify =>
    simp only [eventEffect, port_modPort_self, h, Bool.false_eq_true, if_false]
    exact oweIdentify_mem _
  case shot =>
    have hc : c ∈ s.cues := List.mem_of_mem_filter (hf ▸ List.mem_singleton_self c)
    have named := cue?_of_unique hc hu
    have eff : eventEffect p .shot s = modCue c.id (·.withOutcome p .taken) s := by
      show takeShot p s = _
      rw [takeShot_found (c := c) (by rw [hf]; rfl), confirmEnd_goesOn named (.inl (by simp [hs]))]
    refine ⟨c.withOutcome p .taken, ?_, rfl, fun m hm hp => outcome_withOutcome hm hp⟩
    rw [eff, cue?_recorded named]
  case first =>
    have named := cue?_of_unique hc hu
    have found : earliestGrant s.clock (s.cues.filter (s.awaitsShot p)) = some c := by
      refine earliestGrant_of_max (List.mem_filter.2 ⟨hc, ha⟩) fun x hx hne => ?_
      obtain ⟨hx, hxa⟩ := List.mem_filter.1 hx
      obtain ⟨k, hk, hlt⟩ := hmax x hx hxa hne
      simpa [Cue.grantAge, hk, hg] using hlt
    have eff : eventEffect p .shot s = confirmEnd c.id (modCue c.id (·.withOutcome p .taken) s) := takeShot_found found
    rw [eff]
    refine ⟨fun h => ?_, fun hs he => ?_⟩
    · rw [confirmEnd_goesOn named (h.imp_left fun h => by simp [h]), modCue_unique named hu]
    · rw [confirmEnd_ends named hs he]
      exact finishCue_recorded named hu
  case fault => simp [eventEffect, h]
  case thermal =>
    simp only [eventEffect, h, Bool.false_eq_true, if_false, port_modPort_self]
    exact oweThermal_owed _

end Effects

end Sys2Proof.Machine

namespace Sys2Proof.Machine

/-! # Proofs: what a change of state leaves of a camera's record

`Port.core` is the part of a record that no change of state, pause, wake phase or job touches; each operation on a port is
shown once to keep it. -/

section Core

variable {s t : State} {p : PortId} {c d : Port}

/-- A record without its state, its queue, its timers of current, its commitment, its offload flag and its AHEAD order. -/
def Port.core (c : Port) : Port := { c.base with offload := false, order := none }

theorem core_of_base (h : d.base = c.base) : d.core = c.core := by
  unfold Port.core
  rw [h]

theorem core_of_body (h : d.body = c.body) : d.core = c.core := by
  show d.body.core = c.body.core
  rw [h]

theorem core_of_unmarked (h : d.unmarked = c.unmarked) : d.core = c.core := by
  show d.unmarked.core = c.unmarked.core
  rw [h]

theorem core_modPort {f : Port → Port} (h : (f (s.port p)).core = (s.port p).core) : ((s.modPort p f).port p).core = (s.port p).core := by
  rw [port_modPort_self, h]

@[simp] theorem core_markPort (p q : PortId) (s : State) : ((markPort p s).port q).core = (s.port q).core :=
  core_of_unmarked (unmarked_markPort p q s)

@[simp] theorem core_settleCommitment (p : PortId) (s : State) : ((settleCommitment p s).port p).core = (s.port p).core := by
  rw [port_settleCommitment_eq]
  rfl

@[simp] theorem core_setPower (p : PortId) (new : Power) (s : State) : ((setPower p new s).port p).core = (s.port p).core :=
  core_of_base (setPower_record p new s).2

@[simp] theorem core_setOffload (p : PortId) (v : Bool) (s : State) : ((setOffload p v s).port p).core = (s.port p).core := by
  rw [port_setOffload_eq]
  rfl

@[simp] theorem core_enqueueJob (p : PortId) (k : JobKind) (s : State) : ((enqueueJob p k s).port p).core = (s.port p).core :=
  core_modPort (core_of_body (body_enqueue _ k))

@[simp] theorem core_loseSettings (p : PortId) (s : State) : ((loseSettings p s).port p).core = (s.port p).core :=
  loseSettings_field Port.core p p s fun _ => core_of_body rfl

@[simp] theorem core_enterDoze (p : PortId) (s : State) : ((enterDoze p s).port p).core = (s.port p).core := by
  simp [enterDoze]

@[simp] theorem core_enterDeep (p : PortId) (s : State) : ((enterDeep p s).port p).core = (s.port p).core := by
  unfold enterDeep
  rw [core_loseSettings]
  exact (core_setOffload p false _).trans (core_setPower p .deep s)

@[simp] theorem core_startKeepwarm (p : PortId) (s : State) : ((startKeepwarm p s).port p).core = (s.port p).core := by
  unfold startKeepwarm
  split
  · exact core_modPort rfl
  · simp

@[simp] theorem core_enterKeepwarm (p : PortId) (s : State) : ((enterKeepwarm p s).port p).core = (s.port p).core := by
  simp [enterKeepwarm]

@[simp] theorem core_pauseAction (p : PortId) (x : Target) (s : State) : ((pauseAction p x s).port p).core = (s.port p).core := by
  cases x <;> simp [pauseAction]

@[simp] theorem core_pauseReady (p : PortId) (ps : Pause) (s : State) : ((pauseReady p ps s).port p).core = (s.port p).core := by
  unfold pauseReady
  split <;> simp

@[simp] theorem core_pausingEvent (p : PortId) (s : State) : ((pausingEvent p s).port p).core = (s.port p).core := by
  unfold pausingEvent
  repeat' split
  all_goals simp

@[simp] theorem core_startRest (p : PortId) (s : State) : ((startRest p s).port p).core = (s.port p).core := by
  unfold startRest
  split
  · exact core_modPort rfl
  · rfl

@[simp] theorem core_setPrep (i : Nat) (v : Prep) (p q : PortId) (s : State) :
    ((setPrep i q v s).port p).core = (s.port p).core := rfl

@[simp] theorem core_prepareMember (c : Cue) (p : PortId) (s : State) : ((prepareMember c p s).port p).core = (s.port p).core := by
  have checked : (checkEntries p c.form c.profile s).port p = s.port p := by
    unfold checkEntries
    split <;> rfl
  unfold prepareMember
  dsimp only
  split
  · rw [core_setPrep, checked]
  · rw [core_setPrep, core_modPort (core_of_body (body_enqueue _ _)), checked]

@[simp] theorem core_checkOnReady (p : PortId) (s : State) : ((checkOnReady p s).port p).core = (s.port p).core :=
  forEach_field (fun u : State => (u.port p).core) _ (fun c u => core_prepareMember c p u) _ s

@[simp] theorem core_handOver (p : PortId) (s : State) : ((handOver p s).port p).core = (s.port p).core := by
  unfold handOver
  repeat' split
  · exact core_modPort ((core_of_body (body_enqueue _ _)).trans rfl)
  · rfl
  · rfl

@[simp] theorem core_enterReady (p : PortId) (rest : Bool) (s : State) : ((enterReady p rest s).port p).core = (s.port p).core := by
  unfold enterReady
  dsimp only
  rw [core_handOver]
  repeat' split
  all_goals simp

@[simp] theorem core_wakeDone (p : PortId) (s : State) : ((wakeDone p s).port p).core = (s.port p).core := by
  unfold wakeDone
  split <;> simp

end Core

/-! ## The entry to READY (R17, R21, R22) -/

section Ready

variable {s : State} {p : PortId} {ps : Pause}

theorem power_of_body {c d : Port} (h : d.body = c.body) : d.power = c.power := (congrArg Port.power h : _)

theorem power_checkOnReady (p : PortId) (s : State) : ((checkOnReady p s).port p).power = (s.port p).power := by
  refine forEach_field (fun u : State => (u.port p).power) _ (fun c u => ?_) _ s
  have checked : (checkEntries p c.form c.profile u).port p = u.port p := by
    unfold checkEntries
    split <;> rfl
  unfold prepareMember
  dsimp only
  split
  · exact congrArg Port.power checked
  · show ((State.modPort _ p _).port p).power = _
    rw [port_modPort_self, power_of_body (body_enqueue _ _), checked]

theorem power_handOver (p : PortId) (s : State) : ((handOver p s).port p).power = (s.port p).power := by
  unfold handOver
  repeat' split
  · rw [port_modPort_self, power_of_body (body_enqueue _ _)]
  · rfl
  · rfl

/-- A change that leaves the record as it is leaves the state as it is. -/
theorem modPort_same {f : Port → Port} (h : f (s.port p) = s.port p) : s.modPort p f = s := by
  have same : s.ports.set p.val (s.port p) p.isLt = s.ports := Vector.set_getElem_self p.isLt
  unfold State.modPort
  rw [h, same]

/-- The rest timer of a READY camera starts anew in a station, and is left in none. -/
theorem startRest_ready {rest hold : Option Nat} (h : (s.port p).power = .ready rest hold) :
    startRest p s = s.modPort p ({ · with
      power := .ready ((s.stationOf p).elim rest (fun f => some (addMs s.clock (f.linger * 1000)))) hold }) := by
  unfold startRest
  rw [h]
  cases s.stationOf p with
  | some f => rfl
  | none => exact (modPort_same (by simp only [Option.elim]; rw [← h])).symm

theorem restFrom_eq (s : State) (p : PortId) :
    s.restFrom p = (s.stationOf p).elim none (fun f => some (addMs s.clock (f.linger * 1000))) := by
  unfold State.restFrom
  cases s.stationOf p <;> rfl

/-- The jobs of a record stay as they are where the camera does not leave KEEPWARM. -/
theorem enter_queue {c : Port} (h : c.power.isKeepwarm = false) (now : Nat) (new : Power) :
    (Port.enter now new c).queue = c.queue ∧ (Port.enter now new c).waitLine = c.waitLine := by
  have rail (d : Port) (old : Power) : (d.railChange now old).queue = d.queue ∧ (d.railChange now old).waitLine = d.waitLine := by
    unfold Port.railChange
    repeat' split
    all_goals exact ⟨rfl, rfl⟩
  have wait (d : Port) : d.dropResumeWait.queue = d.queue ∧ d.dropResumeWait.waitLine = d.waitLine := by
    unfold Port.dropResumeWait
    split <;> exact ⟨rfl, rfl⟩
  obtain ⟨hq, hw⟩ := rail { c with power := new } c.power
  obtain ⟨hq', hw'⟩ := wait (({ c with power := new } : Port).railChange now c.power)
  unfold Port.enter
  dsimp only
  rw [h, Bool.false_and, if_neg Bool.false_ne_true]
  exact ⟨hq'.trans hq, hw'.trans hw⟩

theorem queue_setPower (h : (s.port p).power.isKeepwarm = false) (new : Power) :
    ((setPower p new s).port p).queue = (s.port p).queue ∧ ((setPower p new s).port p).waitLine = (s.port p).waitLine := by
  rw [port_setPower_eq]
  exact enter_queue h _ _

theorem stationOf_setPower (p : PortId) (new : Power) (s : State) : (setPower p new s).stationOf p = s.stationOf p :=
  stationOf_congr (stations_of_outer (outer_setPower p new s)) (setPower_field Port.station p new s)

theorem clock_setPower (p : PortId) (new : Power) (s : State) : (setPower p new s).clock = s.clock :=
  clock_of_outer (outer_setPower p new s)

/-- A pause that is taken stays taken when jobs join the camera's queue. -/
theorem PauseTaken.of_more {u v : State} (h : PauseTaken p ps s u) (hp : (v.port p).power = (u.port p).power)
    (hr : (v.port p).reading = (u.port p).reading) (hj : ∀ j ∈ (u.port p).jobs, j ∈ (v.port p).jobs) (ha : v.adv = u.adv) :
    PauseTaken p ps s v := by
  obtain ⟨held, taken⟩ := h
  refine ⟨fun g => hp ▸ held g, fun ho hi => ?_⟩
  obtain ⟨doze, deep, warm, hot⟩ := taken ho hi
  refine ⟨fun ht => ?_, fun ht => ?_, fun ht hg => hp ▸ warm ht hg, fun ht hg => hp ▸ hot ht hg⟩
  · obtain ⟨hd, j, hm, hk⟩ := doze ht
    exact ⟨hp ▸ hd, j, hj j hm, hk⟩
  · obtain ⟨hd, hz, hc⟩ := deep ht
    exact ⟨hp ▸ hd, hr ▸ hz, ha ▸ hc⟩

theorem jobs_enqueue {j : Job} {c : Port} (k : JobKind) (h : j ∈ c.jobs) : j ∈ (c.enqueue k).jobs := by
  unfold Port.jobs at h ⊢
  unfold Port.enqueue
  split
  · simp only [pushJob, List.mem_append] at h ⊢
    exact h.imp_left .inl
  · simp only [List.mem_append] at h ⊢
    exact h.imp_right .inl

theorem handOver_cases (p : PortId) (s : State) : handOver p s = s ∨
    ∃ k, handOver p s = s.modPort p (fun c => ({ c with order := none } : Port).enqueue k) := by
  unfold handOver
  repeat' split
  · exact .inr ⟨_, rfl⟩
  · exact .inl rfl
  · exact .inl rfl

theorem PauseTaken.handOver {u : State} (h : PauseTaken p ps s u) : PauseTaken p ps s (handOver p u) := by
  rcases handOver_cases p u with e | ⟨k, e⟩
  · rwa [e]
  · rw [e]
    refine h.of_more ?_ ?_ ?_ rfl <;> rw [port_modPort_self]
    · exact (field_of_body (body_enqueue _ _) Port.power).trans rfl
    · exact (field_of_body (body_enqueue _ _) Port.reading).trans rfl
    · exact fun j hj => jobs_enqueue k hj

/-- A camera that enters READY without a pending pause stays there; its rest timer starts in a station (R9, R17). -/
theorem enterReady_free (h : (s.port p).power.pending? = none) (rest : Bool) :
    ((enterReady p rest s).port p).power = .ready (if rest then s.restFrom p else none) none := by
  simp only [enterReady, h]
  rw [power_handOver, power_checkOnReady]
  cases rest with
  | false => exact power_setPower p _ s
  | true =>
    rw [if_pos rfl, startRest_ready (power_setPower p _ s), port_modPort_self, stationOf_setPower, clock_setPower, if_pos rfl,
      restFrom_eq]

/-- A pending pause is taken at the entry to READY (R17, R21). -/
theorem enterReady_pending (h : (s.port p).power.pending? = some ps) (rest : Bool) :
    PauseTaken p ps s (enterReady p rest s) := by
  have warm : (s.port p).power.isKeepwarm = false := by
    revert h
    cases (s.port p).power <;> simp [Power.pending?, Power.isKeepwarm]
  have held : ((setPower p (.ready none none) s).port p).pauseHeldByJob = (s.port p).pauseHeldByJob := by
    unfold Port.pauseHeldByJob
    rw [(queue_setPower warm _).1]
  have taken := pauseReady_taken p ps (setPower p (.ready none none) s)
  simp only [enterReady, h]
  exact (taken.congr (clock_setPower p _ s).symm (stationOf_setPower p _ s).symm (setPower_field Port.offload p _ s).symm
    held.symm (setPower_field Port.grade p _ s).symm rfl rfl).handOver

theorem marked_enterReady (h : (s.port p).power.isReady = false) (rest : Bool) : (enterReady p rest s).marked p := by
  have change : (s.port p).power.code ≠ (Power.ready none none).code := by
    revert h
    cases (s.port p).power <;> simp [Power.isReady, Power.code]
  have entered : OnPort p (setPower p (.ready none none) s) (enterReady p rest s) := by
    unfold enterReady
    dsimp only
    refine OnPort.handOver ?_
    split
    · exact (OnPort.refl p _).pauseReady _
    · split
      · exact (OnPort.refl p _).startRest.checkOnReady
      · exact (OnPort.refl p _).checkOnReady
  exact entered.marks p (marked_setPower change)

end Ready

/-! ## The notes of a record (R6) -/

section Notes

variable {s : State} {p : PortId}

theorem port_setXfer (x : Option InXfer) (s : State) (q : PortId) : ({ s with inXfer := x } : State).port q = s.port q := rfl

theorem port_addAbandoned_eq (p : PortId) (s : State) : (addAbandoned p s).port p =
    { s.port p with noteAbandoned := true, camMark := ((addAbandoned p s).port p).camMark } := by
  refine Port.eq_of_unmarked (d := { s.port p with noteAbandoned := true }) ?_
  unfold addAbandoned
  rw [unmarked_markPort, port_modPort_self]
  split <;> rfl

theorem port_addConflict_eq (p : PortId) (s : State) : (addConflict p s).port p =
    { s.port p with noteConflict := true, camMark := ((addConflict p s).port p).camMark } := by
  refine Port.eq_of_unmarked (d := { s.port p with noteConflict := true }) ?_
  unfold addConflict
  rw [unmarked_markPort, port_modPort_self]
  split <;> rfl

theorem port_setGradeChanged_eq (p : PortId) (s : State) : (setGradeChanged p s).port p =
    { s.port p with gradeChanged := true, camMark := ((setGradeChanged p s).port p).camMark } := by
  refine Port.eq_of_unmarked (d := { s.port p with gradeChanged := true }) ?_
  unfold setGradeChanged
  rw [unmarked_markPort, port_modPort_self]
  split <;> rfl

theorem marked_addAbandoned (p : PortId) (s : State) : (addAbandoned p s).marked p := marked_markPort p _

theorem marked_addConflict (p : PortId) (s : State) : (addConflict p s).marked p := marked_markPort p _

theorem marked_setGradeChanged (p : PortId) (s : State) : (setGradeChanged p s).marked p := marked_markPort p _

end Notes

end Sys2Proof.Machine

namespace Sys2Proof.Machine

/-! ## The wake phases (R18, R19, R20) -/

section Phases

variable {s : State} {p : PortId} {w : Wake}

theorem setPhase_waking (h : (s.port p).power = .waking w) (ph : Phase) (owed : Option WakeEx) :
    setPhase p ph owed s = s.modPort p ({ · with power := .waking { w with phase := ph, owed := owed } }) := by
  unfold setPhase
  rw [h]

theorem phase_waking (h : (s.port p).power = .waking w) : s.phase p = some w.phase := phase_eq_some.2 ⟨w, h, rfl⟩

/-- The two ways to say which wakes start the rest timer (R9). -/
theorem restAfterWake_eq (s : State) (p : PortId) (g : Forecast) :
    s.restAfterWake p g = if s.wakeStartsRest g then s.restFrom p else none := by
  unfold State.restAfterWake State.wakeStartsRest
  cases g.needed with
  | none => rfl
  | some i =>
    simp only [Option.bind_some]
    obtain hx | ⟨c, hx⟩ := Option.eq_none_or_eq_some (s.cue? i)
    · simp only [hx, if_true]
    · simp only [hx]
      cases hc : c.state <;> simp [CueState.planned?]

theorem wakeDone_waking (h : (s.port p).power = .waking w) : wakeDone p s = enterReady p (s.wakeStartsRest w.forecast) s := by
  unfold wakeDone
  rw [h]

theorem marked_wakeDone (h : (s.port p).power = .waking w) : (wakeDone p s).marked p := by
  rw [wakeDone_waking h]
  exact marked_enterReady (by rw [h]; rfl) _

/-- A wake without a pending pause ends in READY (R17). -/
theorem wakeDone_free (h : (s.port p).power = .waking w) (hp : w.pending = none) :
    ((wakeDone p s).port p).power = .ready (s.restAfterWake p w.forecast) none := by
  rw [wakeDone_waking h, enterReady_free (by rw [h]; exact hp), restAfterWake_eq]

theorem wakeDone_pending {ps : Pause} (h : (s.port p).power = .waking w) (hp : w.pending = some ps) :
    PauseTaken p ps s (wakeDone p s) := by
  rw [wakeDone_waking h]
  exact enterReady_pending (by rw [h]; exact hp) _

theorem exec_rampEnd {e : Nat} (h : (s.port p).power = .waking w) (hp : w.phase = .ramp e) (hd : s.slotReached e = true) :
    exec (.rampEnd p) s = .next (finish (setPhase p (.resetHold (addSlot e 5) false false) (some .resetWrite) s)) := by
  show execRampEnd p s = _
  rw [execRampEnd, phase_waking h, hp]
  exact congrArg Host.Outcome.next (if_pos (rampDue_iff.2 ⟨w, e, h, hp, hd⟩))

theorem exec_resetHoldEnd {e : Nat} {v : Bool} (h : (s.port p).power = .waking w) (hp : w.phase = .resetHold e false v)
    (hd : s.slotReached e = true) : exec (.resetHoldEnd p) s = .next (finish (releaseReset p e v s)) := by
  show execResetHoldEnd p s = _
  rw [execResetHoldEnd, phase_waking h, hp]
  exact congrArg Host.Outcome.next (if_pos (resetHoldDue_iff.2 ⟨w, e, v, h, hp, hd⟩))

theorem exec_initWaitRead {r m : Nat} (h : (s.port p).power = .waking w) (hp : w.phase = .initWait r m)
    (hd : s.slotReached r = true) :
    exec (.initWaitRead p) s = .next (finish (setPhase p (.initWait (addSlot r 5) m) (some .initRead) s)) := by
  show execInitWaitRead p s = _
  rw [execInitWaitRead, phase_waking h, hp]
  exact congrArg Host.Outcome.next (if_pos (initReadDue_iff.2 ⟨w, r, m, h, hp, hd⟩))

theorem exec_resumeRead {t n : Nat} (h : (s.port p).power = .waking w) (hp : w.phase = .resume (some t) n)
    (hd : reachedMs s.clock t = true) :
    exec (.resumeRead p) s = .next (finish (setPhase p (.resume none n) (some .resumeRead) s)) := by
  show execResumeRead p s = _
  rw [execResumeRead, phase_waking h, hp]
  exact congrArg Host.Outcome.next (if_pos (resumeReadDue_iff.2 ⟨w, t, n, h, hp, hd⟩))

/-- A due timed command carries out its operation. -/
theorem next_of_due {d : Bool} {t : State} (h : d = true) : (.next (if d then t else s) : Result) = .next t := by
  rw [if_pos h]

/-- Settles O31: each phase's timer sets the phase and the exchange that follow. -/
theorem wakePhaseTimers : Obligations.WakePhaseTimers := by
  refine ⟨fun p s w e h hp hd => ⟨?_, fun _ => ⟨rfl, rfl, rfl⟩, rfl⟩, fun p s w e v f h hp hd hf => ⟨?written, ?unwritten, rfl⟩,
    fun p s w r m h hp => ⟨fun hd => ?_, fun hd => ?_, fun _ => ⟨rfl, rfl, rfl, rfl, rfl⟩⟩,
    fun p s w t n h hp hd => ⟨?_, fun _ => ⟨rfl, rfl⟩⟩⟩
  · rw [exec_rampEnd h hp hd, setPhase_waking h]
  case written =>
    intro hv
    have max : (s.port p).initMax = f.initMax := by
      unfold Port.initMax
      rw [hf]
    rw [exec_resetHoldEnd h hp hd, releaseReset, if_pos hv, beginInitWait, setPhase_waking h, max]
  case unwritten =>
    intro hv
    rw [exec_resetHoldEnd h hp hd, releaseReset, if_neg (by simp [hv]), setPhase_waking h, h]
    rfl
  · rw [exec_initWaitRead h hp hd, setPhase_waking h]
  · rw [show exec (.initMaxExpiry p) s = execInitMaxExpiry p s from rfl, execInitMaxExpiry,
      next_of_due (initMaxDue_iff.2 ⟨w, r, m, h, hp, hd⟩), beginCalibrate, setPhase_waking h]
  · rw [exec_resumeRead h hp hd, setPhase_waking h]

/-- Settles O32: RESTORE follows the calibrate wait, or READY where there is nothing to restore. -/
theorem calibrateWaitEnd : Obligations.CalibrateWaitEnd := by
  intro p s w e h hp hd
  have run : exec (.calibrateWaitEnd p) s = .next (finish (beginRestore p s)) :=
    next_of_due (calibrateDue_iff.2 ⟨w, e, h, hp, hd⟩)
  rw [run]
  have ready (hs : s.shadowOf p = []) : beginRestore p s = wakeDone p s := by
    unfold beginRestore
    rw [hs]
  obtain ⟨still, table, -⟩ := outer_parts (outer_wakeDone p s)
  have others := (OnPort.refl p s).wakeDone.others
  refine ⟨fun pr rest hs => ?_, fun hs hn => ?_, fun ps hs hn => ?_⟩
  · unfold beginRestore
    rw [hs]
    simp only [setPhase_waking h]
  · have power := wakeDone_free h hn
    exact ⟨_, congrArg _ (congrArg _ (ready hs)), by rw [power]; rfl, power, marked_wakeDone h, table, still, others⟩
  · exact ⟨_, congrArg _ (congrArg _ (ready hs)), wakeDone_pending h hn, marked_wakeDone h, table, still, others⟩

end Phases

/-! ## ATTR_GET and ATTR_SET (R153, R154) -/

section Attributes

variable {s : State} {p : PortId} {r : Request}

theorem portOf?_val {n : Nat} {p : PortId} (h : n = p.val) : portOf? n = some p := by
  subst h
  exact dif_pos p.isLt

theorem portOf?_none {n : Nat} (h : 24 ≤ n) : portOf? n = none := dif_neg (Nat.not_lt.2 h)

theorem badWriteAttr_iff (a : Nat) :
    badWriteAttr a = true ↔ (63 < a ∨ (24 ≤ a ∧ a ≤ 31) ∨ a ≤ 12 ∨ a = 14 ∨ a = 15) := by
  simp [badWriteAttr, or_assoc]

theorem badReadAttr_iff (a : Nat) : badReadAttr a = true ↔ (63 < a ∨ (25 ≤ a ∧ a ≤ 31)) := by
  simp [badReadAttr]

theorem writeOnlyAttr_iff (a : Nat) : writeOnlyAttr a = true ↔ (13 ≤ a ∧ a ≤ 15) := by
  simp [writeOnlyAttr]

theorem isDeep_eq_true {w : Power} : w.isDeep = true ↔ w = .deep := by
  cases w <;> simp [Power.isDeep]

theorem hasRoom_iff (c : Port) : c.hasRoom = true ↔ c.queue.length < 8 := by
  simp [Port.hasRoom, Config.queueSize]

/-- Settles O30: the checks of ATTR_GET and ATTR_SET in their order. -/
theorem attrRequests : Obligations.AttrRequests := by
  have get {r : Request} {s : State} (ht : Taken .attrGet r s) : exec (.attrGet r) s = .next (serveAttrGet r.tag r.body s) :=
    exec_taken (k := .attrGet) ht
  have set {r : Request} {s : State} (ht : Taken .attrSet r s) : exec (.attrSet r) s = .next (serveAttrSet r.tag r.body s) :=
    exec_taken (k := .attrSet) ht
  refine ⟨fun r s h => ⟨fun ht => ?_, fun ht => ?_⟩, fun r s p hp => ⟨fun ht => ?read, fun ht => ?write, badWriteAttr_iff,
    fun w a => ?_, fun w a => ?_⟩⟩
  · rw [get ht, serveAttrGet, portOf?_none h]
    rfl
  · rw [set ht, serveAttrSet, portOf?_none h]
    rfl
  case read =>
    rw [get ht, serveAttrGet, portOf?_val hp]
    refine ⟨fun h => ?_, fun h => ?_, fun hb hw => ⟨fun hs => ?_, fun hs hq => ?_, fun hs hq => ?_⟩⟩
    · simp only [(badReadAttr_iff _).2 h, if_true]
      rfl
    · have hb : badReadAttr (u8 r.body 1) = false := Bool.eq_false_iff.2 fun e => by
        rw [badReadAttr_iff] at e
        omega
      simp only [hb, (writeOnlyAttr_iff _).2 h, Bool.false_eq_true, if_false, if_true]
      rfl
    · simp only [hb, hw, hs, Bool.false_eq_true, if_false, Bool.not_false, if_true]
      rfl
    · simp only [hb, hw, hs, Bool.eq_false_iff.2 (mt (hasRoom_iff _).1 (Nat.not_lt.2 hq)), Bool.false_eq_true, if_false,
        Bool.not_true, Bool.not_false, if_true]
      rfl
    · simp only [hb, hw, hs, (hasRoom_iff _).2 hq, Bool.false_eq_true, if_false, Bool.not_true]
      rfl
  case write =>
    rw [set ht, serveAttrSet, portOf?_val hp]
    refine ⟨fun h => ?_, fun hb => ⟨fun hs => ?_, fun hs hq => ?_, fun hs hq => ?_⟩⟩
    · simp only [h, if_true]
      rfl
    · simp only [hb, hs, Bool.false_eq_true, if_false, Bool.not_false, if_true]
      rfl
    · simp only [hb, hs, Bool.eq_false_iff.2 (mt (hasRoom_iff _).1 (Nat.not_lt.2 hq)), Bool.false_eq_true, if_false,
        Bool.not_true, Bool.not_false, if_true]
      rfl
    · simp only [hb, hs, (hasRoom_iff _).2 hq, Bool.false_eq_true, if_false, Bool.not_true]
      rfl
  · rw [Power.admitsRead_iff, isDeep_eq_true, not_and, not_or, Bool.not_eq_true]
  · rw [Power.admitsWrite_iff, isDeep_eq_true, not_and, not_or, Bool.not_eq_true]

end Attributes

/-! ## The full press and the sync pulse (R92, R93) -/

section Press

variable {s : State} {p : PortId} {o : Owner}

theorem pressDue_some (ho : s.owner = some o) (hp : o.pressed = false) (hd : reachedMs s.clock (addMs o.t0 o.focus) = true) :
    s.pressDue = some o := by
  simp [State.pressDue, ho, hp, Owner.pressAt, hd]

theorem syncDue_some (ho : s.owner = some o) (hp : o.pressed = true) (hs : o.synced = false)
    (hd : reachedMs s.clock (addMs o.t0 (o.focus + o.strobe)) = true) : s.syncDue = some o := by
  simp [State.syncDue, ho, hp, hs, Owner.syncAt, hd]

theorem anyArmed_iff : s.anyArmed o = true ↔ ∃ p ∈ s.ownerPorts o, (s.port p).power.isArmed = true := by
  simp [State.anyArmed]

/-- A state whose full-press line is asserted where it is ARMED. -/
def Power.pressed : Power → Power
  | .armed ps _ => .armed ps true
  | w => w

theorem pressed_unarmed {w : Power} (h : w.isArmed = false) : w.pressed = w := by
  revert h
  cases w <;> simp [Power.isArmed, Power.pressed]

theorem pressed_pressed (w : Power) : w.pressed.pressed = w.pressed := by
  cases w <;> rfl

theorem pressPort_eq (p : PortId) (s : State) : pressPort p s = s.modPort p (fun c => { c with power := c.power.pressed }) := by
  unfold pressPort
  split
  · rename_i ps full h
    exact modPort_congr (by simp only [Power.pressed, h])
  · rename_i h
    refine (modPort_same ?_).symm
    rw [pressed_unarmed]
    cases hp : (s.port p).power <;> first | rfl | exact absurd hp (h _ _)

/-- A full press changes the records of the ports named, and nothing else. -/
theorem forEach_pressPort (ps : List PortId) (s : State) : ∃ v, forEach ps pressPort s = { s with ports := v } ∧
    ∀ q, (forEach ps pressPort s).port q = if q ∈ ps then { s.port q with power := (s.port q).power.pressed } else s.port q := by
  induction ps generalizing s with
  | nil => exact ⟨s.ports, rfl, fun q => by simp [forEach]⟩
  | cons p ps ih =>
    obtain ⟨v, hv, hq⟩ := ih (pressPort p s)
    refine ⟨v, ?_, fun q => ?_⟩
    · show forEach ps pressPort (pressPort p s) = _
      rw [hv, pressPort_eq]
      rfl
    · show (forEach ps pressPort (pressPort p s)).port q = _
      rw [hq, pressPort_eq, port_modPort]
      by_cases e : p = q
      · simp [e, pressed_pressed]
      · simp [e, Ne.symm e]

/-- Settles O38: the full press of the ARMED members, and the pulse of the sync output where one is ARMED. -/
theorem pressAndSync : Obligations.PressAndSync := by
  refine ⟨fun s o ho hp hd => ?press, fun s => ⟨fun o ho hp hs hd => ?sync, fun t ht hd => ?ends⟩⟩
  case press =>
    obtain ⟨v, hv, hq⟩ := forEach_pressPort (s.ownerPorts o) { s with owner := some { o with pressed := true } }
    refine ⟨forEach (s.ownerPorts o) pressPort { s with owner := some { o with pressed := true } }, ?_, ?_⟩
    · show execFullPress s = _
      simp only [execFullPress, pressDue_some ho hp hd]
    · refine ⟨by rw [hv], by rw [hv]; rfl, by rw [hv], by rw [hv], by rw [hv], by rw [hv], by rw [hv], by rw [hv], by rw [hv],
        by rw [hv], fun p hm ps full h => ?_, fun p h => ?_⟩
      · have same : ({ s with owner := some { o with pressed := true } } : State).port p = s.port p := rfl
        rw [hq, if_pos hm, same, h]
        rfl
      · have same : ({ s with owner := some { o with pressed := true } } : State).port p = s.port p := rfl
        rw [hq, same]
        rcases h with h | h
        · exact if_neg h
        · rw [pressed_unarmed h, ite_self]
  case sync =>
    have run : exec .syncPulse s = .next { s with
        owner := some { o with synced := true }
        syncEnd := if s.anyArmed o then some (addMs s.clock 1) else s.syncEnd } := by
      show execSyncPulse s = _
      simp only [execSyncPulse, syncDue_some ho hp hs hd]
    rw [run]
    refine ⟨fun ⟨p, hm, ha⟩ => ?_, fun h => ?_⟩
    · rw [if_pos (anyArmed_iff.2 ⟨p, hm, ha⟩)]
      rfl
    · rw [if_neg (mt anyArmed_iff.1 fun ⟨p, hm, ha⟩ => by simp [h p hm] at ha)]
  case ends => exact next_of_due (expired_iff.2 ⟨t, ht, hd⟩)

end Press

end Sys2Proof.Machine

namespace Sys2Proof.Machine

/-! ## What the lanes leave when they choose (R32) -/

section Frame

variable {s t : State} {p : PortId}

/-- The parts of a state that the lanes leave: all that a command on a port leaves but the reply line. -/
def State.frame (s : State) :=
  (s.still, s.table, s.owner, s.lock, s.waiting, s.events, s.settles, s.settleReady)

theorem frame_of_outer (h : t.outer = s.outer) : t.frame = s.frame := by
  obtain ⟨still, table, owner, lock, waiting, events, -, settles, ready⟩ := outer_parts h
  simp only [State.frame, still, table, owner, lock, waiting, events, settles, ready]

theorem frame_startCheckFailed (p : PortId) (j : Job) (s : State) : (startCheckFailed p j s).frame = s.frame := by
  unfold startCheckFailed
  split
  case h_3 => exact frame_of_outer (outer_prepEnd ..)
  case h_4 => exact frame_of_outer (outer_returnOrder ..)
  all_goals rfl

theorem frame_jobEnd (p : PortId) (j : Job) (f : State → State) (hf : ∀ u, (f u).frame = u.frame) (s : State) :
    (jobEnd p j f s).frame = s.frame := by
  rw [jobEnd_eq]
  exact (frame_of_outer (outer_afterJob p j _)).trans ((hf _).trans rfl)

theorem frame_chooseNext (p : PortId) (n : Nat) (s : State) : (chooseNext p n s).frame = s.frame := by
  induction n generalizing s with
  | zero => rfl
  | succ n ih =>
    unfold chooseNext
    dsimp only
    repeat' split
    · rfl
    · exact frame_of_outer ((outer_setLane ..).trans (outer_clearOwed ..))
    · rfl
    · exact (ih _).trans (frame_jobEnd p _ id (fun _ => rfl) s)
    · exact frame_of_outer (outer_setLane ..)
    · exact frame_of_outer ((outer_setLane ..).trans (outer_markStarted ..))
    · exact (ih _).trans (frame_jobEnd p _ _ (frame_startCheckFailed p _) s)

theorem frame_kickAll (s : State) : (kickAll s).frame = s.frame :=
  forEach_field State.frame kick (fun p u => frame_chooseNext p _ u) allPorts s

end Frame

/-! ## The end of a step answers the settled stations (R152, log 10) -/

section Settles

variable {s v : State} {st : StationId} {l : List StationId}

/-- The settle reply that a station's pending SETTLE has where the station is settled. -/
def State.settleAnswer (v : State) (st : StationId) : Option SettleReply :=
  if v.settled st = true then (v.settleReq st).map (fun q =>
    ⟨q.tag, (if q.clamped = true then 0x01#8 else 0x00#8) :: le16 q.timeout⟩)
  else none

theorem settleReq_testSettle (st st' : StationId) (s : State) :
    (testSettle st s).settleReq st' = if st' = st ∧ s.settled st = true then none else s.settleReq st' := by
  rw [testSettle_eq]
  unfold State.settleReq
  by_cases hs : s.settled st = true
  · by_cases e : st' = st
    · subst e
      simp [hs]
    · have ne : st.val ≠ st'.val := fun h => e (Fin.ext h.symm)
      simp [hs, e, ne]
  · simp [hs]

/-- Each station of a list is tested once, in the order of the list. -/
theorem forEach_testSettle (nodup : l.Nodup) (v : State) :
    (∃ w, forEach l testSettle v =
      { v with settles := w, settleReady := v.settleReady ++ l.filterMap v.settleAnswer }) ∧
    ∀ st, (forEach l testSettle v).settleReq st = if st ∈ l ∧ v.settled st = true then none else v.settleReq st := by
  induction l generalizing v with
  | nil => exact ⟨⟨v.settles, by simp [forEach]⟩, fun st => by simp [forEach]⟩
  | cons x l ih =>
    obtain ⟨fresh, nodup⟩ := List.nodup_cons.1 nodup
    obtain ⟨⟨w, hw⟩, hq⟩ := ih nodup (testSettle x v)
    have answers : l.filterMap (testSettle x v).settleAnswer = l.filterMap v.settleAnswer := by
      refine List.filterMap_congr fun y hy => ?_
      have ne : y ≠ x := fun e => fresh (e ▸ hy)
      simp [State.settleAnswer, settleReq_testSettle, ne]
    have head : v.settleReady ++ (v.settleAnswer x).toList = (testSettle x v).settleReady := by
      rw [testSettle_eq]
      unfold State.settleAnswer
      by_cases hs : v.settled x = true <;> simp [hs]
    refine ⟨⟨w, ?_⟩, fun st => ?_⟩
    · show forEach l testSettle (testSettle x v) = _
      rw [hw, answers, ← head, testSettle_eq, List.filterMap_cons]
      cases v.settleAnswer x <;> simp
    · show (forEach l testSettle (testSettle x v)).settleReq st = _
      rw [hq, settled_testSettle, settleReq_testSettle]
      by_cases e : st = x
      · subst e
        simp [fresh]
      · simp [e]

theorem stationOf?_val {n : Nat} {st : StationId} (h : n = st.val) : stationOf? n = some st := by
  subst h
  exact dif_pos st.isLt

theorem stationOf?_none {n : Nat} (h : 4 ≤ n) : stationOf? n = none := dif_neg (Nat.not_lt.2 h)

theorem mem_membersOf {q : PortId} : q ∈ s.membersOf st ↔ (s.port q).station = some st := by
  simp [State.membersOf, mem_allPorts]

theorem settled_iff : s.settled st = true ↔ ∀ p, (s.port p).station = some st → (s.port p).queue = [] ∧
    (s.port p).waitLine = [] ∧ (s.port p).markPoll = false ∧ (s.port p).markThermal = false ∧
    (s.port p).markPing = false ∧ (s.port p).power.isWaking = false ∧ (s.port p).power.isPausing = false := by
  simp [State.settled, mem_membersOf, Port.settled, and_assoc]

/-- Settles O43: SETTLE by its three cases, its timer, and the test at the end of each step. -/
theorem settle : Obligations.Settle := by
  refine ⟨fun s v hv => ?step, fun r s ht h => ?bad, fun s st => ⟨fun r ht h => ?request, fun q hq hd => ?timeout, settled_iff⟩⟩
  case step =>
    have hv : v = kickAll s := hv
    have kept := frame_kickAll s
    rw [← hv] at kept
    have settles : v.settles = s.settles := congrArg (fun x => x.2.2.2.2.2.2.1) kept
    have ready : v.settleReady = s.settleReady := congrArg (fun x => x.2.2.2.2.2.2.2) kept
    have run : finish s = forEach allStations testSettle v := by rw [hv]; rfl
    obtain ⟨⟨w, hw⟩, hq⟩ := forEach_testSettle (l := allStations) (by decide) v
    refine ⟨?_, fun st hs => ?_, fun st hs => ?_, settles, ready, ?_⟩
    · rw [run, hw]
    · rw [run, hq, if_pos ⟨mem_allStations st, hs⟩]
    · rw [run, hq, if_neg (by simp [hs])]
      unfold State.settleReq
      rw [settles]
    · rw [run, hw]
      show v.settleReady ++ _ = _
      rw [ready]
      refine congrArg _ (List.filterMap_congr fun st _ => ?_)
      unfold State.settleAnswer State.settleReq
      rw [settles]
  case bad =>
    rw [show exec (.settle r) s = .next (serveSettle r.tag r.body s) from exec_taken (k := .settle) ht, serveSettle,
      stationOf?_none h]
    rfl
  case request =>
    rw [show exec (.settle r) s = .next (serveSettle r.tag r.body s) from exec_taken (k := .settle) ht, serveSettle,
      stationOf?_val h]
    refine ⟨fun hs => ?_, fun hn hs => ?_, fun hn hs => ?_⟩
    · simp only [hs, if_true]
      rfl
    · simp only [hn, hs, Option.isSome_none, Bool.false_eq_true, if_false, if_true]
      rw [answer_eq]
      by_cases e : clamp 1 60000 (u16 r.body 1) = u16 r.body 1 <;> simp [e, okOr, Status.code] <;> rfl
    · simp only [hn, hs, Option.isSome_none, Bool.false_eq_true, if_false]
  case timeout =>
    show execSettleTimeout st s = _
    have due : s.settleDue st = some q := by simp [State.settleDue, hq, hd]
    simp only [execSettleTimeout, due]
    rfl

end Settles

end Sys2Proof.Machine

namespace Sys2Proof.Machine

/-! ## BUDGET_SET (R150) -/

section Budgets

variable {s : State} {lo hi given low : Nat}

theorem clamp_low {v : Nat} (h : v < lo) : clamp lo hi v = lo := if_pos h

theorem clamp_high {v : Nat} (hl : lo ≤ hi) (h : hi < v) : clamp lo hi v = hi := by
  unfold clamp
  rw [if_neg (by omega), if_pos h]

theorem clamp_within {v : Nat} (hl : lo ≤ v) (hh : v ≤ hi) : clamp lo hi v = v := by
  unfold clamp
  rw [if_neg (by omega), if_neg (by omega)]

theorem clamp_range (h : lo ≤ hi) (v : Nat) : lo ≤ clamp lo hi v ∧ clamp lo hi v ≤ hi := by
  unfold clamp
  split
  · omega
  · split <;> omega

theorem clamp_eq_self (h : lo ≤ hi) {v : Nat} : clamp lo hi v = v ↔ lo ≤ v ∧ v ≤ hi := by
  refine ⟨fun e => ?_, fun ⟨hl, hh⟩ => clamp_within hl hh⟩
  rw [← e]
  exact clamp_range h v

theorem storedBudget_eq (lo hi given low : Nat) : storedBudget lo hi given low =
    if clamp lo hi (given / 100 * 100) < low then (low + 99) / 100 * 100 else clamp lo hi (given / 100 * 100) := rfl

/-- A stored budget is a multiple of 100 mA in its range that covers what is taken of it. -/
theorem storedBudget_spec (hl : lo % 100 = 0) (hh : hi % 100 = 0) (h : lo ≤ hi) (given low : Nat) :
    storedBudget lo hi given low % 100 = 0 ∧ lo ≤ storedBudget lo hi given low ∧ low ≤ storedBudget lo hi given low ∧
      (low ≤ hi → storedBudget lo hi given low ≤ hi) := by
  obtain ⟨hlo, hhi⟩ := clamp_range h (given / 100 * 100)
  have multiple : clamp lo hi (given / 100 * 100) % 100 = 0 := by
    unfold clamp
    split
    · exact hl
    · split
      · exact hh
      · exact Nat.mul_mod_left _ _
  rw [storedBudget_eq]
  split <;> omega

theorem port_clampProfiles (s : State) (p : PortId) :
    (clampProfiles s).port p = { s.port p with profile := (s.port p).profile.map (Profile.clampInrush s.inrush) } := by
  simp [clampProfiles, State.port, Port.clampTo]

theorem entryAt_clampProfiles (s : State) (k : Position) :
    (clampProfiles s).entryAt k = (s.entryAt k).map (IdEntry.clampTo s.inrush) := by
  simp [clampProfiles, State.entryAt]

theorem okOr_both (a b c d : Nat) :
    (okOr (decide (a ≠ b) || decide (c ≠ d))).code = if a = b ∧ c = d then 0x00#8 else 0x01#8 := by
  by_cases h : a = b <;> by_cases g : c = d <;> simp [h, g, okOr, Status.code]

/-- Settles O46: both budgets are stored by one rule, and the inrush figures are clamped to the new one. -/
theorem budgetSet : Obligations.BudgetSet := by
  intro r s ht
  obtain ⟨hs, hs', hs'', hs3⟩ := storedBudget_spec (lo := 1000) (hi := 40000) rfl rfl (by decide) (u16 r.body 0) s.committed
  obtain ⟨hi, hi', hi'', hi3⟩ :=
    storedBudget_spec (lo := 500) (hi := 10000) rfl rfl (by decide) (u16 r.body 2) s.highestOccupancy
  refine ⟨clampProfiles { s with
    steady := storedBudget 1000 40000 (u16 r.body 0) s.committed
    inrush := storedBudget 500 10000 (u16 r.body 2) s.highestOccupancy }, ?_, rfl, rfl, hs, hs', hs'', hs3, hi, hi', hi'', hi3,
    fun p => port_clampProfiles _ p, fun k => ?_, rfl⟩
  · have run : exec (.budgetSet r) s = .next (serveBudgetSet r.tag r.body s) := exec_taken (k := .budgetSet) ht
    rw [run, serveBudgetSet, answer_eq]
    rw [okOr_both]
    rfl
  · rw [entryAt_clampProfiles]
    refine congrArg (fun f => (s.entryAt k).map f) (funext fun e => ?_)
    show { e with profile := e.profile.map _ } = _
    congr 2
    funext g
    simp [StoredProfile.clampTo, Profile.clampInrush, Profile.overBudget, Bool.or_assoc, clampProfiles]
    rfl

end Budgets

/-! ## STATION_SET (R148) -/

section Stations

variable {s : State} {st : StationId} {p : PortId} {ports : List PortId}

theorem mem_portsOf {n : Nat} {p : PortId} : p ∈ portsOf n ↔ n.testBit p.val = true := by
  simp [portsOf, mem_allPorts]

theorem openCues_isEmpty : (s.openCues st).isEmpty = true ↔ ∀ c ∈ s.cues, c.station = st → c.state = .done := by
  simp [State.openCues]

theorem clashes_iff : s.clashes st ports = true ↔ ∃ p ∈ ports, ∃ st', (s.port p).station = some st' ∧ st' ≠ st := by
  unfold State.clashes
  rw [List.any_eq_true]
  refine exists_congr fun p => and_congr_right fun _ => ?_
  cases (s.port p).station <;> simp

theorem startRest_other (h : (s.port p).power.isReady = false) : startRest p s = s := by
  unfold startRest
  split
  · rename_i e _
    rw [e] at h
    cases h
  · rfl

/-- What a STATION_SET changes beside the station's fields: the records of the ports. -/
def SetAs (s v : State) : Prop := v = { s with ports := v.ports }

theorem setAs_modPort {v : State} (h : SetAs s v) (p : PortId) (f : Port → Port) : SetAs s (v.modPort p f) := by
  unfold SetAs at h ⊢
  rw [h]
  rfl

theorem setAs_changeMembership {v : State} (h : SetAs s v) (st : StationId) (ports : List PortId) (p : PortId) :
    SetAs s (changeMembership st ports p v) := by
  unfold changeMembership joinStation leaveStation startRest
  repeat' split
  all_goals first | exact h | exact setAs_modPort h p _ | exact setAs_modPort (setAs_modPort h p _) p _

theorem onPort_changeMembership (st : StationId) (ports : List PortId) (p : PortId) (s : State) :
    OnPort p s (changeMembership st ports p s) := by
  unfold changeMembership joinStation leaveStation
  repeat' split
  · exact .refl p s
  · exact ((OnPort.refl p s).modPort _).startRest
  · exact (OnPort.refl p s).modPort _
  · exact .refl p s

/-- A port that joins a station: its record, with the rest timer of a READY camera started. -/
theorem port_joinStation (st : StationId) (p : PortId) (s : State) : (joinStation st p s).port p = { s.port p with
    station := some st
    power := match (s.port p).power with
      | .ready _ hold => .ready (some (addMs s.clock ((s.station st).linger * 1000))) hold
      | w => w } := by
  have joined : (s.modPort p ({ · with station := some st })).stationOf p = some (s.station st) := by
    unfold State.stationOf
    rw [port_modPort_self]
    rfl
  unfold joinStation
  by_cases h : (s.port p).power.isReady = true
  · cases hp : (s.port p).power <;> simp only [hp, Power.isReady, Bool.false_eq_true] at h
    rw [startRest_ready (rest := _) (hold := _) ((congrArg Port.power (port_modPort_self p _ s)).trans hp), port_modPort_self,
      port_modPort_self, joined]
    rfl
  · rw [startRest_other (by rw [port_modPort_self]; exact Bool.eq_false_iff.2 h), port_modPort_self]
    cases hp : (s.port p).power <;> simp only [hp, Power.isReady, not_true_eq_false] at h ⊢ <;> rw [← hp]

/-- A change of the members leaves a port that is named and a member, and one that is neither. -/
theorem changeMembership_same {st : StationId} (h : p ∈ ports ↔ (s.port p).station = some st) :
    changeMembership st ports p s = s := by
  unfold changeMembership
  by_cases hm : (s.port p).station = some st
  · rw [if_pos (List.contains_iff_mem.2 (h.2 hm)), if_pos hm]
  · rw [if_neg (mt List.contains_iff_mem.1 (mt h.1 hm)), if_neg hm]

theorem changeMembership_joins {st : StationId} (hm : p ∈ ports) (h : (s.port p).station ≠ some st) :
    changeMembership st ports p s = joinStation st p s := by
  unfold changeMembership
  rw [if_pos (List.contains_iff_mem.2 hm), if_neg h]

theorem changeMembership_leaves {st : StationId} (hm : p ∉ ports) (h : (s.port p).station = some st) :
    changeMembership st ports p s = leaveStation p s := by
  unfold changeMembership
  rw [if_neg (mt List.contains_iff_mem.1 hm), if_pos h]

theorem clamp_clamp {lo hi : Nat} (h : lo ≤ hi) (v : Nat) : clamp lo hi (clamp lo hi v) = clamp lo hi v :=
  (clamp_eq_self h).2 (clamp_range h v)

theorem clamped_clamped (f : Station) : f.clamped.clamped = f.clamped := by
  have strobe : min (clamp 0 100 (min (clamp 0 100 f.strobe) (clamp 10 1000 f.press)))
      (clamp 10 1000 (clamp 10 1000 f.press)) = min (clamp 0 100 f.strobe) (clamp 10 1000 f.press) := by
    obtain ⟨-, hi⟩ := clamp_range (lo := 0) (hi := 100) (by decide) f.strobe
    rw [clamp_clamp (by decide), clamp_within (Nat.zero_le _) (by omega)]
    omega
  simp only [Station.clamped, Station.mk.injEq, true_and, strobe]
  exact ⟨clamp_clamp (by decide) _, clamp_clamp (by decide) _, clamp_clamp (by decide) _, clamp_clamp (by decide) _,
    clamp_clamp (by decide) _, clamp_clamp (by decide) _, clamp_clamp (by decide) _, clamp_clamp (by decide) _,
    clamp_clamp (by decide) _, clamp_clamp (by decide) _, clamp_clamp (by decide) _⟩

theorem clamped_eq_self (f : Station) : f.clamped = f ↔ f.linger ≤ 3600 ∧ f.dozeLimit ≤ 240 ∧ 1 ≤ f.pauseWait ∧
    f.pauseWait ≤ 600 ∧ f.guardSlots ≤ 50 ∧ f.prepTime ≤ 100 ∧ f.focusLead ≤ 1000 ∧ f.strobe ≤ 100 ∧ f.strobe ≤ f.press ∧
    10 ≤ f.press ∧ f.press ≤ 1000 ∧ f.slack ≤ 5000 ∧ 100 ≤ f.confirm ∧ f.confirm ≤ 5000 ∧ 5 ≤ f.keepBase ∧
    f.keepBase ≤ 120 ∧ 1 ≤ f.lockTimeout ∧ f.lockTimeout ≤ 60 := by
  have strobe (h : clamp 10 1000 f.press = f.press) :
      min (clamp 0 100 f.strobe) (clamp 10 1000 f.press) = f.strobe ↔ f.strobe ≤ 100 ∧ f.strobe ≤ f.press := by
    rw [h]
    unfold clamp
    split_ifs <;> omega
  refine ⟨fun h => ?_, fun h => ?_⟩
  · have fields := h
    rw [show f = ⟨_, _, _, _, _, _, _, _, _, _, _, _, _, _⟩ from rfl] at fields
    simp only [Station.clamped, Station.mk.injEq] at fields
    obtain ⟨-, h1, h2, h3, h4, h5, h6, h7, h8, h9, h10, h11, -, h12⟩ := fields
    have hs := (strobe h8).1 h7
    have := (clamp_eq_self (by decide)).1 h1
    have := (clamp_eq_self (by decide)).1 h2
    have := (clamp_eq_self (by decide)).1 h3
    have := (clamp_eq_self (by decide)).1 h4
    have := (clamp_eq_self (by decide)).1 h5
    have := (clamp_eq_self (by decide)).1 h6
    have := (clamp_eq_self (by decide)).1 h8
    have := (clamp_eq_self (by decide)).1 h9
    have := (clamp_eq_self (by decide)).1 h10
    have := (clamp_eq_self (by decide)).1 h11
    have := (clamp_eq_self (by decide)).1 h12
    omega
  · have press : clamp 10 1000 f.press = f.press := clamp_within (by omega) (by omega)
    unfold Station.clamped
    rw [(strobe press).2 (by omega), press, clamp_within (lo := 0) (hi := 3600) (by omega) (by omega),
      clamp_within (lo := 0) (hi := 240) (by omega) (by omega), clamp_within (lo := 1) (hi := 600) (by omega) (by omega),
      clamp_within (lo := 0) (hi := 50) (by omega) (by omega), clamp_within (lo := 0) (hi := 100) (by omega) (by omega),
      clamp_within (lo := 0) (hi := 1000) (by omega) (by omega), clamp_within (lo := 0) (hi := 5000) (by omega) (by omega),
      clamp_within (lo := 100) (hi := 5000) (by omega) (by omega), clamp_within (lo := 5) (hi := 120) (by omega) (by omega),
      clamp_within (lo := 1) (hi := 60) (by omega) (by omega)]

theorem station_setStation (st st' : StationId) (f : Station) (s : State) :
    (setStation st f s).station st' = if st' = st then f else s.station st' := by
  unfold setStation State.station
  by_cases e : st' = st
  · subst e
    simp
  · have ne : st.val ≠ st'.val := fun h => e (Fin.ext h.symm)
    simp [e, ne]

/-- The state that a taken STATION_SET leaves before its answer. -/
def stationed (st : StationId) (f : Station) (set : Nat) (s : State) : State :=
  forEach allPorts (changeMembership st (portsOf set)) (setStation st f.clamped s)

/-- Each port's record after a taken STATION_SET is the one that the change of its own membership gives it. -/
theorem stationed_ports (st : StationId) (f : Station) (set : Nat) (s : State) :
    SetAs (setStation st f.clamped s) (stationed st f set s) ∧ ∀ p, ∃ w, SetAs (setStation st f.clamped s) w ∧
      w.port p = s.port p ∧ (stationed st f set s).port p = (changeMembership st (portsOf set) p w).port p := by
  obtain ⟨as, -, each⟩ := forEach_ports (s := s) (P := SetAs (setStation st f.clamped s)) (changeMembership st (portsOf set))
    (fun p u => onPort_changeMembership st _ p u) (fun p u h _ => setAs_changeMembership h st _ p) allPorts nodup_allPorts
    (setStation st f.clamped s) rfl fun p _ => rfl
  exact ⟨as, fun p => each p (mem_allPorts p)⟩

theorem badPortSet_iff {n : Nat} : badPortSet n = true ↔ 16777216 ≤ n := by
  simp [badPortSet]

theorem okOr_bne {α : Type} [DecidableEq α] (f g : α) : (okOr (f != g)).code = if f = g then 0x00#8 else 0x01#8 := by
  by_cases h : f = g <;> simp [h, okOr, Status.code]

/-- Settles O44: the checks of STATION_SET in their order, and each port by its own membership. -/
theorem stationFields : Obligations.StationFields := by
  have run {r : Request} {s : State} (ht : Taken .stationSet r s) :
      exec (.stationSet r) s = .next (serveStationSet r.tag r.body s) := exec_taken (k := .stationSet) ht
  refine ⟨fun r s ht => ⟨fun h => ?bad, fun st set f hst hf hset => ⟨fun ⟨c, hc, hcs, hd⟩ => ?open_, fun hd =>
    ⟨fun ⟨p, st', hp, hq, hne⟩ => ?clash, fun hfree => ?taken⟩⟩⟩,
    fun lo hi v h => ⟨clamp_low, clamp_high h, clamp_within⟩,
    fun f => ⟨rfl, rfl, rfl, rfl, rfl, rfl, rfl, rfl, rfl, rfl, rfl, rfl, rfl, rfl, Nat.min_le_right _ _,
      clamped_clamped f, clamped_eq_self f⟩⟩
  case bad =>
    rw [run ht, serveStationSet]
    cases hst : stationOf? (u8 r.body 0) with
    | none => rfl
    | some st =>
      cases hf : stationFields? r.body with
      | none => rfl
      | some x =>
        have big : 16777216 ≤ x.1 := by
          rcases h with h | h | h
          · rw [stationOf?_none h] at hst
            cases hst
          · rw [hf] at h
            cases h
          · unfold stationFields? at hf
            split at hf
            · obtain rfl := Option.some.inj hf
              exact h
            · cases hf
        simp only [badPortSet_iff.2 big, if_true]
        rfl
  all_goals
    rw [run ht, serveStationSet, stationOf?_val hst, hf]
    have fits : badPortSet set = false := Bool.eq_false_iff.2 fun e => Nat.not_lt.2 (badPortSet_iff.1 e) hset
  case open_ =>
    have busy : (s.openCues st).isEmpty = false := Bool.eq_false_iff.2 fun e => hd (openCues_isEmpty.1 e c hc hcs)
    simp only [fits, busy, Bool.false_eq_true, if_false, Bool.not_false, if_true]
    rfl
  case clash =>
    have clash : s.clashes st (portsOf set) = true := clashes_iff.2 ⟨p, mem_portsOf.2 hp, st', hq, hne⟩
    simp only [fits, openCues_isEmpty.2 hd, clash, Bool.false_eq_true, if_false, Bool.not_true, if_true]
    rfl
  case taken =>
    have clash : s.clashes st (portsOf set) = false := Bool.eq_false_iff.2 fun e => by
      obtain ⟨p, hp, st', hq, hne⟩ := clashes_iff.1 e
      rcases hfree p (mem_portsOf.1 hp) with h | h <;> rw [h] at hq
      · cases hq
      · exact hne (Option.some.inj hq).symm
    obtain ⟨as, each⟩ := stationed_ports st f set s
    have same (p : PortId) (h : set.testBit p.val = true ↔ (s.port p).station = some st) :
        (stationed st f set s).port p = s.port p := by
      obtain ⟨w, -, hw, e⟩ := each p
      rw [e, changeMembership_same (by rw [mem_portsOf, hw]; exact h), hw]
    have joined (p : PortId) (hm : set.testBit p.val = true) (h : (s.port p).station = none) :
        (stationed st f set s).port p = { s.port p with
          station := some st
          power := match (s.port p).power with
            | .ready _ hold => .ready (some (addMs s.clock (clamp 0 3600 f.linger * 1000))) hold
            | w => w } := by
      obtain ⟨w, hw', hw, e⟩ := each p
      rw [e, changeMembership_joins (mem_portsOf.2 hm) (by rw [hw, h]; simp), port_joinStation, hw, hw']
      show ({ s.port p with station := _, power := match (s.port p).power with
        | .ready _ hold => .ready (some (addMs s.clock (((setStation st f.clamped s).station st).linger * 1000))) hold
        | w => w } : Port) = _
      rw [station_setStation, if_pos rfl] <;> rfl
    have left (p : PortId) (hm : set.testBit p.val = false) (h : (s.port p).station = some st) :
        (stationed st f set s).port p = { s.port p with
          station := none
          power := match (s.port p).power with
            | .ready _ _ => .ready none none
            | w => w } := by
      obtain ⟨w, -, hw, e⟩ := each p
      rw [e, changeMembership_leaves (by simp [mem_portsOf, hm]) (by rw [hw, h]), leaveStation, port_modPort_self, hw] <;> rfl
    refine ⟨stationed st f set s, ?_, ?_, fun st' hne => ?_, fun p => ?_, fun p hm h => same p (by simp [hm, h]),
      fun p hm h => same p (by simp [hm, h]), joined, fun p hm h hr => ?_, ?_, ?_, ?_, ?_⟩
    · simp only [fits, openCues_isEmpty.2 hd, clash, Bool.false_eq_true, if_false, Bool.not_true]
      rw [answer_eq, okOr_bne]
      rfl
    · rw [as]
      exact (station_setStation st st _ s).trans (if_pos rfl)
    · rw [as]
      exact (station_setStation st st' _ s).trans (if_neg hne)
    · by_cases hm : set.testBit p.val = true
      · rw [if_pos hm]
        rcases hfree p hm with h | h
        · rw [joined p hm h]
        · rw [same p (by simp [hm, h]), h]
      · rw [if_neg hm]
        by_cases h : (s.port p).station = some st
        · rw [if_pos h, left p (Bool.eq_false_iff.2 hm) h]
        · rw [if_neg h, same p (by simp [hm, h])]
    · rw [left p hm h]
      revert hr
      cases (s.port p).power <;> simp [Power.isReady]
    all_goals
      rw [as]
      rfl

end Stations

end Sys2Proof.Machine

namespace Sys2Proof.Machine

/-! ## The position of a new entry (R59) -/

section Positions

variable {s : State} {k : Position} {e : IdEntry} {l : List (Position × Nat)}

theorem longestUnbound_none : longestUnbound l = none ↔ l = [] := by
  cases l with
  | nil => simp [longestUnbound]
  | cons x xs =>
    unfold longestUnbound
    cases longestUnbound xs with
    | none => simp
    | some y =>
      dsimp only
      split <;> simp

/-- In a list in the order of the positions, the entry found is unbound longest, the lower position between equals. -/
theorem longestUnbound_spec {x : Position × Nat} (sorted : l.Pairwise (fun a b => a.1 < b.1)) (h : longestUnbound l = some x) :
    x ∈ l ∧ ∀ y ∈ l, y.2 < x.2 ∨ (y.2 = x.2 ∧ x.1 ≤ y.1) := by
  induction l generalizing x with
  | nil => simp [longestUnbound] at h
  | cons a as ih =>
    obtain ⟨first, sorted⟩ := List.pairwise_cons.1 sorted
    unfold longestUnbound at h
    cases has : longestUnbound as with
    | none =>
      obtain rfl : a = x := by simpa [has] using h
      simp [longestUnbound_none.1 has]
    | some y =>
      obtain ⟨hy, best⟩ := ih sorted has
      simp only [has] at h
      split at h <;> rename_i lt <;> obtain rfl := Option.some.inj h
      · refine ⟨List.mem_cons_of_mem _ hy, fun z hz => ?_⟩
        rcases List.mem_cons.1 hz with rfl | hz
        · exact .inl lt
        · exact best z hz
      · refine ⟨List.mem_cons_self, fun z hz => ?_⟩
        rcases List.mem_cons.1 hz with rfl | hz
        · exact .inr ⟨rfl, Nat.le_refl _⟩
        · have below := first z hz
          rcases best z hz with h | ⟨h, -⟩
          · exact .inl (by omega)
          · by_cases g : z.2 = a.2
            · exact .inr ⟨g, Nat.le_of_lt below⟩
            · exact .inl (by omega)

/-- How long an entry has been unbound, as the choice of a position counts it. -/
def State.unboundAge (s : State) (e : IdEntry) : Nat := diffMs s.clock (e.unbind.getD s.clock)

theorem mem_evictable {x : Position × Nat} : x ∈ s.evictable ↔ ∃ e, s.entryAt x.1 = some e ∧ e.bound = none ∧
    e.pinned = false ∧ x.2 = s.unboundAge e := by
  unfold State.evictable
  rw [List.mem_filterMap]
  constructor
  · rintro ⟨k, -, h⟩
    cases hk : s.entryAt k with
    | none => simp [hk] at h
    | some e =>
      simp only [hk] at h
      split at h
      · rename_i free
        obtain rfl := Option.some.inj h
        simp only [Bool.and_eq_true, Option.isNone_iff_eq_none, Bool.not_eq_true'] at free
        exact ⟨e, hk, free.1, free.2, rfl⟩
      · cases h
  · rintro ⟨e, hk, hb, hp, hx⟩
    refine ⟨x.1, mem_allPositions _, ?_⟩
    simp only [hk, hb, hp, Option.isNone_none, Bool.not_false, Bool.and_self, if_true]
    exact congrArg some (Prod.ext rfl hx.symm)

theorem pairwise_allPositions : allPositions.Pairwise (· < ·) := by decide

theorem sorted_evictable (s : State) : s.evictable.Pairwise (fun a b => a.1 < b.1) := by
  have key (k : Position) (x : Position × Nat) (h : (match s.entryAt k with
      | some e => if e.bound.isNone && !e.pinned then some (k, diffMs s.clock (e.unbind.getD s.clock)) else none
      | none => none) = some x) : x.1 = k := by
    split at h
    · split at h
      · exact congrArg Prod.fst (Option.some.inj h).symm
      · cases h
    · cases h
  refine List.pairwise_filterMap.2 (pairwise_allPositions.imp fun {a b} hab x hx y hy => ?_)
  rw [key a x hx, key b y hy]
  exact hab

/-- In a full table the new entry takes the place of the one unbound longest (R59). -/
theorem newPos_evicts (hf : s.freePos = none) (hk : s.entryAt k = some e) (hb : e.bound = none) (hp : e.pinned = false)
    (best : ∀ j d, s.entryAt j = some d → d.bound = none → d.pinned = false →
      s.unboundAge d < s.unboundAge e ∨ (s.unboundAge d = s.unboundAge e ∧ k ≤ j)) : s.newPos = some k := by
  have hm : (k, s.unboundAge e) ∈ s.evictable := mem_evictable.2 ⟨e, hk, hb, hp, rfl⟩
  unfold State.newPos
  rw [hf]
  cases hx : longestUnbound s.evictable with
  | none =>
    rw [longestUnbound_none.1 hx] at hm
    cases hm
  | some x =>
    obtain ⟨hxm, dominates⟩ := longestUnbound_spec (sorted_evictable s) hx
    obtain ⟨d, hd, hdb, hdp, hage⟩ := mem_evictable.1 hxm
    have domX := dominates _ hm
    have domK := best x.1 d hd hdb hdp
    dsimp only at domX
    simp only [Option.map_some, Option.some.injEq]
    rw [Fin.le_def] at domX domK
    rw [Fin.ext_iff]
    omega

theorem newPos_free (hf : s.freePos = some k) : s.newPos = some k := by
  unfold State.newPos
  rw [hf]

theorem newPos_none (hf : s.freePos = none) (he : s.evictable = []) : s.newPos = none := by
  simp [State.newPos, hf, he, longestUnbound]

end Positions

/-! ## ID_PIN and ID_UNPIN (R61, R62) -/

section Pins

variable {s : State} {k : Position} {e : IdEntry} {tag : Byte} {x : Ident} {o : Option StoredProfile} {v : Bool}

theorem pinIdentity_blocked (hx : s.posOf x = some k) (hk : s.entryAt k = some e) (h : s.pinBlocked e = true) :
    pinIdentity tag x o v s = s.replied 0x96#8 tag [0x05#8] := by
  simp only [pinIdentity, hx, hk, h, if_true]
  rfl

/-- An identity in the table is pinned in place; its bound port works with an override. -/
theorem pinIdentity_listed (hx : s.posOf x = some k) (hk : s.entryAt k = some e) (h : s.pinBlocked e = false) :
    pinIdentity tag x o v s = answer .idPin tag (okOr v) (pinReply (e.pin o).profile)
      (if o.isSome then copyProfile (e.pin o) (s.setEntry k (some (e.pin o))) else s.setEntry k (some (e.pin o))) := by
  simp only [pinIdentity, hx, hk, h, Bool.false_eq_true, if_false]

theorem pinIdentity_new (hx : s.posOf x = none) (hk : s.newPos = some k) : pinIdentity tag x o v s =
    answer .idPin tag (okOr v) (pinReply o) (s.setEntry k (some ⟨x, none, true, o, [], none⟩)) := by
  simp only [pinIdentity, hx, hk]

theorem pinIdentity_full (hx : s.posOf x = none) (hk : s.newPos = none) :
    pinIdentity tag x o v s = s.replied 0x96#8 tag [0x07#8] := by
  simp only [pinIdentity, hx, hk]
  rfl

theorem exec_idPin {r : Request} (ht : Taken .idPin r s) : exec (.idPin r) s = .next (serveIdPin r.tag r.body s) :=
  exec_taken (k := .idPin) ht

theorem exec_idPin_keep {r : Request} (ht : Taken .idPin r s) (h : u8 r.body 6 = 0) :
    exec (.idPin r) s = .next (pinIdentity r.tag (identAt r.body 0) none false s) := by
  rw [exec_idPin ht, serveIdPin, h]
  rfl

/-- The override that an ID_PIN with flag 1 stores. -/
def State.override (s : State) (b : List Byte) : StoredProfile := s.storedProfile (profileAt b 7).tidied true

theorem exec_idPin_override {r : Request} (ht : Taken .idPin r s) (h : u8 r.body 6 = 1) : exec (.idPin r) s =
    .next (pinIdentity r.tag (identAt r.body 0) (some (s.override r.body))
      ((s.override r.body).figures != profileAt r.body 7) s) := by
  rw [exec_idPin ht, serveIdPin, h]
  rfl

theorem code_override (f g : Profile) : ((okOr (f != g)).code = 0x00#8 ∨ (okOr (f != g)).code = 0x01#8) ∧
    ((okOr (f != g)).code = 0x00#8 ↔ f = g) := by
  refine ⟨okOr_code _, ?_⟩
  rw [okOr_bne]
  by_cases h : f = g <;> simp [h]

theorem port_copyProfile (e : IdEntry) (q : PortId) (s : State) : (copyProfile e s).port q =
    if e.bound = some q then { s.port q with profile := e.profile.map (·.figures) } else s.port q := by
  unfold copyProfile
  cases e.bound with
  | none => rfl
  | some p =>
    rw [port_modPort]
    by_cases h : p = q <;> simp [h]

theorem entryAt_copyProfile (e : IdEntry) (j : Position) (s : State) : (copyProfile e s).entryAt j = s.entryAt j := by
  unfold copyProfile
  split <;> rfl

/-- Settles O51: ID_PIN in the table, in a free position, in an evicted one, and refused; ID_UNPIN by the pin it finds. -/
theorem idPinning : Obligations.IdPinning := by
  refine ⟨fun r s ht => ⟨fun h => ?flag, fun k e hx hk hf hb => ?blocked, fun k e hx hk hf hb => ?keep,
    fun k e hx hk hf hb => ?override, fun k hx hk hf => ?free, fun k hx hk => ?new, fun hx hk he hf => ?full⟩,
    fun r s ht => ?unpin⟩
  case flag =>
    have none_ : flagOf? (u8 r.body 6) = none := by
      unfold flagOf?
      rw [if_neg (by omega), if_neg (by omega)]
    rw [exec_idPin ht, serveIdPin, none_]
    rfl
  case blocked =>
    rcases Nat.le_one_iff_eq_zero_or_eq_one.1 hf with hf | hf
    · rw [exec_idPin_keep ht hf, pinIdentity_blocked hx hk hb]
    · rw [exec_idPin_override ht hf, pinIdentity_blocked hx hk hb]
  case keep =>
    rw [exec_idPin_keep ht hf, pinIdentity_listed hx hk hb]
    rfl
  case override =>
    obtain ⟨ok, same⟩ := code_override (s.override r.body).figures (profileAt r.body 7)
    refine ⟨copyProfile (e.pin (some (s.override r.body))) (s.setEntry k (some (e.pin (some (s.override r.body))))),
      s.override r.body, _, ?_, ok, ?_, rfl, rfl, same, fun p hp => ?_, fun p hp => ?_, fun j hj => ?_⟩
    · rw [exec_idPin_override ht hf, pinIdentity_listed hx hk hb]
      rfl
    · rw [entryAt_copyProfile, entryAt_setEntry_self]
      rfl
    · exact congrArg Port.profile ((port_copyProfile (e.pin (some (s.override r.body))) p _).trans (if_pos hp))
    · exact (port_copyProfile (e.pin (some (s.override r.body))) p _).trans (if_neg hp)
    · rw [entryAt_copyProfile, entryAt_setEntry_ne (Ne.symm hj)]
  case free =>
    rw [exec_idPin_keep ht hf, pinIdentity_new hx (newPos_free hk)]
    rfl
  case new =>
    have place : s.newPos = some k := by
      rcases hk with hk | ⟨hf, e, hk, hb, hp, best⟩
      · exact newPos_free hk
      · exact newPos_evicts hf hk hb hp best
    refine ⟨fun hf => ?_, fun hf => ?_⟩
    · rw [exec_idPin_keep ht hf, pinIdentity_new hx place]
      rfl
    · obtain ⟨ok, same⟩ := code_override (s.override r.body).figures (profileAt r.body 7)
      refine ⟨s.override r.body, _, ?_, ok, rfl, rfl, same⟩
      rw [exec_idPin_override ht hf, pinIdentity_new hx place]
      rfl
  case full =>
    rcases Nat.le_one_iff_eq_zero_or_eq_one.1 hf with hf | hf
    · rw [exec_idPin_keep ht hf, pinIdentity_full hx (newPos_none hk he)]
    · rw [exec_idPin_override ht hf, pinIdentity_full hx (newPos_none hk he)]
  case unpin =>
    have run : exec (.idUnpin r) s = .next (serveIdUnpin r.tag r.body s) := exec_taken (k := .idUnpin) ht
    rw [run, serveIdUnpin]
    refine ⟨fun hx => by rw [hx]; rfl, fun k e hx hk => ⟨fun hp => ?_, fun hp => ?_⟩⟩
    · rw [hx]
      simp only [hk, hp, Option.map_some, if_true, answer_eq]
      congr 3
      simp only [IdEntry.unpin, Option.isNone_iff_eq_none]
    · have same : s.setEntry k (some e) = s := by
        have : s.table.set k.val (some e) k.isLt = s.table := by
          rw [← hk]
          exact Vector.set_getElem_self k.isLt
        unfold State.setEntry
        rw [this]
      rw [hx]
      simp only [hk, hp, Option.map_some, Bool.false_eq_true, if_false, same]
      rfl

end Pins

/-! ## ID_CLEAR and ID_AGING (R63, R64) -/

section Removals

variable {s : State} {k : Position} {e : IdEntry}

/-- Beside the entry itself, a removal touches the camera that the entry was bound to. -/
theorem removeEntry_outer (hk : s.entryAt k = some e) : (removeEntry k s).outer = (s.setEntry k none).outer := by
  unfold removeEntry
  rw [hk]
  dsimp only
  split
  · simp
  · rfl

theorem removeEntry_unbound (hk : s.entryAt k = some e) (hb : e.bound = none) : removeEntry k s = s.setEntry k none := by
  unfold removeEntry
  rw [hk]
  simp only [hb]

theorem entryAt_of_outer {t : State} (h : t.outer = s.outer) (k : Position) : t.entryAt k = s.entryAt k := by
  unfold State.entryAt
  rw [table_of_outer h]

theorem walk_of_outer {t : State} (h : t.outer = s.outer) : t.walk = s.walk :=
  congrArg (fun x => x.1.2.2.2.2.2.1) h

theorem visitPosition_keeps (h : ∀ e, s.entryAt k = some e → e.pinned = true) : visitPosition k s = s := by
  unfold visitPosition
  split
  · exact if_pos (h _ ‹_›)
  · rfl

theorem visitPosition_removes (hk : s.entryAt k = some e) (hp : e.pinned = false) : visitPosition k s = removeEntry k s := by
  unfold visitPosition
  rw [hk]
  simp only [hp, Bool.false_eq_true, if_false]

/-- A visit of the clear walk removes an unpinned entry, and changes no other position. -/
theorem visitPosition_spec (k : Position) (s : State) :
    (visitPosition k s).clock = s.clock ∧ (visitPosition k s).line = s.line ∧ (visitPosition k s).walk = s.walk ∧
    (∀ j, j ≠ k → (visitPosition k s).entryAt j = s.entryAt j) ∧
    (visitPosition k s).entryAt k = (s.entryAt k).filter (·.pinned) := by
  by_cases h : ∀ e, s.entryAt k = some e → e.pinned = true
  · rw [visitPosition_keeps h]
    refine ⟨rfl, rfl, rfl, fun _ _ => rfl, ?_⟩
    cases hk : s.entryAt k with
    | none => rfl
    | some e => exact (Option.filter_some_pos (h e hk)).symm
  · simp only [not_forall] at h
    obtain ⟨e, hk, hp⟩ := h
    have outer := removeEntry_outer hk
    rw [visitPosition_removes hk (Bool.eq_false_iff.2 hp)]
    refine ⟨(clock_of_outer outer).trans rfl, (line_of_outer outer).trans rfl, (walk_of_outer outer).trans rfl, fun j hj => ?_, ?_⟩
    · exact (entryAt_of_outer outer j).trans (entryAt_setEntry_ne (Ne.symm hj) _ s)
    · rw [entryAt_of_outer outer k, entryAt_setEntry_self, hk, Option.filter_some_neg (Bool.eq_false_iff.2 hp)]

/-- The entry of a position once the aged entries have gone. -/
def State.fresh (s : State) (k : Position) : Option IdEntry := (s.entryAt k).filter (fun e => !s.agedOut e)

/-- One position, as ID_AGING takes it. -/
def dropAged (k : Position) (s : State) : State :=
  match s.entryAt k with
  | some e => if s.agedOut e then removeEntry k s else s
  | none => s

theorem removeAged_eq (s : State) : removeAged s = forEach allPositions dropAged s := rfl

theorem dropAged_spec (k : Position) (s : State) : (∃ t, dropAged k s = { s with table := t }) ∧
    ∀ j, (dropAged k s).entryAt j = if j = k then s.fresh j else s.entryAt j := by
  by_cases h : ∀ e, s.entryAt k = some e → s.agedOut e = false
  · have same : dropAged k s = s := by
      unfold dropAged
      split
      · exact if_neg (by simp [h _ ‹_›])
      · rfl
    rw [same]
    refine ⟨⟨s.table, rfl⟩, fun j => ?_⟩
    split
    · rename_i e
      subst e
      unfold State.fresh
      cases hk : s.entryAt j with
      | none => rfl
      | some e => exact (Option.filter_some_pos (by simp [h e hk])).symm
    · rfl
  · simp only [not_forall, Bool.not_eq_false] at h
    obtain ⟨e, hk, ha⟩ := h
    obtain ⟨t, hb, -⟩ := agedOut_iff.1 ha
    have gone : dropAged k s = s.setEntry k none := by
      unfold dropAged
      rw [hk]
      simp only [ha, if_true]
      exact removeEntry_unbound hk hb
    rw [gone]
    refine ⟨⟨_, rfl⟩, fun j => ?_⟩
    split
    · rename_i e'
      subst e'
      rw [entryAt_setEntry_self, State.fresh, hk, Option.filter_some_neg (by simp [ha])]
    · rename_i ne
      exact entryAt_setEntry_ne (Ne.symm ne) _ s

/-- What ID_AGING removes of the positions of a list: each entry that has aged out, and nothing else. -/
theorem forEach_dropAged (l : List Position) (s : State) : (∃ t, forEach l dropAged s = { s with table := t }) ∧
    ∀ k, (forEach l dropAged s).entryAt k = if k ∈ l then s.fresh k else s.entryAt k := by
  induction l generalizing s with
  | nil => exact ⟨⟨s.table, rfl⟩, fun k => by simp [forEach]⟩
  | cons a l ih =>
    obtain ⟨⟨t, ht⟩, hd⟩ := dropAged_spec a s
    obtain ⟨⟨t', ht'⟩, each⟩ := ih (dropAged a s)
    have fresh (k : Position) : (dropAged a s).fresh k = s.fresh k := by
      have aged : (dropAged a s).agedOut = s.agedOut := by rw [ht]; rfl
      unfold State.fresh
      rw [hd, aged]
      split
      · unfold State.fresh
        cases s.entryAt k with
        | none => rfl
        | some e => cases h : s.agedOut e <;> simp [h]
      · rfl
    refine ⟨⟨t', ?_⟩, fun k => ?_⟩
    · show forEach l dropAged (dropAged a s) = _
      rw [ht', ht]
    · show (forEach l dropAged (dropAged a s)).entryAt k = _
      rw [each, fresh, hd]
      by_cases e : k = a <;> by_cases m : k ∈ l <;> simp [e, m]

theorem visitDue_some {w : Walk} (hw : s.walk = some w) (hn : w.next < 32)
    (hd : reachedMs s.clock (addMs w.t0 (2 * w.next)) = true) : s.visitDue = some w := by
  simp [State.visitDue, hw, hn, hd]

/-- Settles O52: the clear walk by its visits, and aging by what each entry's age says. -/
theorem idRemoval : Obligations.IdRemoval := by
  refine ⟨fun s => ⟨fun r ht => ?clear, fun w k hw hn hd => ?visit, fun w hw hn hd => ?ends⟩,
    fun s => ⟨fun r ht => ?aging, fun k e t hk hb hp hu ha => ?expiry⟩⟩
  case clear =>
    rw [show exec (.idClear r) s = .next (serveIdClear r.tag r.body s) from exec_taken (k := .idClear) ht, serveIdClear]
    refine ⟨fun h => ?_, fun h => ?_⟩
    · rw [if_neg (by simp [h])]
      rfl
    · rw [if_pos h]
      rfl
  case visit =>
    have due := visitDue_some hw (hn ▸ k.isLt) hd
    have pos (h : w.next < 32) : (⟨w.next, h⟩ : Position) = k := Fin.ext hn
    obtain ⟨clock, line, walk, others, here⟩ := visitPosition_spec k { s with walk := some { w with next := w.next + 1 } }
    refine ⟨visitPosition k { s with walk := some { w with next := w.next + 1 } }, ?_, walk, others, fun e hk hp => ?_,
      fun e hk hp => ?_, fun hk => ?_, clock, line⟩
    · show execClearWalkVisit s = _
      simp only [execClearWalkVisit, due, dif_pos (hn ▸ k.isLt : w.next < 32), pos]
    · exact here.trans ((congrArg _ hk).trans (Option.filter_some_pos hp))
    · exact here.trans ((congrArg _ hk).trans (Option.filter_some_neg (by simp [hp])))
    · exact here.trans (congrArg _ hk)
  case ends => exact next_of_due (walkEndDue_iff.2 ⟨w, hw, hn, hd⟩)
  case aging =>
    rw [show exec (.idAging r) s = .next (serveIdAging r.tag r.body s) from exec_taken (k := .idAging) ht, serveIdAging]
    obtain ⟨⟨t, ht⟩, each⟩ := forEach_dropAged allPositions { s with aging := clamp 1 300 (u16 r.body 0) }
    rw [← removeAged_eq] at ht each
    refine ⟨removeAged { s with aging := clamp 1 300 (u16 r.body 0) }, ?_, by rw [ht], by rw [ht], fun k e hk =>
      ⟨fun hb hp ⟨u, hu, ha⟩ => ?_, fun h => ?_⟩⟩
    · by_cases e : clamp 1 300 (u16 r.body 0) = u16 r.body 0 <;> simp only [e, if_true, if_false, answer_eq] <;> rfl
    · have aged : State.agedOut { s with aging := clamp 1 300 (u16 r.body 0) } e = true := agedOut_iff.2 ⟨u, hb, hp, hu, ha⟩
      rw [each, if_pos (mem_allPositions k)]
      exact (congrArg _ hk).trans (Option.filter_some_neg (by simp [aged]))
    · have kept : State.agedOut { s with aging := clamp 1 300 (u16 r.body 0) } e = false := Bool.eq_false_iff.2 fun g => by
        obtain ⟨u, hb, hp, hu, ha⟩ := agedOut_iff.1 g
        rcases h with h | h | ⟨v, hv, h⟩
        · simp [hb] at h
        · simp [hp] at h
        · rw [hu] at hv
          obtain rfl := Option.some.inj hv
          exact absurd ha (Nat.not_le.2 h)
      rw [each, if_pos (mem_allPositions k)]
      exact (congrArg _ hk).trans (Option.filter_some_pos (by simp [kept]))
  case expiry =>
    refine (next_of_due (agingDue_iff.2 ⟨e, t, hk, hb, hp, hu, ha⟩)).trans ?_
    rw [removeEntry_unbound hk hb]

end Removals

end Sys2Proof.Machine

namespace Sys2Proof.Machine

/-! # Proofs: the loss of a camera in the cues (R11)

`Cue.lost` is what a cue records of a camera that enters FAULT or VACANT. A cue of an id that no other cue of the list has is
followed through the list: it is left by what is recorded in the others, takes its own record once, and keeps it. -/

section Steps

variable {s t u : State} {i : Nat}

/-- A step on the cues of one id: it leaves the other cues and the reports that wait, and no new id comes. -/
structure CueStep (i : Nat) (s t : State) : Prop where
  others : ∀ x : Cue, x.id ≠ i → (x ∈ t.cues ↔ x ∈ s.cues)
  reports : ∀ r ∈ s.reports, r ∈ t.reports
  ids : ∀ x ∈ t.cues, ∃ y ∈ s.cues, y.id = x.id

namespace CueStep

theorem refl (i : Nat) (s : State) : CueStep i s s := ⟨fun _ _ => Iff.rfl, fun _ => id, fun x hx => ⟨x, hx, rfl⟩⟩

theorem trans (h : CueStep i s t) (g : CueStep i t u) : CueStep i s u where
  others := fun x hx => (g.others x hx).trans (h.others x hx)
  reports := fun r => g.reports r ∘ h.reports r
  ids := fun x hx => by
    obtain ⟨y, hy, e⟩ := g.ids x hx
    obtain ⟨z, hz, e'⟩ := h.ids y hy
    exact ⟨z, hz, e'.trans e⟩

theorem modCue {f : Cue → Cue} (hf : ∀ x, (f x).id = x.id) (i : Nat) (s : State) : CueStep i s (modCue i f s) where
  others := fun x hx => by
    refine ⟨fun h => ?_, fun h => List.mem_map.2 ⟨x, h, if_neg hx⟩⟩
    obtain ⟨y, hy, rfl⟩ := List.mem_map.1 h
    by_cases e : y.id = i
    · rw [if_pos e, hf] at hx
      exact absurd e hx
    · rwa [if_neg e]
  reports := fun _ => id
  ids := fun x hx => by
    obtain ⟨y, hy, rfl⟩ := List.mem_map.1 hx
    refine ⟨y, hy, ?_⟩
    split
    · exact (hf y).symm
    · rfl

theorem removeCue (i : Nat) (s : State) : CueStep i s (removeCue i s) where
  others := fun x hx => by simp [hx]
  reports := fun _ => id
  ids := fun x hx => ⟨x, List.mem_of_mem_filter hx, rfl⟩

theorem addReport (i : Nat) (r : Report) (s : State) : CueStep i s { s with reports := s.reports ++ [r] } where
  others := fun _ _ => Iff.rfl
  reports := fun _ => List.mem_append_left _
  ids := fun x hx => ⟨x, hx, rfl⟩

theorem reportCue (i : Nat) (s : State) : CueStep i s (reportCue i s) := by
  unfold Machine.reportCue
  repeat' split
  · exact (addReport i _ s).trans (removeCue i _)
  · exact modCue (f := ({ · with mark := true })) (fun _ => rfl) i s
  · exact refl i s

theorem finishCue (i : Nat) (s : State) : CueStep i s (finishCue i s) :=
  (modCue (f := ({ · with state := .done, timer := none, confirm := [] })) (fun _ => rfl) i s).trans (reportCue i _)

theorem confirmEnd (i : Nat) (s : State) : CueStep i s (confirmEnd i s) := by
  unfold Machine.confirmEnd
  repeat' split
  · exact finishCue i s
  · exact refl i s
  · exact refl i s

end CueStep

/-- A cue of the list, alone of its id. -/
def HasCue (s : State) (x : Cue) : Prop := x ∈ s.cues ∧ ∀ y ∈ s.cues, y.id = x.id → y = x

theorem HasCue.named {x : Cue} (h : HasCue s x) : s.cue? x.id = some x := cue?_of_unique h.1 h.2

theorem HasCue.step {x : Cue} (h : HasCue s x) (hi : x.id ≠ i) (g : CueStep i s t) : HasCue t x :=
  ⟨(g.others x hi).2 h.1, fun y hy e => h.2 y ((g.others y (e ▸ hi)).1 hy) e⟩

theorem HasCue.modCue {x : Cue} {f : Cue → Cue} (h : HasCue s x) (hf : ∀ y, (f y).id = y.id) : HasCue (modCue x.id f s) (f x) := by
  refine ⟨List.mem_map.2 ⟨x, h.1, if_pos rfl⟩, fun y hy e => ?_⟩
  obtain ⟨z, hz, rfl⟩ := List.mem_map.1 hy
  by_cases g : z.id = x.id
  · rw [if_pos g, h.2 z hz g]
  · rw [if_neg g, hf] at e
    exact absurd e g

theorem HasCue.modSame {x : Cue} {f : Cue → Cue} (h : HasCue s x) (hf : ∀ y, (f y).id = y.id) (hx : f x = x) :
    HasCue (Machine.modCue x.id f s) x := by
  have g := h.modCue hf
  rwa [hx] at g

/-- A cue that is out of the list, with its CUE_DONE in the report queue. -/
def Posted (s : State) (x : Cue) : Prop := (∀ y ∈ s.cues, y.id ≠ x.id) ∧ Report.cueDone x.doneBody ∈ s.reports

/-- A cue that is DONE with its mark set. -/
def Cue.ended (x : Cue) : Cue := { x with state := .done, timer := none, confirm := [], mark := true }

theorem Posted.step {x : Cue} (h : Posted s x) (g : CueStep i s t) : Posted t x :=
  ⟨fun y hy e => by
    obtain ⟨z, hz, e'⟩ := g.ids y hy
    exact h.1 z hz (e'.trans e), g.reports _ h.2⟩

/-- The end of a cue leaves it reported: out of the list with its CUE_DONE, or DONE with its mark set. -/
theorem HasCue.finish {x : Cue} (h : HasCue s x) : Posted (finishCue x.id s) x ∨ HasCue (finishCue x.id s) x.ended := by
  obtain ⟨room, full⟩ := finishCue_unique h.named h.2
  rcases Nat.lt_or_ge s.reports.length 16 with n | n
  · rw [room n]
    refine .inl ⟨fun y hy e => ?_, List.mem_append_right _ (List.mem_singleton_self _)⟩
    simp [e] at hy
  · rw [full n]
    refine .inr ⟨List.mem_map.2 ⟨x, h.1, if_pos rfl⟩, fun y hy e => ?_⟩
    obtain ⟨z, -, rfl⟩ := List.mem_map.1 hy
    by_cases g : z.id = x.id
    · exact if_pos g
    · rw [if_neg g] at e
      exact absurd e g

theorem modCue_absent {f : Cue → Cue} (h : ∀ y ∈ s.cues, y.id ≠ i) : Machine.modCue i f s = s := by
  have same : s.cues.map (fun c => if c.id = i then f c else c) = s.cues :=
    (List.map_congr_left fun y hy => if_neg (h y hy)).trans (List.map_id _)
  unfold Machine.modCue
  rw [same]

theorem confirmEnd_other {i : Nat} (h : ∀ x, s.cue? i = some x → x.state ≠ .confirming ∨ x.confirm ≠ []) :
    confirmEnd i s = s := by
  unfold confirmEnd
  split
  · rename_i x hx
    exact if_neg fun ⟨hs, hc⟩ => (h x hx).elim (absurd hs) (absurd hc)
  · rfl

end Steps

section Loss

variable {s t u : State} {p : PortId} {c : Cue} {d : Disp} {o : CamOutcome}

/-- What a member of a cue in PREPARING or FIRE_WAIT records: its status stays in a cue with an empty profile (log 15). -/
def Member.lose (d : Disp) (c : Cue) (m : Member) : Member :=
  { m with disp := some d, ready := none, prep := if c.profile = [] then m.prep else .notStarted }

/-- What a cue records of a camera that is lost, as a change of its record (Table 11). -/
def Cue.losing (p : PortId) (d : Disp) (o : CamOutcome) (c : Cue) : Cue → Cue :=
  match c.state with
  | .planned => (·.modMember p ({ · with disp := some d, ready := none, prep := .notStarted }))
  | .preparing => (·.modMember p (Member.lose d c))
  | .fireWait => (·.modMember p (Member.lose d c))
  | .firing => (·.withOutcome p o)
  | .confirming => if p ∈ c.confirm then (·.withOutcome p o) else fun x => x
  | .waiting => fun x => x
  | .done => fun x => x

/-- The record of a cue that has recorded the loss. -/
def Cue.lost (p : PortId) (d : Disp) (o : CamOutcome) (c : Cue) : Cue := c.losing p d o c

theorem modMember_twice (c : Cue) (p : PortId) {f : Member → Member} (hp : ∀ m, (f m).port = m.port)
    (hf : ∀ m, f (f m) = f m) : (c.modMember p f).modMember p f = c.modMember p f := by
  unfold Cue.modMember
  simp only [List.map_map]
  congr 1
  refine List.map_congr_left fun m _ => ?_
  by_cases h : m.port = p <;> simp [h, hp, hf]

theorem withOutcome_withOutcome (c : Cue) (p : PortId) (o : CamOutcome) :
    (c.withOutcome p o).withOutcome p o = c.withOutcome p o := by
  have members : ((c.modMember p ({ · with outcome := some o })).modMember p ({ · with outcome := some o })).members =
      (c.modMember p ({ · with outcome := some o })).members :=
    congrArg Cue.members (modMember_twice c p (f := ({ · with outcome := some o })) (fun _ => rfl) fun _ => rfl)
  have confirm : (c.confirm.filter (· != p)).filter (· != p) = c.confirm.filter (· != p) := by
    rw [List.filter_filter]
    simp
  unfold Cue.withOutcome
  rw [Cue.mk.injEq]
  exact ⟨rfl, rfl, rfl, rfl, rfl, rfl, rfl, members, rfl, confirm, rfl, rfl⟩

theorem lose_lose (c : Cue) (d : Disp) (m : Member) : Member.lose d c (Member.lose d c m) = Member.lose d c m := by
  unfold Member.lose
  by_cases h : c.profile = [] <;> simp [h]

theorem losing_id (p : PortId) (d : Disp) (o : CamOutcome) (c x : Cue) : (c.losing p d o x).id = x.id := by
  unfold Cue.losing
  cases c.state with
  | confirming => by_cases h : p ∈ c.confirm <;> simp only [h, if_true, if_false] <;> rfl
  | _ => rfl

theorem losing_losing (p : PortId) (d : Disp) (o : CamOutcome) (c x : Cue) :
    c.losing p d o (c.losing p d o x) = c.losing p d o x := by
  unfold Cue.losing
  cases c.state with
  | planned => exact modMember_twice x p (fun _ => rfl) fun _ => rfl
  | preparing => exact modMember_twice x p (fun _ => rfl) fun m => lose_lose c d m
  | fireWait => exact modMember_twice x p (fun _ => rfl) fun m => lose_lose c d m
  | firing => exact withOutcome_withOutcome x p o
  | confirming =>
    by_cases h : p ∈ c.confirm <;> simp only [h, if_true, if_false]
    exact withOutcome_withOutcome x p o
  | waiting => rfl
  | done => rfl

theorem modCue_id (i : Nat) (s : State) : modCue i (fun x => x) s = s := by
  unfold modCue
  simp

/-- The step on one cue: its record, and the end of a CONFIRMING cue that has nothing left to confirm (R100). -/
theorem recordLossIn_eq (p : PortId) (d : Disp) (o : CamOutcome) (c : Cue) (s : State) : recordLossIn p d o c s =
    if c.state = .confirming ∧ p ∈ c.confirm then confirmEnd c.id (modCue c.id (c.losing p d o) s)
    else modCue c.id (c.losing p d o) s := by
  have lose : recordLossIn.lossWhilePlanned p d c s = modCue c.id (Cue.modMember p (Member.lose d c)) s := by
    unfold recordLossIn.lossWhilePlanned
    congr 2
    funext m
    simp only [Member.lose, List.isEmpty_iff]
  unfold recordLossIn Cue.losing
  cases h : c.state with
  | preparing => exact lose.trans (if_neg (by simp)).symm
  | fireWait => exact lose.trans (if_neg (by simp)).symm
  | confirming =>
    by_cases hp : p ∈ c.confirm
    · simp only [hp, List.contains_iff_mem, and_self, if_true]
      rfl
    · simp only [hp, List.contains_iff_mem, and_false, if_false, modCue_id]
  | waiting => simp only [modCue_id, reduceCtorEq, false_and, if_false]
  | planned => exact (if_neg (by simp)).symm
  | firing => exact (if_neg (by simp)).symm
  | done => simp only [modCue_id, reduceCtorEq, false_and, if_false]

theorem cueStep_recordLossIn (p : PortId) (d : Disp) (o : CamOutcome) (c : Cue) (s : State) :
    CueStep c.id s (recordLossIn p d o c s) := by
  have own := CueStep.modCue (losing_id p d o c) c.id s
  rw [recordLossIn_eq]
  split
  · exact own.trans (.confirmEnd c.id _)
  · exact own

/-- The cue whose confirm list a loss empties. -/
def Cue.EndsBy (p : PortId) (o : CamOutcome) (c : Cue) : Prop :=
  c.state = .confirming ∧ p ∈ c.confirm ∧ (c.withOutcome p o).confirm = []

/-- What the list holds of a cue that has recorded a loss. -/
def LossKept (p : PortId) (d : Disp) (o : CamOutcome) (c : Cue) (u : State) : Prop :=
  (¬ c.EndsBy p o → HasCue u (c.lost p d o)) ∧
    (c.EndsBy p o → Posted u (c.withOutcome p o) ∨ HasCue u (c.withOutcome p o).ended)

theorem LossKept.step {i : Nat} (h : LossKept p d o c s) (hi : c.id ≠ i) (g : CueStep i s t) : LossKept p d o c t :=
  ⟨fun n => (h.1 n).step (by rwa [Cue.lost, losing_id]) g,
    fun e => (h.2 e).imp (·.step g) (·.step hi g)⟩

theorem lost_confirming (hs : c.state = .confirming) (hp : p ∈ c.confirm) :
    c.losing p d o = (·.withOutcome p o) ∧ c.lost p d o = c.withOutcome p o := by
  have e : c.losing p d o = (·.withOutcome p o) := by simp [Cue.losing, hs, hp]
  exact ⟨e, congrArg (· c) e⟩

theorem ended_withOutcome (c : Cue) (p : PortId) (o : CamOutcome) :
    (c.withOutcome p o).ended.withOutcome p o = (c.withOutcome p o).ended := by
  have twice := congrArg Cue.members (withOutcome_withOutcome c p o)
  unfold Cue.ended
  rw [Cue.withOutcome_eq, Cue.mk.injEq]
  exact ⟨rfl, rfl, rfl, rfl, rfl, rfl, rfl, twice, rfl, rfl, rfl, rfl⟩

/-- A cue takes its record of the loss, and a second step on it changes nothing. -/
theorem lossKept_own (h : HasCue u c ∨ LossKept p d o c u) : LossKept p d o c (recordLossIn p d o c u) := by
  have took : HasCue u c ∨ HasCue u (c.lost p d o) → HasCue (modCue c.id (c.losing p d o) u) (c.lost p d o) := by
    rintro (g | g)
    · exact g.modCue (losing_id p d o c)
    · have e : (c.lost p d o).id = c.id := losing_id p d o c c
      exact e ▸ g.modSame (losing_id p d o c) (losing_losing p d o c c)
  rw [recordLossIn_eq]
  by_cases hc : c.state = .confirming ∧ p ∈ c.confirm
  · obtain ⟨hs, hp⟩ := hc
    obtain ⟨hf, hl⟩ := lost_confirming (d := d) (o := o) hs hp
    rw [if_pos ⟨hs, hp⟩]
    by_cases he : (c.withOutcome p o).confirm = []
    · refine ⟨fun n => absurd ⟨hs, hp, he⟩ n, fun ends => ?_⟩
      rcases h with h | h
      · have g := took (.inl h)
        rw [hl] at g
        have e : confirmEnd c.id (modCue c.id (c.losing p d o) u) = finishCue c.id (modCue c.id (c.losing p d o) u) := by
          rw [hf]
          exact confirmEnd_ends h.named hs he
        rw [e]
        exact g.finish
      · rcases h.2 ends with g | g
        · have same : modCue c.id (c.losing p d o) u = u := modCue_absent g.1
          have stop : confirmEnd c.id u = u := confirmEnd_other fun x hx =>
            absurd (cue?_id hx).2 (g.1 x (cue?_id hx).1)
          rw [same, stop]
          exact .inl g
        · have same : HasCue (modCue c.id (c.losing p d o) u) (c.withOutcome p o).ended :=
            g.modSame (losing_id p d o c) (by rw [hf]; exact ended_withOutcome c p o)
          have stop : confirmEnd c.id (modCue c.id (c.losing p d o) u) = modCue c.id (c.losing p d o) u :=
            confirmEnd_other fun x hx => .inl (by
              rw [show (modCue c.id (c.losing p d o) u).cue? c.id = _ from same.named] at hx
              obtain rfl := Option.some.inj hx
              simp [Cue.ended])
          rw [stop]
          exact .inr same
    · have open_ : ¬ c.EndsBy p o := fun k => he k.2.2
      have g := took (h.imp_right fun k => k.1 open_)
      have stop : confirmEnd c.id (modCue c.id (c.losing p d o) u) = modCue c.id (c.losing p d o) u :=
        confirmEnd_other fun x hx => .inr (by
          have named := g.named
          rw [hl] at named
          rw [show (modCue c.id (c.losing p d o) u).cue? c.id = _ from named] at hx
          obtain rfl := Option.some.inj hx
          exact he)
      rw [stop]
      exact ⟨fun _ => g, fun k => absurd k open_⟩
  · rw [if_neg hc]
    have open_ : ¬ c.EndsBy p o := fun k => hc ⟨k.1, k.2.1⟩
    exact ⟨fun _ => took (h.imp_right fun k => k.1 open_), fun k => absurd k open_⟩

/-- A cue of an id of its own is followed through the losses recorded in a list. -/
theorem lossKept_forEach {l : List Cue} (hl : ∀ x ∈ l, x.id = c.id → x = c) (u : State) :
    (HasCue u c → c ∉ l → HasCue (forEach l (recordLossIn p d o) u) c) ∧
    (HasCue u c ∨ LossKept p d o c u → c ∈ l ∨ LossKept p d o c u →
      LossKept p d o c (forEach l (recordLossIn p d o) u)) := by
  induction l generalizing u with
  | nil => exact ⟨fun h _ => h, fun _ h => h.elim (fun m => nomatch m) id⟩
  | cons x l ih =>
    obtain ⟨keep, take⟩ := ih (fun y hy => hl y (List.mem_cons_of_mem _ hy)) (recordLossIn p d o x u)
    have step := cueStep_recordLossIn p d o x u
    refine ⟨fun h hm => ?_, fun h hm => ?_⟩
    · obtain ⟨ne, hm⟩ := not_or.1 (mt List.mem_cons.2 hm)
      exact keep (h.step (fun e => ne (hl x List.mem_cons_self e.symm).symm) step) hm
    · by_cases e : x = c
      · subst e
        have own := lossKept_own (p := p) (d := d) (o := o) h
        exact take (.inr own) (.inr own)
      · have ne : c.id ≠ x.id := fun g => e (hl x List.mem_cons_self g.symm)
        refine take (h.imp (·.step ne step) (·.step ne step)) (hm.imp (fun m => ?_) (·.step ne step))
        exact (List.mem_cons.1 m).resolve_left (Ne.symm e)

theorem mem_includes : c.includes p = true ↔ ∃ m ∈ c.members, m.port = p := by
  simp [Cue.includes]

/-- The loss of a camera is recorded in each cue that includes it (Table 11). -/
theorem recordLoss_recorded (p : PortId) (d : Disp) (o : CamOutcome) (s : State) :
    LossRecorded p d o s (recordLoss p d o s) := by
  have ids (l : List Cue) (u : State) : ∀ x ∈ (forEach l (recordLossIn p d o) u).cues, ∃ y ∈ u.cues, y.id = x.id := by
    induction l generalizing u with
    | nil => exact fun x hx => ⟨x, hx, rfl⟩
    | cons y l ih =>
      intro x hx
      obtain ⟨z, hz, e⟩ := ih _ x hx
      obtain ⟨w, hw, e'⟩ := (cueStep_recordLossIn p d o y u).ids z hz
      exact ⟨w, hw, e'.trans e⟩
  refine ⟨ids _ s, fun c hc hu => ?_⟩
  have has : HasCue s c := ⟨hc, hu⟩
  have alone : ∀ x ∈ s.cues.filter (Cue.includes p), x.id = c.id → x = c := fun x hx => hu x (List.mem_of_mem_filter hx)
  obtain ⟨keep, take⟩ := lossKept_forEach (p := p) (d := d) (o := o) alone s
  have took (hm : ∃ m ∈ c.members, m.port = p) : LossKept p d o c (recordLoss p d o s) :=
    take (.inl has) (.inl (List.mem_filter.2 ⟨hc, mem_includes.2 hm⟩))
  have own (hn : ¬ c.EndsBy p o) (hm : ∃ m ∈ c.members, m.port = p) : c.lost p d o ∈ (recordLoss p d o s).cues :=
    ((took hm).1 hn).1
  have idle (hn : ¬ c.EndsBy p o) (hl : c.lost p d o = c) : c ∈ (recordLoss p d o s).cues := by
    by_cases hm : ∃ m ∈ c.members, m.port = p
    · have g := own hn hm
      rwa [hl] at g
    · exact (keep has fun g => hm (mem_includes.1 (List.mem_filter.1 g).2)).1
  have unended (h : c.state ≠ .confirming) : ¬ c.EndsBy p o := fun k => h k.1
  refine ⟨fun h => ?_, fun hm => ⟨fun hs => ?_, fun hs => ?_, fun hs => ?_, fun hs hp => ?_, fun hs hp => ⟨fun he => ?_,
    fun he => ?_⟩⟩⟩
  · rcases h with h | h | h
    · exact (keep has fun g => by
        obtain ⟨m, hm, e⟩ := mem_includes.1 (List.mem_filter.1 g).2
        exact h m hm e).1
    · exact idle (unended (by simp [h])) (by simp [Cue.lost, Cue.losing, h])
    · exact idle (unended (by simp [h])) (by simp [Cue.lost, Cue.losing, h])
  · have g := own (unended (by simp [hs])) hm
    rwa [Cue.lost, Cue.losing, hs] at g
  · have g := own (unended (by rcases hs with hs | hs <;> simp [hs])) hm
    rcases hs with hs | hs <;> rwa [Cue.lost, Cue.losing, hs] at g
  · have g := own (unended (by simp [hs])) hm
    rwa [Cue.lost, Cue.losing, hs] at g
  · exact idle (fun k => hp k.2.1) (by simp [Cue.lost, Cue.losing, hs, hp])
  · have g := own (fun k => he k.2.2) hm
    rwa [(lost_confirming hs hp).2] at g
  · exact ((took hm).2 ⟨hs, hp, he⟩).imp id fun g => g.1

end Loss

end Sys2Proof.Machine

namespace Sys2Proof.Machine

/-! # Proofs: a camera enters FAULT or VACANT, or comes to DEEP (R4, R5, R8)

The record of a port after each of these entries is given once, its jobs aside; the jobs are followed by `Port.Cleared` and
`Port.Empty`, and the requests that wait in the reply line by `answeredBadState`. -/

section Line

/-- The entry of a request whose job is refused. -/
def ReplyEntry.refused (js : List Job) (y : ReplyEntry) : ReplyEntry :=
  if y.body = none ∧ js.any (Job.answers y.ticket) = true then { y with body := some [0x05#8] } else y

theorem refused_cons (j : Job) (js : List Job) (y : ReplyEntry) : y.refused (j :: js) = (y.refused [j]).refused js := by
  unfold ReplyEntry.refused
  by_cases hb : y.body = none
  · cases hj : j.answers y.ticket <;> simp [hb, hj]
  · simp [hb]

theorem giveAnswer_refused {j : Job} {t : Nat} (h : ∀ x, j.answers x = (t == x)) (s : State) :
    giveAnswer t [0x05#8] s = { s with line := s.line.map (ReplyEntry.refused [j]) } := by
  unfold giveAnswer
  congr 1
  refine List.map_congr_left fun y _ => ?_
  exact if_congr (by simp [h, and_comm, eq_comm (a := t)]) rfl rfl

theorem refused_unanswered {j : Job} (h : ∀ x, j.answers x = false) (s : State) :
    s = { s with line := s.line.map (ReplyEntry.refused [j]) } := by
  have same : s.line.map (ReplyEntry.refused [j]) = s.line :=
    (List.map_congr_left fun y _ => if_neg (by simp [h])).trans (List.map_id _)
  rw [same]

theorem answerBadState_eq (j : Job) (s : State) : answerBadState j s = { s with line := s.line.map (ReplyEntry.refused [j]) } := by
  obtain ⟨k, a, b, c⟩ := j
  cases k with
  | hostRead t a => exact giveAnswer_refused (fun _ => rfl) s
  | hostWrite t a v => exact giveAnswer_refused (fun _ => rfl) s
  | prepWrite | aheadWrite | identify | poll | thermalRead | ping | powerMode => exact refused_unanswered (fun _ => rfl) s

/-- The refusal of some jobs is one change of the reply line. -/
theorem forEach_answerBadState (js : List Job) (s : State) :
    forEach js answerBadState s = { s with line := answeredBadState js s.line } := by
  induction js generalizing s with
  | nil => simp [forEach, answeredBadState]
  | cons j js ih =>
    show forEach js answerBadState (answerBadState j s) = _
    rw [ih, answerBadState_eq]
    simp only [answeredBadState, List.map_map]
    congr 1
    refine List.map_congr_left fun y _ => ?_
    exact (refused_cons j js y).symm

end Line

section Jobs

variable {c : Port}

/-- The jobs of a camera in FAULT: polls, and what had started. -/
structure Port.Cleared (c : Port) : Prop where
  waitLine : c.waitLine = []
  markThermal : c.markThermal = false
  markPing : c.markPing = false
  queue : ∀ j ∈ c.queue, j.isPoll = true ∨ j.started = true

namespace Port.Cleared

/-- The jobs of a record are those of another one. -/
theorem congr {d : Port} (h : c.Cleared) (hq : d.queue = c.queue) (hw : d.waitLine = c.waitLine)
    (ht : d.markThermal = c.markThermal) (hp : d.markPing = c.markPing) : d.Cleared :=
  ⟨hw.trans h.waitLine, ht.trans h.markThermal, hp.trans h.markPing, hq ▸ h.queue⟩

theorem servePoll (h : c.Cleared) (n : Nat) : (c.servePoll n).Cleared := by
  unfold Port.servePoll
  dsimp only
  repeat' split
  · refine ⟨h.waitLine, h.markThermal, h.markPing, fun j hj => ?_⟩
    rcases List.mem_append.1 hj with hj | hj
    · exact h.queue j hj
    · exact .inl (List.mem_singleton.1 hj ▸ rfl)
  · exact ⟨h.waitLine, h.markThermal, h.markPing, h.queue⟩
  · exact h

theorem serveUpTo (h : c.Cleared) (n : Nat) : (c.serveUpTo n).Cleared := by
  have g := h.servePoll n
  have thermal : (c.servePoll n).serveThermal n = c.servePoll n := by simp [Port.serveThermal, g.markThermal]
  have ping : (c.servePoll n).servePing n = c.servePoll n := by simp [Port.servePing, g.markPing]
  unfold Port.serveUpTo
  rw [thermal, ping]
  exact g.congr (by simp [Port.serveLine, g.waitLine]) (by simp [Port.serveLine, g.waitLine]) rfl rfl

theorem removeJobs (h : c.Cleared) (f : Job → Bool) : (c.removeJobs f).Cleared :=
  have kept : (c.without f).Cleared :=
    ⟨by simp [Port.without, h.waitLine], h.markThermal, h.markPing, fun j hj => h.queue j (List.mem_of_mem_filter hj)⟩
  kept.serveUpTo _

theorem cutFlight (h : c.Cleared) (f : Job → Bool) (b : Bool) : (c.cutFlight f b).Cleared := by
  rcases cutFlight_cases f b c with ⟨he, -⟩ | ⟨j, js, hq, hs, -, ⟨-, he⟩ | ⟨-, he⟩⟩ <;> rw [he]
  · exact h
  · refine ⟨h.waitLine, h.markThermal, h.markPing, fun i hi => ?_⟩
    rcases List.mem_cons.1 hi with rfl | hi
    · exact .inr hs
    · exact h.queue i (hq ▸ List.mem_cons_of_mem _ hi)
  · have rest : ({ c with queue := js } : Port).Cleared :=
      ⟨h.waitLine, h.markThermal, h.markPing, fun i hi => h.queue i (by rw [hq]; exact List.mem_cons_of_mem _ hi)⟩
    exact rest.serveUpTo _

theorem faultJobs (c : Port) : c.faultJobs.Cleared :=
  cutFlight ⟨rfl, rfl, rfl, fun j hj => by simpa [or_comm] using (List.mem_filter.1 hj).2⟩ _ _

theorem dropPings (h : c.Cleared) : c.dropPings.Cleared :=
  removeJobs (c := { c with markPing := false }) ⟨h.waitLine, h.markThermal, rfl, h.queue⟩ _

theorem enter (h : c.Cleared) (now : Nat) (new : Power) : (Port.enter now new c).Cleared := by
  have rail : ((({ c with power := new } : Port).railChange now c.power).dropResumeWait).Cleared := by
    unfold Port.dropResumeWait Port.railChange
    repeat' split
    all_goals exact h.congr rfl rfl rfl rfl
  unfold Port.enter
  dsimp only
  split
  · exact rail.dropPings
  · exact rail

end Port.Cleared

/-- A port that owes nothing and has no job. -/
structure Port.Empty (c : Port) : Prop where
  queue : c.queue = []
  waitLine : c.waitLine = []
  markPoll : c.markPoll = false
  markThermal : c.markThermal = false
  markPing : c.markPing = false

theorem Port.Empty.congr {d : Port} (h : c.Empty) (hq : d.queue = c.queue) (hw : d.waitLine = c.waitLine)
    (hp : d.markPoll = c.markPoll) (ht : d.markThermal = c.markThermal) (hg : d.markPing = c.markPing) : d.Empty :=
  ⟨hq.trans h.queue, hw.trans h.waitLine, hp.trans h.markPoll, ht.trans h.markThermal, hg.trans h.markPing⟩

theorem Port.empty_unmarked {c : Port} : c.unmarked.Empty ↔ c.Empty :=
  ⟨fun ⟨hq, hw, hp, ht, hg⟩ => ⟨hq, hw, hp, ht, hg⟩, fun ⟨hq, hw, hp, ht, hg⟩ => ⟨hq, hw, hp, ht, hg⟩⟩

theorem Port.Empty.unflagged (h : c.Empty) : ({ c with hostPause := false, offload := false, mediaFull := false } : Port).Empty :=
  h.congr rfl rfl rfl rfl rfl

theorem Port.Empty.serveUpTo (h : c.Empty) (n : Nat) : (c.serveUpTo n).Empty := by
  obtain ⟨hq, hw, hp, ht, hg⟩ := h
  have poll : c.servePoll n = c := by simp [Port.servePoll, hp]
  have thermal : c.serveThermal n = c := by simp [Port.serveThermal, ht]
  have ping : c.servePing n = c := by simp [Port.servePing, hg]
  unfold Port.serveUpTo
  rw [poll, thermal, ping]
  exact ⟨by simp [Port.serveLine, hq, hw], by simp [Port.serveLine, hw], hp, ht, hg⟩

theorem Port.Empty.dropPings (h : c.Empty) : c.dropPings.Empty := by
  have none_ : (({ c with markPing := false } : Port).without Job.isPing).Empty :=
    ⟨by simp [Port.without, h.queue], by simp [Port.without, h.waitLine], h.markPoll, h.markThermal, rfl⟩
  exact none_.serveUpTo _

theorem Port.Empty.enter (h : c.Empty) (now : Nat) (new : Power) : (Port.enter now new c).Empty := by
  have rail : ((({ c with power := new } : Port).railChange now c.power).dropResumeWait).Empty := by
    unfold Port.dropResumeWait Port.railChange
    repeat' split
    all_goals exact h.congr rfl rfl rfl rfl rfl
  unfold Port.enter
  dsimp only
  split
  · exact rail.dropPings
  · exact rail

end Jobs

section Records

variable {s t : State} {p : PortId} {new : Power}

/-- A record without its jobs and its mark. -/
def Port.face (c : Port) : Port := c.body.unmarked

theorem face_of_body {c d : Port} (h : d.body = c.body) : d.face = c.face := congrArg Port.unmarked h

theorem face_of_unmarked {c d : Port} (h : d.unmarked = c.unmarked) : d.face = c.face := congrArg Port.body h

/-- A field that is neither a job nor the mark is read from the face. -/
theorem field_of_face {α : Type} {c d : Port} (h : d.face = c.face) (f : Port → α) (hf : ∀ c : Port, f c.face = f c := by exact fun _ => rfl) :
    f d = f c := (hf d).symm.trans ((congrArg f h).trans (hf c))

/-- The record of a camera whose rail goes off, its jobs aside (R6, R70, R83). -/
def Port.darkened (new : Power) (c : Port) : Port :=
  { c with power := new, reading := some 0, overFrom := none, sensed := none, resumeWait := none
           commitment := if c.resv = none then none else c.commitment }

theorem face_enter_off (h : new.railOn = false) (now : Nat) (c : Port) : (Port.enter now new c).face =
    ({ c with power := new, reading := some 0, overFrom := none, sensed := none, resumeWait := none } : Port).face := by
  have rail : ((({ c with power := new } : Port).railChange now c.power).dropResumeWait).face =
      ({ c with power := new, reading := some 0, overFrom := none, sensed := none, resumeWait := none } : Port).face := by
    unfold Port.railChange
    rw [if_neg (by simp [h])]
    cases new <;> first | rfl | exact absurd h (by simp [Power.railOn])
  unfold Port.enter
  dsimp only
  split
  · exact (face_of_body (body_dropPings _)).trans rail
  · exact rail

theorem awake_off (h : new.railOn = false) : new.awakeState = false := by
  cases new <;> first | rfl | exact absurd h (by simp [Power.railOn])

theorem face_setPower_off (h : new.railOn = false) (p : PortId) (s : State) :
    ((setPower p new s).port p).face = ((s.port p).darkened new).face := by
  rw [port_setPower_eq]
  have entered := congrArg (fun c : Port => { c with
    commitment := if (s.port p).resv = none then none else (s.port p).commitment }) (face_enter_off h s.clock (s.port p))
  simp only [awake_off h, true_and]
  exact entered

theorem port_setHostPause_eq (p : PortId) (v : Bool) (s : State) : (setHostPause p v s).port p =
    { s.port p with hostPause := v, camMark := ((setHostPause p v s).port p).camMark } := by
  unfold setHostPause
  split
  · rename_i h
    rw [← h]
  · refine Port.eq_of_unmarked (d := { s.port p with hostPause := v }) ?_
    rw [unmarked_markPort, port_modPort_self]

@[simp] theorem ports_reportCue (i : Nat) (s : State) : (reportCue i s).ports = s.ports := by
  unfold reportCue
  repeat' split
  all_goals rfl

@[simp] theorem ports_confirmEnd (i : Nat) (s : State) : (confirmEnd i s).ports = s.ports := by
  unfold confirmEnd finishCue
  repeat' split
  all_goals simp

@[simp] theorem ports_recordLoss (p : PortId) (d : Disp) (o : CamOutcome) (s : State) : (recordLoss p d o s).ports = s.ports := by
  refine forEach_field State.ports _ (fun c u => ?_) _ s
  rw [recordLossIn_eq]
  split <;> simp

@[simp] theorem port_recordLoss (p q : PortId) (d : Disp) (o : CamOutcome) (s : State) :
    (recordLoss p d o s).port q = s.port q := by
  unfold State.port
  rw [ports_recordLoss]

@[simp] theorem adv_reportCue (i : Nat) (s : State) : (reportCue i s).adv = s.adv := by
  unfold reportCue
  repeat' split
  all_goals rfl

@[simp] theorem adv_confirmEnd (i : Nat) (s : State) : (confirmEnd i s).adv = s.adv := by
  unfold confirmEnd finishCue
  repeat' split
  all_goals simp

@[simp] theorem adv_recordLoss (p : PortId) (d : Disp) (o : CamOutcome) (s : State) : (recordLoss p d o s).adv = s.adv := by
  refine forEach_field State.adv _ (fun c u => ?_) _ s
  rw [recordLossIn_eq]
  split <;> simp

/-- A loss that is recorded in a state is recorded in every state with the same cues. -/
theorem LossRecorded.of_cues {u : State} {d : Disp} {o : CamOutcome} (h : LossRecorded p d o t u) (hc : t.cues = s.cues) :
    LossRecorded p d o s u := by
  unfold LossRecorded at h ⊢
  rwa [hc] at h

end Records

/-! ## A camera whose rail goes off -/

section Dark

variable {s : State} {p : PortId} {new : Power}

/-- What the entries to DEEP and FAULT share: the rail goes off, the advance entries and the offload flag are cleared. -/
def goDark (p : PortId) (new : Power) (s : State) : State := setOffload p false (clearEntries p (setPower p new s))

theorem port_clearEntries (p q : PortId) (s : State) : (clearEntries p s).port q = s.port q := rfl

theorem port_goDark (p : PortId) (new : Power) (s : State) : (goDark p new s).port p =
    { (setPower p new s).port p with offload := false, camMark := ((goDark p new s).port p).camMark } := by
  unfold goDark
  rw [port_setOffload_eq, port_clearEntries]

theorem face_goDark (h : new.railOn = false) (p : PortId) (s : State) :
    ((goDark p new s).port p).face = ({ (s.port p).darkened new with offload := false } : Port).face := by
  have entered := face_setPower_off h p s
  rw [port_goDark]
  exact congrArg (fun c : Port => { c with offload := false }) entered

theorem cleared_goDark (h : (s.port p).Cleared) (new : Power) : ((goDark p new s).port p).Cleared := by
  have g := h.enter s.clock new
  rw [port_goDark, port_setPower_eq]
  exact g.congr rfl rfl rfl rfl

theorem around_goDark (p : PortId) (new : Power) (s : State) :
    (goDark p new s).around = (s.outer, s.cues, s.adv.filter (fun e => e.port != p), s.eventsMark, s.inXfer) := by
  obtain ⟨ho, hc, ha, he, hi⟩ := around_parts (around_setPower p new s)
  unfold goDark
  rw [around_setOffload, ← ho, ← hc, ← ha, ← he, ← hi]
  rfl

theorem marked_goDark (h : (s.port p).power.code ≠ new.code) : (goDark p new s).marked p :=
  ((OnPort.refl p _).clearEntries.setOffload false).marks p (marked_setPower h)

end Dark

/-! ## The entry to FAULT (R8) -/

section Fault

variable {s : State} {p : PortId} {cause : FaultCause}

/-- The record of a camera before the entry to FAULT changes its state. -/
def Port.failing (c : Port) : Port := { c.faultJobs with resv := none, order := none }

theorem face_failing (c : Port) : c.failing.face = ({ c with resv := none, order := none } : Port).face :=
  congrArg (fun d : Port => ({ d with resv := none, order := none } : Port)) (face_of_body (body_faultJobs c))

theorem cleared_failing (c : Port) : c.failing.Cleared := (Port.Cleared.faultJobs c).congr rfl rfl rfl rfl

/-- The machine before the entry to FAULT changes the camera's state. -/
def beforeFault (p : PortId) (s : State) : State :=
  (forEach ((s.port p).queue.filter (fun j => !j.started)) answerBadState s).modPort p Port.failing

theorem enterFault_eq (p : PortId) (cause : FaultCause) (s : State) : enterFault p cause s =
    recordLoss p .fault .fault ((goDark p (.fault cause) (beforeFault p s)).modPort p Port.serveRoom) := by
  have before : ((refuseQueued p s).modPort p Port.faultJobs).modPort p ({ · with resv := none, order := none }) = beforeFault p s :=
    modPort_modPort _ _ _ _
  unfold enterFault goDark
  rw [← before]

theorem port_beforeFault (p : PortId) (s : State) : (beforeFault p s).port p = (s.port p).failing := by
  unfold beforeFault
  rw [port_modPort_self, forEach_answerBadState]
  rfl

theorem around_beforeFault (p : PortId) (s : State) : (beforeFault p s).around =
    ({ s with line := answeredBadState ((s.port p).queue.filter (fun j => !j.started)) s.line } : State).around := by
  unfold beforeFault
  rw [around_modPort, forEach_answerBadState]

theorem port_enterFault (p : PortId) (cause : FaultCause) (s : State) : ((enterFault p cause s).port p).face =
      (({ s.port p with resv := none, order := none, offload := false } : Port).darkened (.fault cause)).face ∧
    ((enterFault p cause s).port p).Cleared := by
  have record := face_goDark (new := .fault cause) rfl p (beforeFault p s)
  have jobs : ((beforeFault p s).port p).Cleared := by
    rw [port_beforeFault]
    exact cleared_failing _
  rw [enterFault_eq, port_recordLoss, port_modPort_self, face_of_body (body_serveRoom _), record, port_beforeFault]
  exact ⟨congrArg (fun c : Port => ({ c.darkened (.fault cause) with offload := false } : Port)) (face_failing (s.port p)),
    (cleared_goDark jobs _).serveUpTo _⟩

theorem around_entered (p : PortId) (cause : FaultCause) (s : State) :
    ((goDark p (.fault cause) (beforeFault p s)).modPort p Port.serveRoom).around =
      ({ s with line := answeredBadState ((s.port p).queue.filter (fun j => !j.started)) s.line,
                adv := s.adv.filter (fun e => e.port != p) } : State).around := by
  obtain ⟨ho, hc, ha, he, hi⟩ := around_parts (around_beforeFault p s)
  rw [around_modPort, around_goDark, ho, hc, ha, he, hi]
  rfl

theorem line_enterFault (p : PortId) (cause : FaultCause) (s : State) : (enterFault p cause s).line =
    answeredBadState ((s.port p).queue.filter (fun j => !j.started)) s.line := by
  obtain ⟨outer, -⟩ := around_parts (around_entered p cause s)
  rw [enterFault_eq]
  exact (outer_parts ((outer_recordLoss p .fault .fault _).trans outer)).2.2.2.2.2.2.1

theorem marked_enterFault (h : (s.port p).power.isFault = false) (cause : FaultCause) : (enterFault p cause s).marked p := by
  have power : ((beforeFault p s).port p).power = (s.port p).power := by
    rw [port_beforeFault]
    exact field_of_face (face_failing _) Port.power
  have entered : (goDark p (.fault cause) (beforeFault p s)).marked p := by
    refine marked_goDark ?_
    rw [power]
    cases hp : (s.port p).power <;> simp_all [Power.code, Power.isFault]
  rw [enterFault_eq]
  exact (((OnPort.refl p _).modPort _).recordLoss .fault .fault).marks p entered

/-- All that R8 and R92 do at the entry to FAULT. -/
theorem faultEntered (h : (s.port p).power.isFault = false) (cause : FaultCause) : FaultEntered p cause s (enterFault p cause s) := by
  obtain ⟨face, hw, ht, hg, hq⟩ := port_enterFault p cause s
  have keeps := (Keeps.refl true s).enterFault p cause
  obtain ⟨-, cues, adv, -⟩ := around_parts (around_entered p cause s)
  have lost : LossRecorded p .fault .fault s (enterFault p cause s) := by
    rw [enterFault_eq]
    exact (recordLoss_recorded p .fault .fault _).of_cues cues
  refine ⟨field_of_face face Port.power, field_of_face face Port.reading, field_of_face face Port.overFrom,
    field_of_face face Port.resv, field_of_face face Port.commitment, field_of_face face Port.offload, hw, ht, hg, hq,
    fun e he => ?_, marked_enterFault h cause, keeps.same rfl, ((OnPort.refl p s).enterFault cause).others, keeps.still, lost⟩
  rw [enterFault_eq, adv_recordLoss, adv] at he
  simpa using (List.mem_filter.1 he).2

end Fault

/-! ## The entry to VACANT (R5, R9) -/

section Vacant

variable {s : State} {p : PortId}

/-- The machine before the entry to VACANT changes the camera's state. -/
def beforeVacant (p : PortId) (s : State) : State :=
  unbindPort p ((forEach (s.port p).queue answerBadState s).modPort p Port.clearForVacant)

/-- The machine at the entry to VACANT, before the cues record it. -/
def inVacant (p : PortId) (s : State) : State :=
  setMediaFull p false (setOffload p false (setHostPause p false (setPower p .vacant (clearEntries p (beforeVacant p s)))))

theorem enterVacant_eq (p : PortId) (s : State) : enterVacant p s = recordLoss p .vacant .vacant (inVacant p s) := rfl

theorem unbindPort_eq (p : PortId) (s : State) : unbindPort p s = { s with table := (unbindPort p s).table } := by
  unfold unbindPort
  split <;> rfl

theorem port_beforeVacant (p : PortId) (s : State) : (beforeVacant p s).port p = (s.port p).clearForVacant := by
  unfold beforeVacant
  rw [unbindPort_eq, forEach_answerBadState]
  exact port_modPort_self p _ _

theorem empty_setPower (h : (s.port p).Empty) (new : Power) : ((setPower p new s).port p).Empty := by
  have g := h.enter s.clock new
  rw [port_setPower_eq]
  exact g.congr rfl rfl rfl rfl rfl

/-- The flags of the record go as the camera does. -/
theorem port_flagsCleared (p : PortId) (s : State) :
    ((setMediaFull p false (setOffload p false (setHostPause p false s))).port p).unmarked =
      ({ s.port p with hostPause := false, offload := false, mediaFull := false } : Port).unmarked := by
  rw [port_setMediaFull_eq, port_setOffload_eq, port_setHostPause_eq]
  rfl

theorem face_inVacant (p : PortId) (s : State) : ((inVacant p s).port p).face =
    (({ (s.port p).clearForVacant with hostPause := false, offload := false, mediaFull := false } : Port).darkened .vacant).face := by
  have entered := face_setPower_off (new := .vacant) rfl p (clearEntries p (beforeVacant p s))
  rw [port_clearEntries, port_beforeVacant] at entered
  unfold inVacant
  rw [face_of_unmarked (port_flagsCleared p _)]
  exact congrArg (fun c : Port => ({ c with hostPause := false, offload := false, mediaFull := false } : Port)) entered

theorem empty_inVacant (p : PortId) (s : State) : ((inVacant p s).port p).Empty := by
  have before : ((clearEntries p (beforeVacant p s)).port p).Empty := by
    rw [port_clearEntries, port_beforeVacant]
    exact ⟨rfl, rfl, rfl, rfl, rfl⟩
  unfold inVacant
  rw [← Port.empty_unmarked, port_flagsCleared, Port.empty_unmarked]
  exact (empty_setPower before .vacant).unflagged

theorem around_beforeVacant (p : PortId) (s : State) : (beforeVacant p s).around =
    ({ s with line := answeredBadState (s.port p).queue s.line, table := (beforeVacant p s).table } : State).around := by
  unfold beforeVacant
  rw [unbindPort_eq, forEach_answerBadState]
  rfl

theorem around_inVacant (p : PortId) (s : State) : (inVacant p s).around =
    ({ s with line := answeredBadState (s.port p).queue s.line, table := (beforeVacant p s).table,
              adv := s.adv.filter (fun e => e.port != p) } : State).around := by
  obtain ⟨ho, hc, ha, he, hi⟩ := around_parts (around_beforeVacant p s)
  unfold inVacant
  rw [around_setMediaFull, around_setOffload, around_setHostPause, around_setPower]
  show (State.outer _, State.cues _, List.filter _ (State.adv _), State.eventsMark _, State.inXfer _) = _
  rw [ha]
  exact congrArg₂ Prod.mk ho (congrArg₂ Prod.mk hc (congrArg (Prod.mk _) (congrArg₂ Prod.mk he hi)))

theorem face_enterVacant (p : PortId) (s : State) : ((enterVacant p s).port p).face =
    (({ (s.port p).clearForVacant with hostPause := false, offload := false, mediaFull := false } : Port).darkened .vacant).face := by
  rw [enterVacant_eq, port_recordLoss, face_inVacant]

theorem marked_enterVacant (h : (s.port p).power ≠ .vacant) : (enterVacant p s).marked p := by
  have entered : (setPower p .vacant (clearEntries p (beforeVacant p s))).marked p := by
    refine marked_setPower ?_
    rw [port_clearEntries, port_beforeVacant]
    show (s.port p).power.code ≠ _
    cases hp : (s.port p).power <;> simp_all [Power.code]
  rw [enterVacant_eq]
  exact ((((OnPort.refl p _).setHostPause false).setOffload false).setMediaFull false |>.recordLoss .vacant .vacant).marks p entered

/-- All that R5, R9 and R92 do at the entry to VACANT. -/
theorem vacantEntered (h : (s.port p).power ≠ .vacant) : VacantEntered p s (enterVacant p s) := by
  have face := face_enterVacant p s
  obtain ⟨hq, hw, hp, ht, hg⟩ : ((enterVacant p s).port p).Empty := by
    rw [enterVacant_eq, port_recordLoss]
    exact empty_inVacant p s
  obtain ⟨ho, hc, ha, -⟩ := around_parts (around_inVacant p s)
  have line : (enterVacant p s).line = answeredBadState (s.port p).queue s.line :=
    (outer_parts ((outer_recordLoss p .vacant .vacant _).trans ho)).2.2.2.2.2.2.1
  have lost : LossRecorded p .vacant .vacant s (enterVacant p s) := by
    rw [enterVacant_eq]
    exact (recordLoss_recorded p .vacant .vacant _).of_cues hc
  have entries : ∀ e ∈ (enterVacant p s).adv, e.port ≠ p := fun e he => by
    rw [enterVacant_eq, adv_recordLoss, ha] at he
    simpa using (List.mem_filter.1 he).2
  exact ⟨field_of_face face Port.power, field_of_face face Port.reading, hq, hw, hp, ht, hg, field_of_face face Port.held,
    field_of_face face Port.resv, field_of_face face Port.profile, field_of_face face Port.hostPause,
    field_of_face face Port.offload, field_of_face face Port.mediaFull, field_of_face face Port.grade,
    field_of_face face Port.run, entries, marked_enterVacant h, ((OnPort.refl p s).enterVacant).others,
    ((Keeps.refl true s).enterVacant p).still, field_of_face face Port.order, field_of_face face Port.conflict,
    field_of_face face Port.rescan, field_of_face face Port.lane, line, lost⟩

/-- The settings of a port outlast its camera. -/
theorem settings_enterVacant (p : PortId) (s : State) : ((enterVacant p s).port p).enabled = (s.port p).enabled ∧
    ((enterVacant p s).port p).railLimit = (s.port p).railLimit ∧ ((enterVacant p s).port p).presence = (s.port p).presence := by
  have face := face_enterVacant p s
  exact ⟨field_of_face face Port.enabled, field_of_face face Port.railLimit, field_of_face face Port.presence⟩

theorem entryAt_enterVacant (p : PortId) (s : State) (k : Position) : (enterVacant p s).entryAt k = (unbindPort p s).entryAt k := by
  obtain ⟨ho, -⟩ := around_parts (around_inVacant p s)
  have table : (enterVacant p s).table = (beforeVacant p s).table :=
    (outer_parts ((outer_recordLoss p .vacant .vacant _).trans ho)).2.1
  have same : (beforeVacant p s).table = (unbindPort p s).table := by
    unfold beforeVacant unbindPort
    rw [forEach_answerBadState]
    show State.table (match s.boundPos p with
      | some k => _
      | none => _) = _
    cases s.boundPos p <;> rfl
  unfold State.entryAt
  rw [table, same]

/-- The identity of a camera that goes is unbound, and ages unless it is pinned (R5, R125). -/
theorem entryAt_unbindPort (hu : TableUnique s.table) {k : Position} {e : IdEntry} (he : s.entryAt k = some e) :
    (e.bound = some p → (unbindPort p s).entryAt k =
        some { e with bound := none, unbind := if e.pinned then none else some s.clock }) ∧
      (e.bound ≠ some p → (unbindPort p s).entryAt k = some e) := by
  unfold unbindPort
  cases h : s.boundPos p with
  | none => exact ⟨fun hb => absurd hb (boundPos_none h k e he), fun _ => he⟩
  | some j =>
    obtain ⟨d, hd, hb⟩ := boundPos_some h
    dsimp only
    by_cases hj : j = k
    · subst hj
      obtain rfl := Option.some.inj (hd.symm.trans he)
      exact ⟨fun _ => by rw [entryAt_setEntry_self, he]; rfl, fun n => absurd hb n⟩
    · rw [entryAt_setEntry_ne hj]
      exact ⟨fun hk => absurd hk ((hu j k hj d e hd he).2 p hb), fun _ => he⟩

end Vacant

/-! ## A presence rise (R4) -/

section Rise

variable {s : State} {p : PortId}

theorem clearEntries_markPort (p : PortId) (s : State) : clearEntries p (markPort p s) = markPort p (clearEntries p s) := by
  unfold markPort
  repeat' split
  all_goals first | rfl | contradiction

theorem enterDeep_eq (p : PortId) (s : State) : enterDeep p s = loseSettings p (goDark p .deep s) := by
  have swap (v : State) : clearEntries p (setOffload p false v) = setOffload p false (clearEntries p v) := by
    unfold setOffload
    rw [port_clearEntries]
    split
    · rfl
    · exact clearEntries_markPort p _
  unfold enterDeep goDark
  rw [swap]

/-- The record of a camera that comes to DEEP, its jobs aside. -/
theorem face_enterDeep (p : PortId) (s : State) : ((enterDeep p s).port p).face =
    ({ (s.port p).darkened .deep with offload := false } : Port).face := by
  rw [enterDeep_eq, loseSettings_field Port.face p p _ (fun _ => rfl)]
  exact face_goDark rfl p s

theorem marked_enterDeep (h : (s.port p).power.isDeep = false) : (enterDeep p s).marked p := by
  have entered : (goDark p .deep s).marked p := by
    refine marked_goDark ?_
    cases hp : (s.port p).power <;> simp_all [Power.code, Power.isDeep]
  rw [enterDeep_eq]
  exact ((OnPort.refl p _).loseSettings).marks p entered

/-- The record of a port at a presence rise, before its camera comes to DEEP. -/
def Port.arriving (c : Port) : Port :=
  { c with hostPause := false, offload := false, mediaFull := false, run := 0, grade := none, pollBit := false, resync := true }

theorem presenceRise_eq (he : (s.port p).enabled = true) (hv : (s.port p).power = .vacant) : presenceRise p s =
    (enterDeep p (s.modPort p Port.arriving)).modPort p (fun c => c.oweIdentify.testPoll) :=
  if_pos (by rw [he, hv]; rfl)

theorem face_presenceRise (he : (s.port p).enabled = true) (hv : (s.port p).power = .vacant) :
    ((presenceRise p s).port p).face = ((s.port p).arriving.darkened .deep).face := by
  rw [presenceRise_eq he hv, port_modPort_self, face_of_body (body_testPoll _), face_of_body (body_oweIdentify _), face_enterDeep,
    port_modPort_self]
  rfl

theorem testPoll_owed {c : Port} (h : c.pollOwed = true ∨ ∃ j ∈ c.queue, j.isPoll = true) :
    c.testPoll.markPoll = true ∨ ∃ j ∈ c.testPoll.queue, j.isPoll = true := by
  unfold Port.testPoll
  cases ho : c.pollOwed with
  | false =>
    obtain ⟨j, hj, hp⟩ := h.resolve_left (by simp [ho])
    exact .inr ⟨j, hj, hp⟩
  | true =>
    cases hm : c.markPoll with
    | true => exact .inl hm
    | false =>
      simp only [Bool.not_false, Bool.and_self, if_true]
      split
      · exact .inr ⟨Job.mk' .poll, by simp [pushJob], rfl⟩
      · exact .inl rfl

/-- All that R4 does at a presence rise. -/
theorem presenceRisen (he : (s.port p).enabled = true) (hv : (s.port p).power = .vacant) :
    PresenceRisen p s (presenceRise p s) := by
  have face := face_presenceRise he hv
  have keeps := (Keeps.refl true s).presenceRise p
  have on := (OnPort.refl p s).presenceRise
  have marked : (presenceRise p s).marked p := by
    rw [presenceRise_eq he hv]
    refine ((OnPort.refl p _).modPort _ (by simp)).marks p (marked_enterDeep ?_)
    rw [port_modPort_self]
    show (s.port p).power.isDeep = false
    rw [hv]
    rfl
  have identify : ∃ j ∈ ((presenceRise p s).port p).queue ++ ((presenceRise p s).port p).waitLine, j.isIdentify = true := by
    rw [presenceRise_eq he hv, port_modPort_self]
    obtain ⟨j, hj, hi⟩ := oweIdentify_mem ((enterDeep p (s.modPort p Port.arriving)).port p)
    exact ⟨j, ((Port.Gains.refl _).testPoll).kept j hj, hi⟩
  have poll (ha : ((presenceRise p s).port p).attention = true) (hh : ((presenceRise p s).port p).held = none) :
      ((presenceRise p s).port p).markPoll = true ∨ ∃ j ∈ ((presenceRise p s).port p).queue, j.isPoll = true := by
    have power : ((presenceRise p s).port p).power = .deep := field_of_face face Port.power
    rw [presenceRise_eq he hv, port_modPort_self] at ha hh power ⊢
    have body := body_testPoll ((enterDeep p (s.modPort p Port.arriving)).port p).oweIdentify
    rw [field_of_body body Port.attention] at ha
    rw [field_of_body body Port.held] at hh
    rw [field_of_body body Port.power] at power
    refine testPoll_owed ?_
    by_cases hj : ∃ j ∈ ((enterDeep p (s.modPort p Port.arriving)).port p).oweIdentify.queue, j.isPoll = true
    · exact .inr hj
    · refine .inl ?_
      simpa [Port.pollOwed, ha, hh, power, Power.isVacant] using hj
  have entries : ∀ e ∈ (presenceRise p s).adv, e.port ≠ p := by
    rw [presenceRise_eq he hv]
    exact enterDeep_adv p _
  exact ⟨field_of_face face Port.power, field_of_face face Port.reading, field_of_face face Port.hostPause,
    field_of_face face Port.offload, field_of_face face Port.mediaFull, field_of_face face Port.run,
    field_of_face face Port.grade, field_of_face face Port.pollBit, field_of_face face Port.resync,
    field_of_face face Port.station, field_of_face face Port.profile, entries, marked, identify, poll, keeps.same rfl,
    on.others, keeps.still⟩

end Rise

end Sys2Proof.Machine

namespace Sys2Proof.Machine

/-! # Proofs: the power rail, the input edges and the ports (R4, R5, R6, R70)

What a rail current does to a record, what the edges of the presence and attention inputs do, and the two requests that put a
camera in VACANT or bring it back: PORT_SET and CLEAR_FAULT. -/

section Rail

variable {s : State} {p : PortId}

theorem limitAt_eq {c : Port} {x : Sense} (h : c.sensed = some x) (now : Nat) :
    c.limitAt now = if x.time = now then c.limitInForce else c.railLimit := by
  simp [Port.limitAt, h]

theorem overcurrentDue_true {t : Nat} (hc : s.clock % 10 = 0) (hr : (s.port p).power.railOn = true)
    (ho : (s.port p).overFrom = some t) (ht : 10 ≤ diffMs s.clock t)
    (ha : ∀ x, (s.port p).sensed = some x → (if x.time = s.clock then (s.port p).limitInForce else (s.port p).railLimit) < x.current) :
    s.overcurrentDue p = true := by
  have above : (s.port p).aboveLimit s.clock = true := by
    unfold Port.aboveLimit
    cases hs : (s.port p).sensed with
    | none => rfl
    | some x =>
      rw [limitAt_eq hs]
      exact decide_eq_true (ha x hs)
  simp [State.overcurrentDue, hc, hr, ho, ht, above]

theorem overcurrentDue_below {x : Sense} (hs : (s.port p).sensed = some x)
    (hx : x.current ≤ (if x.time = s.clock then (s.port p).limitInForce else (s.port p).railLimit)) :
    s.overcurrentDue p = false := by
  have below : (s.port p).aboveLimit s.clock = false := by
    unfold Port.aboveLimit
    rw [hs, limitAt_eq hs]
    exact decide_eq_false (Nat.not_lt.2 hx)
  simp [State.overcurrentDue, below]

theorem overcurrentDue_none (h : (s.port p).overFrom = none) : s.overcurrentDue p = false := by
  simp [State.overcurrentDue, h]

theorem exec_railOvercurrent_idle (h : s.overcurrentDue p = false) : exec (.railOvercurrent p) s = .next s := by
  show execRailOvercurrent p s = _
  unfold execRailOvercurrent
  rw [h]
  rfl

theorem not_fault_of_railOn {w : Power} (h : w.railOn = true) : w.isFault = false := by
  cases w <;> first | rfl | exact absurd h (by simp [Power.railOn])

theorem senseRail_eq (now m x : Nat) (c : Port) : senseRail now m x c = { c with
    limitInForce := c.railLimit
    sensed := some ⟨now, m⟩
    reading := if c.reading = none ∧ c.run ≠ 0 then none else some x
    overFrom := if m ≤ c.railLimit then none else some (c.overFrom.getD now) } := by
  simp [senseRail]

/-- An answered request of a job that had not started carries BAD_STATE. -/
theorem answeredBadState_mem {l : List ReplyEntry} {e : ReplyEntry} {js : List Job} (he : e ∈ l) (hb : e.body = none)
    (hj : js.any (Job.answers e.ticket) = true) : ({ e with body := some [0x05#8] } : ReplyEntry) ∈ answeredBadState js l :=
  List.mem_map.2 ⟨e, he, if_pos ⟨hb, hj⟩⟩

/-- Settles O25: the current sensed at a slot boundary, and the fault of a current that stays above the limit. -/
theorem railCurrent : Obligations.RailCurrent := by
  unfold Obligations.RailCurrent
  refine ⟨fun p m s => ⟨fun hc hr => ⟨fun hm => ?low, fun hm => ?high⟩, fun h => ?idle⟩, fun p s => ⟨fun t hc hr ho ht ha => ?fault,
    fun x hs hx => exec_railOvercurrent_idle (overcurrentDue_below hs hx),
    fun h => exec_railOvercurrent_idle (overcurrentDue_none h)⟩, fun p cause s e j he hb hj hs hk => ?answered⟩
  case idle =>
    show execRailSense p m s = _
    unfold execRailSense
    rw [if_neg]
    rcases h with h | h <;> simp [h]
  case fault =>
    refine ⟨enterFault p .railOvercurrent s, ?_, faultEntered (not_fault_of_railOn hr) _⟩
    show execRailOvercurrent p s = _
    unfold execRailOvercurrent
    rw [if_pos (overcurrentDue_true hc hr ho ht ha)]
  case answered =>
    rw [line_enterFault]
    refine answeredBadState_mem he hb (List.any_eq_true.2 ⟨j, List.mem_filter.2 ⟨hj, by simp [hs]⟩, ?_⟩)
    rcases hk with ⟨a, hk⟩ | ⟨a, v, hk⟩ <;> simp [Job.answers, hk]
  all_goals
    have sense : exec (.railSense p m) s = .next (railSensed p m s) := by
      show execRailSense p m s = _
      unfold execRailSense
      rw [if_pos (by simp [hc, hr])]
    rw [sense]
    unfold railSensed
  case low =>
    rw [if_pos hm]
    rw [funext (senseRail_eq s.clock m m)]
  case high =>
    refine ⟨(Config.overRange s.freeCount).val, Nat.lt_succ_iff.1 (Config.overRange s.freeCount).isLt, ?_⟩
    rw [if_neg (Nat.not_le.2 hm), funext (senseRail_eq s.clock m (Config.overRange s.freeCount).val)]

end Rail

section Inputs

variable {s u : State} {p : PortId} {f : Port → Port}

/-- A presence rise that follows a change of the port's own inputs is one from the state before. -/
theorem PresenceRisen.of_modPort (h : PresenceRisen p (s.modPort p f) u) (hs : (f (s.port p)).station = (s.port p).station)
    (hf : (f (s.port p)).profile = (s.port p).profile) : PresenceRisen p s u := by
  obtain ⟨a, b, c, d, e, g, i, j, k, station, profile, l, m, n, o, table, others, still⟩ := h
  rw [port_modPort_self] at station profile
  exact ⟨a, b, c, d, e, g, i, j, k, station.trans hs, profile.trans hf, l, m, n, o, table,
    fun q hq => (others q hq).trans (port_modPort_ne (Ne.symm hq) f s), still⟩

/-- An entry to VACANT that follows a change of the port's own record is one from the state before. -/
theorem VacantEntered.of_modPort (h : VacantEntered p (s.modPort p f) u) (hl : (f (s.port p)).lane = (s.port p).lane)
    (hq : (f (s.port p)).queue = (s.port p).queue) : VacantEntered p s u := by
  obtain ⟨a, b, c, d, e, g, i, j, k, l, m, n, o, r, t, v, w, others, still, x, y, z, lane, line, lost⟩ := h
  rw [port_modPort_self] at lane line
  exact ⟨a, b, c, d, e, g, i, j, k, l, m, n, o, r, t, v, w, fun q hne => (others q hne).trans (port_modPort_ne (Ne.symm hne) f s),
    still, x, y, z, lane.trans (congrArg _ hl), line.trans (by rw [hq]; rfl), lost.of_cues rfl⟩

/-- A vacant camera's port that is enabled: the record after a presence rise keeps what the rise does not name. -/
theorem inputs_presenceRise (he : (s.port p).enabled = true) (hv : (s.port p).power = .vacant) :
    ((presenceRise p s).port p).presence = (s.port p).presence ∧ ((presenceRise p s).port p).attention = (s.port p).attention ∧
      ((presenceRise p s).port p).held = (s.port p).held ∧ ((presenceRise p s).port p).enabled = (s.port p).enabled ∧
      ((presenceRise p s).port p).railLimit = (s.port p).railLimit := by
  have face := face_presenceRise he hv
  exact ⟨field_of_face face Port.presence, field_of_face face Port.attention, field_of_face face Port.held,
    field_of_face face Port.enabled, field_of_face face Port.railLimit⟩

theorem presenceRise_idle (h : (s.port p).enabled = false ∨ (s.port p).power ≠ .vacant) : presenceRise p s = s := by
  refine if_neg ?_
  rcases h with h | h
  · simp [h]
  · cases hp : (s.port p).power <;> simp_all [Power.isVacant]

theorem presenceFall_vacant (h : (s.port p).power = .vacant) : presenceFall p s = s := if_pos (by rw [h]; rfl)

theorem presenceFall_camera (h : (s.port p).power ≠ .vacant) : presenceFall p s = enterVacant p s := by
  refine if_neg ?_
  cases hp : (s.port p).power <;> simp_all [Power.isVacant]

theorem testPoll_idle {c : Port} (h : c.held ≠ none ∨ c.power.isVacant = true ∨ c.markPoll = true ∨ ∃ j ∈ c.queue, j.isPoll = true) :
    c.testPoll = c := by
  refine if_neg ?_
  rcases h with h | h | h | ⟨j, hj, hp⟩
  · obtain ⟨e, he⟩ := Option.ne_none_iff_exists'.1 h
    simp [Port.pollOwed, he]
  · simp [Port.pollOwed, h]
  · simp [h]
  · have polled : c.queue.any Job.isPoll = true := List.any_eq_true.2 ⟨j, hj, hp⟩
    simp [Port.pollOwed, polled]

theorem testPoll_due {c : Port} (ha : c.attention = true) (hh : c.held = none) (hv : c.power.isVacant = false)
    (hm : c.markPoll = false) (hq : ∀ j ∈ c.queue, j.isPoll = false) :
    (c.queue.length < 8 → c.testPoll = { c with queue := c.queue ++ [⟨.poll, false, false, false⟩] }) ∧
      (8 ≤ c.queue.length → c.testPoll = { c with markPoll := true }) := by
  have none_ : c.queue.any Job.isPoll = false := List.any_eq_false.2 fun j hj => by simp [hq j hj]
  have owed : (c.pollOwed && !c.markPoll) = true := by simp [Port.pollOwed, ha, hh, hv, hm, none_]
  unfold Port.testPoll
  rw [if_pos owed]
  exact ⟨fun h => if_pos ((hasRoom_iff c).2 h), fun h => if_neg (mt (hasRoom_iff c).1 (Nat.not_lt.2 h))⟩

/-- Settles O24: the edges of the presence and attention inputs. -/
theorem inputEdges : Obligations.InputEdges := by
  unfold Obligations.InputEdges
  refine ⟨fun p a s => ⟨fun he hv => ?rise, fun h => ?kept⟩, fun p s => ⟨fun he hv hu => ?fall, fun he hv => ?empty, fun he => ?off⟩,
    fun p s => ?attention⟩
  case rise =>
    let v : State := s.modPort p (fun c => { c with presence := true, attention := a })
    have enabled : (v.port p).enabled = true := by rw [port_modPort_self]; exact he
    have vacant : (v.port p).power = .vacant := by rw [port_modPort_self]; exact hv
    obtain ⟨hp, ha, hh, -⟩ := inputs_presenceRise enabled vacant
    rw [port_modPort_self] at hp ha hh
    exact ⟨presenceRise p v, rfl, (presenceRisen enabled vacant).of_modPort rfl rfl, hp, ha, hh⟩
  case kept =>
    show execPresenceRise p a s = _
    unfold execPresenceRise
    rw [presenceRise_idle]
    rw [port_modPort_self]
    exact h
  case fall =>
    let v : State := s.modPort p (fun c => { c with presence := false })
    have vacant : (v.port p).power ≠ .vacant := by rw [port_modPort_self]; exact hv
    refine ⟨enterVacant p v, ?_, (vacantEntered vacant).of_modPort rfl rfl, ?_, fun k e hk hb => ?_, fun k e hk hb => ?_⟩
    · show execPresenceFall p s = _
      unfold execPresenceFall
      dsimp only
      rw [if_pos (by rw [port_modPort_self]; exact he), presenceFall_camera vacant]
    · rw [(settings_enterVacant p v).2.2, port_modPort_self]
    · rw [entryAt_enterVacant]
      exact (entryAt_unbindPort (s := v) hu hk).1 hb
    · rw [entryAt_enterVacant]
      exact (entryAt_unbindPort (s := v) hu hk).2 hb
  case empty =>
    show execPresenceFall p s = _
    unfold execPresenceFall
    dsimp only
    rw [if_pos (by rw [port_modPort_self]; exact he), presenceFall_vacant (by rw [port_modPort_self]; exact hv)]
  case off =>
    show execPresenceFall p s = _
    unfold execPresenceFall
    dsimp only
    rw [if_neg (by rw [port_modPort_self]; simp [he])]
  case attention =>
    refine ⟨s.modPort p (fun c => ({ c with attention := true } : Port).testPoll), rfl, fun hh hv hm hq => ?_, fun h => ?_⟩
    · obtain ⟨room, full⟩ := testPoll_due (c := { s.port p with attention := true }) rfl hh hv hm hq
      exact ⟨fun h => modPort_congr (room h), fun h => modPort_congr (full h)⟩
    · exact modPort_congr (testPoll_idle (c := { s.port p with attention := true }) h)

end Inputs

section PortSet

variable {r : Request} {s : State} {p : PortId}

theorem twoCode_iff (n : Nat) : (twoCode n = some false ↔ n = 1) ∧ (twoCode n = some true ↔ n = 2) ∧
    (n ≠ 1 → n ≠ 2 → twoCode n = none) := by
  unfold twoCode
  by_cases h1 : n = 1
  · simp [h1]
  · by_cases h2 : n = 2 <;> simp [h1, h2]

/-- The record of a port with the settings that PORT_SET stores. -/
def Port.withSettings (limit : Nat) (en : Bool) (c : Port) : Port := { c with railLimit := limit, enabled := en }

/-- What PORT_SET does where its codes are known. -/
theorem exec_portSet (ht : Taken .portSet r s) (hp : u8 r.body 0 = p.val) {off : Bool} (hc : twoCode (u8 r.body 3) = some off) :
    exec (.portSet r) s = .next (finish ((setEnabled p (!off) (s.modPort p ({ · with
      railLimit := clamp 500 4000 (u16 r.body 1) }))).replied 0x87#8 r.tag
        ((if clamp 500 4000 (u16 r.body 1) = u16 r.body 1 then 0x00#8 else 0x01#8) ::
          portSetBytesOf p (setEnabled p (!off) (s.modPort p ({ · with railLimit := clamp 500 4000 (u16 r.body 1) })))))) := by
  refine (exec_taken (k := .portSet) ht).trans ?_
  show Host.Outcome.next (servePortSet r.tag r.body s) = _
  unfold servePortSet
  rw [portOf?_val hp, hc]
  dsimp only
  rw [answer_eq, okOr_bne]
  rfl

theorem setEnabled_same {w : State} {en : Bool} (h : (w.port p).enabled = en) : setEnabled p en w = w := if_pos h

/-- The enable state of a port with no camera to gain or lose. -/
theorem setEnabled_idle {w : State} {en : Bool} (h : (w.port p).enabled ≠ en)
    (hi : (en = true ∧ ((w.port p).presence = false ∨ (w.port p).power ≠ .vacant)) ∨ (en = false ∧ (w.port p).power = .vacant)) :
    setEnabled p en w = w.modPort p ({ · with enabled := en }) := by
  unfold setEnabled
  rw [if_neg h]
  rcases hi with ⟨rfl, hi⟩ | ⟨rfl, hv⟩
  · dsimp only
    rw [if_pos rfl, port_modPort_self]
    rcases hi with hi | hi
    · exact if_neg (by simp [hi])
    · rw [presenceRise_idle (.inr (by rw [port_modPort_self]; exact hi))]
      exact ite_self _
  · exact presenceFall_vacant (by rw [port_modPort_self]; exact hv)

theorem setEnabled_rise {w : State} (h : (w.port p).enabled = false) (hp : (w.port p).presence = true) :
    setEnabled p true w = presenceRise p (w.modPort p ({ · with enabled := true })) := by
  unfold setEnabled
  rw [if_neg (by simp [h])]
  dsimp only
  rw [if_pos rfl, port_modPort_self]
  exact if_pos hp

theorem setEnabled_fall {w : State} (h : (w.port p).enabled = true) (hv : (w.port p).power ≠ .vacant) :
    setEnabled p false w = enterVacant p (w.modPort p ({ · with enabled := false })) := by
  unfold setEnabled
  rw [if_neg (by simp [h])]
  exact presenceFall_camera (by rw [port_modPort_self]; exact hv)

/-- Settles O47: the settings of a port are stored, and the camera comes or goes with the enable state. -/
theorem portSet : Obligations.PortSet := by
  unfold Obligations.PortSet
  refine ⟨fun r s ht h => ?far, fun r s p ht hp => ⟨fun h1 h2 => ?code, fun h => ?same, fun h2 he hv => ?fall,
    fun h1 he hv hpr => ?rise, fun h => ?idle⟩⟩
  case far =>
    refine (exec_taken (k := .portSet) ht).trans ?_
    show Host.Outcome.next (servePortSet r.tag r.body s) = _
    unfold servePortSet
    rw [portOf?_none h]
    rfl
  case code =>
    refine (exec_taken (k := .portSet) ht).trans ?_
    show Host.Outcome.next (servePortSet r.tag r.body s) = _
    unfold servePortSet
    rw [portOf?_val hp, (twoCode_iff _).2.2 h1 h2]
    rfl
  case same =>
    cases he : (s.port p).enabled with
    | true =>
      rw [exec_portSet ht hp ((twoCode_iff _).1.2 (by simpa [he] using h)),
        setEnabled_same (by rw [port_modPort_self]; exact he), portSetBytesOf, port_modPort_self, h, he]
      rfl
    | false =>
      rw [exec_portSet ht hp ((twoCode_iff _).2.1.2 (by simpa [he] using h)),
        setEnabled_same (by rw [port_modPort_self]; exact he), portSetBytesOf, port_modPort_self, h, he]
      rfl
  case fall =>
    have fall := setEnabled_fall (w := s.modPort p ({ · with railLimit := clamp 500 4000 (u16 r.body 1) })) (p := p)
      (by rw [port_modPort_self]; exact he) (by rw [port_modPort_self]; exact hv)
    rw [modPort_modPort] at fall
    let v : State := s.modPort p (Port.withSettings (clamp 500 4000 (u16 r.body 1)) false)
    have vacant : VacantEntered p v (enterVacant p v) := vacantEntered (by rw [port_modPort_self]; exact hv)
    obtain ⟨enabled, limit, -⟩ := settings_enterVacant p v
    rw [port_modPort_self] at enabled limit
    have bytes : portSetBytesOf p (enterVacant p v) = le16 (clamp 500 4000 (u16 r.body 1)) ++ [0x02#8, 0x00#8, 0x00#8] := by
      rw [portSetBytesOf, enabled, limit, vacant.2.1]
      rfl
    refine ⟨enterVacant p v, if clamp 500 4000 (u16 r.body 1) = u16 r.body 1 then 0x00#8 else 0x01#8,
      portSetBytesOf p (enterVacant p v), (exec_portSet ht hp ((twoCode_iff _).2.1.2 h2)).trans ?_, ?_, vacant.of_modPort rfl rfl, enabled, limit, ?_⟩
    · rw [show setEnabled p (!true) _ = _ from fall]
      rfl
    · split
      · exact .inl rfl
      · exact .inr rfl
    · rw [bytes]
      rfl
  case rise =>
    have rise := setEnabled_rise (w := s.modPort p ({ · with railLimit := clamp 500 4000 (u16 r.body 1) })) (p := p)
      (by rw [port_modPort_self]; exact he) (by rw [port_modPort_self]; exact hpr)
    rw [modPort_modPort] at rise
    let v : State := s.modPort p (Port.withSettings (clamp 500 4000 (u16 r.body 1)) true)
    have on : (v.port p).enabled = true := by rw [port_modPort_self]; rfl
    have gone : (v.port p).power = .vacant := by rw [port_modPort_self]; exact hv
    have risen : PresenceRisen p v (presenceRise p v) := presenceRisen on gone
    obtain ⟨presence, attention, held, enabled, limit⟩ := inputs_presenceRise on gone
    rw [port_modPort_self] at presence attention held enabled limit
    have bytes : portSetBytesOf p (presenceRise p v) = le16 (clamp 500 4000 (u16 r.body 1)) ++ [0x01#8, 0x00#8, 0x00#8] := by
      rw [portSetBytesOf, enabled, limit, risen.2.1]
      rfl
    refine ⟨presenceRise p v, (exec_portSet ht hp ((twoCode_iff _).1.2 h1)).trans ?_, ?_, risen.of_modPort rfl rfl, enabled,
      presence.trans hpr, attention, held, limit⟩
    · rw [show setEnabled p (!false) _ = _ from rise]
      show Host.Outcome.next (finish (State.replied _ _ _ (_ :: portSetBytesOf p (presenceRise p v)))) = _
      rw [bytes]
      rfl
    · show execPresenceRise p (s.port p).attention _ = _
      unfold execPresenceRise
      rw [modPort_modPort]
      refine congrArg (fun x => Host.Outcome.next (finish (presenceRise p x))) (modPort_congr ?_)
      show ({ s.port p with railLimit := _, enabled := true, presence := true, attention := (s.port p).attention } : Port) = _
      rw [← hpr]
      rfl
  case idle =>
    have idle : ∀ en off, twoCode (u8 r.body 3) = some off → en = !off → (s.port p).enabled ≠ en →
        ((en = true ∧ ((s.port p).presence = false ∨ (s.port p).power ≠ .vacant)) ∨ (en = false ∧ (s.port p).power = .vacant)) →
        enableCode en = u8 r.body 3 → decide (u8 r.body 3 = 1) = en →
        exec (.portSet r) s = .next (finish ((s.modPort p (fun c => { c with
          railLimit := clamp 500 4000 (u16 r.body 1), enabled := decide (u8 r.body 3 = 1) })).replied 0x87#8 r.tag
            ([if clamp 500 4000 (u16 r.body 1) = u16 r.body 1 then 0x00#8 else 0x01#8] ++
              le16 (clamp 500 4000 (u16 r.body 1)) ++ [toByte (u8 r.body 3)] ++ readingBytes (s.port p).reading))) := by
      rintro _ off hc rfl he hi hn hd
      have idle := setEnabled_idle (w := s.modPort p ({ · with railLimit := clamp 500 4000 (u16 r.body 1) })) (p := p) (en := !off)
        (by rw [port_modPort_self]; exact he) (by rw [port_modPort_self]; exact hi)
      rw [exec_portSet ht hp hc, idle, modPort_modPort, portSetBytesOf, port_modPort_self, hd, ← hn]
      rfl
    rcases h with ⟨h1, he, hi⟩ | ⟨h2, he, hv⟩
    · exact idle true false ((twoCode_iff _).1.2 h1) rfl (by simp [he]) (.inl ⟨rfl, hi⟩) h1.symm (by simp [h1])
    · exact idle false true ((twoCode_iff _).2.1.2 h2) rfl (by simp [he]) (.inr ⟨rfl, hv⟩) h2.symm (by simp [h2])

end PortSet

end Sys2Proof.Machine

namespace Sys2Proof.Machine

/-! # Proofs: what a plan and a pause leave of a camera (R112, R115, R123, R164)

Planning changes a camera's reservation and commitment and the entries of the cues; a pause changes its state and leaves the
entries of the cues. `Plans` says the first, `State.plans` the second. -/

section Plans

variable {s t u : State} {p : PortId}

/-- A record without its reservation and its commitment. -/
def Port.planless (c : Port) : Port := { c with resv := none, commitment := none }

/-- A field that is neither the reservation nor the commitment. -/
theorem field_of_planless {α : Type} {c d : Port} (h : d.planless = c.planless) (f : Port → α)
    (hf : ∀ c : Port, f c.planless = f c := by exact fun _ => rfl) : f d = f c := (hf d).symm.trans ((congrArg f h).trans (hf c))

/-- From s the planning of a camera has reached t: of its record only the reservation and the commitment have changed, and
the advance table is as it was. -/
structure Plans (p : PortId) (s t : State) : Prop where
  record : (t.port p).planless = (s.port p).planless
  adv : t.adv = s.adv

namespace Plans

theorem refl (p : PortId) (s : State) : Plans p s s := ⟨rfl, rfl⟩

theorem trans (h : Plans p s t) (g : Plans p t u) : Plans p s u := ⟨g.record.trans h.record, g.adv.trans h.adv⟩

theorem power (h : Plans p s t) : (t.port p).power = (s.port p).power := field_of_planless h.record Port.power

theorem modCue (i : Nat) (f : Cue → Cue) (h : Plans p s t) : Plans p s (modCue i f t) := h.trans ⟨rfl, rfl⟩

theorem setDisp (h : Plans p s t) (i : Nat) (d : Option Disp) (r : Option Nat) : Plans p s (setDisp i p d r t) := h.modCue i _

theorem setResv (h : Plans p s t) (r : Option Reservation) : Plans p s (setResv p r t) :=
  h.trans ⟨by unfold Machine.setResv; rw [port_modPort_self]; rfl, rfl⟩

theorem commit (h : Plans p s t) : Plans p s (commit p t) :=
  h.trans ⟨by unfold Machine.commit; rw [port_modPort_self]; rfl, rfl⟩

theorem settleCommitment (h : Plans p s t) : Plans p s (settleCommitment p t) :=
  h.trans ⟨by rw [port_settleCommitment_eq]; rfl, by unfold Machine.settleCommitment; split <;> rfl⟩

theorem releaseUnstarted (h : Plans p s t) : Plans p s (releaseUnstarted p t) := by
  unfold Machine.releaseUnstarted releaseResv
  split
  · exact (h.setResv none).settleCommitment
  · exact h

theorem placeFor (h : Plans p s t) (i req : Nat) : Plans p s (placeFor p i req t) := by
  unfold Machine.placeFor
  repeat' split
  · exact (h.setResv _).setDisp i _ _
  · exact h
  · exact h

theorem forEach {α : Type} (h : Plans p s t) (xs : List α) (g : α → State → State) (hg : ∀ x u, Plans p s u → Plans p s (g x u)) :
    Plans p s (forEach xs g t) := by
  induction xs generalizing t with
  | nil => exact h
  | cons x xs ih => exact ih (hg x t h)

theorem rewriteEntries (h : Plans p s t) (x old : Nat) : Plans p s (rewriteEntries p x old t) := by
  unfold Machine.rewriteEntries
  split
  · exact h.forEach _ _ fun c u g => g.setDisp _ _ _
  · exact h

theorem coverBy (h : Plans p s t) (i req ready : Nat) : Plans p s (coverBy p i req ready t) := h.setDisp i _ _

theorem planPaused (h : Plans p s t) (i req : Nat) : Plans p s (planPaused p i req t) := by
  unfold Machine.planPaused
  repeat' split
  · exact h.coverBy ..
  · exact h.setDisp ..
  · exact (((h.setResv none).placeFor i req).rewriteEntries i _).settleCommitment
  · exact h.setDisp ..
  · exact h.placeFor ..
  · exact h.commit.placeFor ..
  · exact h.setDisp ..

/-- The planning of a camera that is not in PAUSING. -/
theorem planOne (h : Plans p s t) (hp : (s.port p).power.isPausing = false) (i : Nat) : Plans p s (planOne p i t) := by
  have here : (t.port p).power.isPausing = false := by rw [h.power, hp]
  unfold Machine.planOne
  split
  · exact h
  · dsimp only
    split
    · exact h.setDisp ..
    split
    · exact h.setDisp ..
    split
    · exact h.setDisp ..
    split
    · exact h.setDisp ..
    cases hw : (t.port p).power with
    | ready | armed => exact h.setDisp ..
    | waking w => exact h.coverBy ..
    | deep | doze | keepwarm => exact h.planPaused ..
    | vacant | fault => exact h
    | pausing ps w => exact absurd here (by simp [hw, Power.isPausing])

theorem replan (h : Plans p s t) (hp : (s.port p).power.isPausing = false) : Plans p s (replan p t) :=
  h.forEach _ _ fun i _ g => g.planOne hp i

theorem undoReservation (h : Plans p s t) (hp : (s.port p).power.isPausing = false) : Plans p s (undoReservation p t) := by
  unfold Machine.undoReservation
  split
  · exact (h.trans (((refl p t).setResv none).replan (by rw [h.power, hp]))).settleCommitment
  · exact h

end Plans

theorem undoReservation_idle (h : (s.port p).unstarted = false) : undoReservation p s = s := if_neg (by simp [h])

end Plans

/-! ## The entries of the cues -/

section Entries

variable {s : State} {p : PortId}

/-- The dispositions that the cues hold of their members. -/
def State.plans (s : State) : List (Nat × CueState × List (PortId × Option Disp × Option Nat)) :=
  s.cues.map (fun c => (c.id, c.state, c.members.map (fun m => (m.port, m.disp, m.ready))))

theorem plans_of_cues {t : State} (h : t.cues = s.cues) : t.plans = s.plans := by
  unfold State.plans
  rw [h]

theorem plans_of_around {t : State} (h : t.around = s.around) : t.plans = s.plans := plans_of_cues (around_parts h).2.1

theorem plans_modCue (i : Nat) (f : Cue → Cue) (h : ∀ c, (f c).id = c.id ∧ (f c).state = c.state ∧
    (f c).members.map (fun m => (m.port, m.disp, m.ready)) = c.members.map (fun m => (m.port, m.disp, m.ready))) (s : State) :
    (modCue i f s).plans = s.plans := by
  unfold State.plans modCue
  rw [List.map_map]
  refine List.map_congr_left fun c _ => ?_
  simp only [Function.comp]
  split
  · obtain ⟨hi, hs, hm⟩ := h c
    rw [hi, hs, hm]
  · rfl

@[simp] theorem plans_setPrep (i : Nat) (p : PortId) (v : Prep) (s : State) : (setPrep i p v s).plans = s.plans := by
  refine plans_modCue i (Cue.modMember p ({ · with prep := v })) (fun c => ⟨rfl, rfl, ?_⟩) s
  unfold Cue.modMember
  rw [List.map_map]
  refine List.map_congr_left fun m _ => ?_
  simp only [Function.comp]
  split <;> rfl

@[simp] theorem plans_modPort (p : PortId) (f : Port → Port) (s : State) : (s.modPort p f).plans = s.plans := rfl

@[simp] theorem plans_setPower (p : PortId) (new : Power) (s : State) : (setPower p new s).plans = s.plans :=
  plans_of_around (around_setPower p new s)

@[simp] theorem plans_setOffload (p : PortId) (v : Bool) (s : State) : (setOffload p v s).plans = s.plans :=
  plans_of_around (around_setOffload p v s)

@[simp] theorem plans_loseSettings (p : PortId) (s : State) : (loseSettings p s).plans = s.plans := by
  refine forEach_field State.plans _ (fun c u => ?_) _ s
  split <;> simp

@[simp] theorem plans_enterDoze (p : PortId) (s : State) : (enterDoze p s).plans = s.plans := by
  unfold enterDoze enqueueJob
  simp

@[simp] theorem plans_enterDeep (p : PortId) (s : State) : (enterDeep p s).plans = s.plans := by
  unfold enterDeep
  rw [plans_loseSettings]
  exact (plans_setOffload p false _).trans (plans_setPower p .deep s)

@[simp] theorem plans_enterKeepwarm (p : PortId) (s : State) : (enterKeepwarm p s).plans = s.plans := by
  unfold enterKeepwarm startKeepwarm enqueueJob
  split <;> simp

@[simp] theorem plans_pauseReady (p : PortId) (ps : Pause) (s : State) : (pauseReady p ps s).plans = s.plans := by
  unfold pauseReady pauseAction
  split
  · simp
  · cases ps.target <;> simp

/-- A camera that is excluded has the disposition in every planned cue that includes it (R164, R163). -/
def Cue.excluded (p : PortId) (d : Disp) (c : Cue) : Cue := c.modMember p ({ · with disp := some d, ready := none })

theorem excluded_excluded (p : PortId) (d : Disp) (c : Cue) : (c.excluded p d).excluded p d = c.excluded p d :=
  modMember_twice c p (f := ({ · with disp := some d, ready := none })) (fun _ => rfl) fun _ => rfl

theorem forEach_setDisp (ids : List Nat) (p : PortId) (d : Disp) (s : State) :
    forEach ids (fun i => setDisp i p (some d) none) s =
      { s with cues := s.cues.map (fun c => if c.id ∈ ids then c.excluded p d else c) } := by
  induction ids generalizing s with
  | nil => simp [forEach]
  | cons i ids ih =>
    show forEach ids _ (setDisp i p (some d) none s) = _
    rw [ih]
    unfold setDisp modCue
    simp only [List.map_map]
    congr 1
    refine List.map_congr_left fun c _ => ?_
    simp only [Function.comp]
    by_cases hi : c.id = i
    · have e : (c.excluded p d).id = c.id := rfl
      subst hi
      simp only [if_true, List.mem_cons, true_or]
      show (if (c.excluded p d).id ∈ ids then (c.excluded p d).excluded p d else c.excluded p d) = _
      rw [excluded_excluded, ite_self]
    · rw [if_neg hi]
      simp only [List.mem_cons, hi, false_or]

theorem exclude_eq (p : PortId) (d : Disp) (s : State) : exclude p d s =
    { s with cues := s.cues.map (fun c => if c.id ∈ s.needs p then c.excluded p d else c) } := forEach_setDisp _ p d s

/-- What an exclusion leaves in the entries of the planned cues. -/
def State.excludes (s : State) (p : PortId) (d : Disp) : Prop :=
  ∀ c ∈ s.cues, c.state.planned? = true → ∀ m ∈ c.members, m.port = p → m.disp = some d ∧ m.ready = none

theorem excludes_exclude (p : PortId) (d : Disp) (s : State) : (exclude p d s).excludes p d := by
  rw [exclude_eq]
  intro x hx hs m hm hp
  obtain ⟨c, hc, rfl⟩ := List.mem_map.1 hx
  by_cases hi : c.id ∈ s.needs p
  · rw [if_pos hi] at hm
    obtain ⟨n, -, rfl⟩ := List.mem_map.1 hm
    split at hp
    · rename_i h
      rw [if_pos h]
      exact ⟨rfl, rfl⟩
    · rename_i h
      exact absurd hp h
  · rw [if_neg hi] at hs hm
    refine absurd (List.mem_map.2 ⟨c, List.mem_filter.2 ⟨hc, ?_⟩, rfl⟩) hi
    rw [hs, Bool.true_and]
    exact mem_includes.2 ⟨m, hm, hp⟩

theorem State.excludes.of_plans {t : State} {d : Disp} (h : s.excludes p d) (e : t.plans = s.plans) : t.excludes p d := by
  intro c hc hs m hm hp
  have mem : (c.id, c.state, c.members.map (fun m => (m.port, m.disp, m.ready))) ∈ s.plans := by
    rw [← e]
    exact List.mem_map.2 ⟨c, hc, rfl⟩
  obtain ⟨x, hx, ex⟩ := List.mem_map.1 mem
  obtain ⟨-, es, em⟩ : x.id = c.id ∧ x.state = c.state ∧ _ := by simpa using ex
  have member : (m.port, m.disp, m.ready) ∈ x.members.map (fun m => (m.port, m.disp, m.ready)) := by
    rw [em]
    exact List.mem_map.2 ⟨m, hm, rfl⟩
  obtain ⟨n, hn, en⟩ := List.mem_map.1 member
  obtain ⟨hport, hdisp, hready⟩ : n.port = m.port ∧ n.disp = m.disp ∧ n.ready = m.ready := by simpa using en
  rw [← hdisp, ← hready]
  exact h x hx (es ▸ hs) n hn (hport.trans hp)

end Entries

end Sys2Proof.Machine

namespace Sys2Proof.Machine

/-! # Proofs: CLEAR_FAULT, and the pauses of a camera (R28, R161–R165)

`takePause` is read by the camera's state: in READY it is `PauseTaken`, in the other states it names the pause that is to come
or changes the camera's state at once. -/

section ClearFault

variable {s : State} {p : PortId}

/-- What the return to DEEP from FAULT leaves. -/
theorem leaveFault_deep (he : (s.port p).enabled = true) (hp : (s.port p).presence = true) : leaveFault p s =
    oweAfterFault p (replan p (enterDeep p (s.modPort p ({ · with run := 0 })))) := by
  unfold leaveFault
  dsimp only
  rw [if_pos (by rw [port_modPort_self]; simp [he, hp])]

theorem leaveFault_vacant (h : (s.port p).enabled = false ∨ (s.port p).presence = false) : leaveFault p s =
    enterVacant p (s.modPort p ({ · with run := 0 })) := by
  unfold leaveFault
  dsimp only
  rw [if_neg (by rw [port_modPort_self]; rcases h with h | h <;> simp [h])]

theorem oweAfterFault_idle (hf : (s.port p).profile ≠ none) (hr : (s.port p).rescan = false) : oweAfterFault p s = s :=
  if_neg (by simp [hf, hr])

theorem oweAfterFault_owed (h : (s.port p).profile = none ∨ (s.port p).rescan = true) :
    oweAfterFault p s = s.modPort p (fun c => { c with rescan := false }.oweIdentify) :=
  if_pos (by rcases h with h | h <;> simp [h])

theorem oweAfterFault_fields (p : PortId) (s : State) : ((oweAfterFault p s).port p).power = (s.port p).power ∧
    ((oweAfterFault p s).port p).run = (s.port p).run ∧ ((oweAfterFault p s).port p).profile = (s.port p).profile := by
  unfold oweAfterFault
  split
  · rw [port_modPort_self]
    have owed := body_oweIdentify ({ s.port p with rescan := false } : Port)
    exact ⟨field_of_body owed Port.power, field_of_body owed Port.run, field_of_body owed Port.profile⟩
  · exact ⟨rfl, rfl, rfl⟩

theorem onPort_oweAfterFault (p : PortId) (s : State) : OnPort p s (oweAfterFault p s) := by
  unfold oweAfterFault
  split
  · exact (OnPort.refl p s).modPort _ (by simp)
  · exact .refl p s

theorem oweAfterFault_outer (p : PortId) (s : State) : (oweAfterFault p s).outer = s.outer := by
  unfold oweAfterFault
  split <;> rfl

/-- A request of one camera is refused for a port above 23 (Table 29). -/
theorem exec_clearFault {r : Request} (ht : Taken .clearFault r s) :
    exec (.clearFault r) s = .next (serveClearFault r.tag r.body s) := exec_taken (k := .clearFault) ht

/-- Settles O27: a camera leaves FAULT for DEEP, with its plan made anew, or for VACANT. -/
theorem clearFault : Obligations.ClearFault := by
  unfold Obligations.ClearFault
  refine ⟨fun r s ht h => ?far, fun r s h ht => ⟨fun cause hc => ⟨fun he hpr => ?deep, fun hv => ?vacant⟩, fun hf => ?state⟩⟩
  case far =>
    rw [exec_clearFault ht, serveClearFault, portOf?_none h]
    rfl
  all_goals
    generalize hp : (⟨u8 r.body 0, h⟩ : PortId) = p at *
    have named : portOf? (u8 r.body 0) = some p := portOf?_val (by rw [← hp])
    rw [exec_clearFault ht, serveClearFault, named]
    dsimp only
  case state =>
    rw [if_neg (by simp [hf])]
    rfl
  all_goals rw [if_pos (by rw [hc]; rfl), answer_eq]
  case vacant =>
    refine ⟨leaveFault p s, rfl, ?_⟩
    rw [leaveFault_vacant hv]
    exact (vacantEntered (by rw [port_modPort_self]; show (s.port p).power ≠ _; rw [hc]; simp)).of_modPort rfl rfl
  case deep =>
    let w : State := s.modPort p ({ · with run := 0 })
    have fault : (w.port p).power = .fault cause := by rw [port_modPort_self]; exact hc
    have face := face_enterDeep p w
    rw [port_modPort_self] at face
    have power : ((enterDeep p w).port p).power = .deep := field_of_face face Port.power
    have plans : Plans p (enterDeep p w) (replan p (enterDeep p w)) := (Plans.refl p _).replan (by rw [power]; rfl)
    have profile : ((replan p (enterDeep p w)).port p).profile = (s.port p).profile :=
      (field_of_planless plans.record Port.profile).trans (field_of_face face Port.profile)
    have rescan : ((replan p (enterDeep p w)).port p).rescan = (s.port p).rescan :=
      (field_of_planless plans.record Port.rescan).trans (field_of_face face Port.rescan)
    have outer : (enterDeep p w).outer = s.outer := outer_enterDeep p w
    have outer' : (oweAfterFault p (replan p (enterDeep p w))).outer = s.outer :=
      (oweAfterFault_outer p _).trans ((outer_replan p _).trans outer)
    have on : OnPort p s (enterDeep p w) := ((OnPort.refl p s).modPort ({ · with run := 0 })).enterDeep
    have on' : OnPort p s (oweAfterFault p (replan p (enterDeep p w))) := (on.replan).trans (onPort_oweAfterFault p _)
    obtain ⟨hpow, hrun, hprof⟩ := oweAfterFault_fields p (replan p (enterDeep p w))
    have run : ((replan p (enterDeep p w)).port p).run = 0 :=
      (field_of_planless plans.record Port.run).trans (field_of_face face Port.run)
    have marked : (oweAfterFault p (replan p (enterDeep p w))).marked p :=
      (((OnPort.refl p _).replan).trans (onPort_oweAfterFault p _)).marks p (marked_enterDeep (by rw [fault]; rfl))
    have identify (h : (s.port p).profile = none ∨ (s.port p).rescan = true) : oweAfterFault p (replan p (enterDeep p w)) =
        (replan p (enterDeep p w)).modPort p (fun c => { c with rescan := false }.oweIdentify) :=
      oweAfterFault_owed (by rwa [profile, rescan])
    refine ⟨leaveFault p s, enterDeep p w, rfl, power, field_of_face face Port.run, field_of_face face Port.profile,
      field_of_face face Port.resv, field_of_face face Port.grade, field_of_face face Port.hostPause, (outer_parts outer).2.1,
      (outer_parts outer).1, on.others, ?_⟩
    rw [leaveFault_deep he hpr]
    refine ⟨fun h1 h2 => oweAfterFault_idle (by rwa [profile]) (by rwa [rescan]), identify,
      hpow.trans (plans.power.trans power), hrun.trans run, hprof.trans profile,
      (outer_parts outer').2.1, marked, on'.others, (outer_parts outer').1, fun h => ?_⟩
    rw [identify h, port_modPort_self]
    exact oweIdentify_mem _

end ClearFault

end Sys2Proof.Machine

namespace Sys2Proof.Machine

/-! # Proofs: the rest of a camera, and its timers (R17–R22, R161) -/

section Slots

theorem requiredReady_lt (s : State) (c : Cue) : s.requiredReady c < 400000000 := Nat.mod_lt _ (by decide)

/-- A slot number that lies n slots before another one. -/
theorem diffSlot_add (a n : Nat) : (diffSlot a n + n) % 400000000 = a % 400000000 := by
  unfold diffSlot Config.slotMod
  omega

theorem planned_iff (x : CueState) : x.planned? = true ↔ x = .planned ∨ x = .preparing ∨ x = .fireWait := by
  cases x <;> simp [CueState.planned?]

/-- The cues that a station's rest looks at (R161). -/
theorem needs_iff (st : StationId) (d : Cue) : (d.station == st && (d.state == .waiting || d.state.planned?)) = true ↔
    d.station = st ∧ (d.state = .waiting ∨ d.state = .planned ∨ d.state = .preparing ∨ d.state = .fireWait) := by
  rw [Bool.and_eq_true, Bool.or_eq_true, planned_iff]
  simp

theorem nextNeed_none {s : State} {st : StationId} : s.nextNeed st = none ↔ ∀ d ∈ s.cues,
    ¬ (d.station = st ∧ (d.state = .waiting ∨ d.state = .planned ∨ d.state = .preparing ∨ d.state = .fireWait)) := by
  unfold State.nextNeed
  rw [List.find?_eq_none]
  exact forall₂_congr fun d _ => not_congr (needs_iff st d)

theorem nextNeed_some {s : State} {st : StationId} {c : Cue} : s.nextNeed st = some c ↔ ∃ pre post, s.cues = pre ++ c :: post ∧
    (c.station = st ∧ (c.state = .waiting ∨ c.state = .planned ∨ c.state = .preparing ∨ c.state = .fireWait)) ∧
    ∀ d ∈ pre, ¬ (d.station = st ∧ (d.state = .waiting ∨ d.state = .planned ∨ d.state = .preparing ∨ d.state = .fireWait)) := by
  unfold State.nextNeed
  rw [List.find?_eq_some_iff_append, needs_iff]
  constructor
  · rintro ⟨hn, pre, post, e, hd⟩
    exact ⟨pre, post, e, hn, fun d hm hx => by
      have h := hd d hm
      rw [(needs_iff st d).2 hx] at h
      exact absurd h (by decide)⟩
  · rintro ⟨pre, post, e, hn, hd⟩
    exact ⟨hn, pre, post, e, fun d hm => by rw [Bool.eq_false_iff.2 (mt (needs_iff st d).1 (hd d hm))]; rfl⟩

end Slots

section Pauses

variable {s : State} {p : PortId} {ps : Pause}

/-- A change of state that enters a pause marks the port. -/
theorem marked_pauseReady (h : (s.port p).power.isReady = true) (ps : Pause) : (pauseReady p ps s).marked p := by
  have leaves {new : Power} (hn : new.isReady = false) : (setPower p new s).marked p := by
    refine marked_setPower ?_
    revert h hn
    cases (s.port p).power <;> cases new <;> simp [Power.isReady, Power.code]
  unfold pauseReady pauseAction
  split
  · exact leaves rfl
  · cases ps.target with
    | doze =>
      unfold enterDoze
      exact ((OnPort.refl p _).enqueueJob _).marks p (leaves rfl)
    | keepwarm =>
      unfold enterKeepwarm
      exact ((OnPort.refl p _).enqueueJob _).startKeepwarm.marks p (leaves rfl)
    | deep => exact marked_enterDeep (by revert h; cases (s.port p).power <;> simp [Power.isReady, Power.isDeep])

theorem takePause_ready {rest hold : Option Nat} (h : (s.port p).power = .ready rest hold) (ps : Pause) :
    takePause p ps s = pauseReady p ps s := by
  unfold takePause
  rw [h]

theorem takePause_doze {t : Option Nat} (h : (s.port p).power = .doze t) (o : Origin) :
    takePause p ⟨.deep, o⟩ s = undoReservation p (enterDeep p s) := by
  unfold takePause
  rw [h]
  rfl

/-- A field that a change of state leaves. -/
theorem field_of_core {α : Type} {c d : Port} (h : d.core = c.core) (f : Port → α) (hf : ∀ c : Port, f c.core = f c := by exact fun _ => rfl) :
    f d = f c := (hf d).symm.trans ((congrArg f h).trans (hf c))

/-- Settles O34: a rest timer holds the camera for its station's next need, or takes the pause to the rest state. -/
theorem restTimerExpiry : Obligations.RestTimerExpiry := by
  unfold Obligations.RestTimerExpiry
  refine ⟨fun s st needs hn => ⟨?none_, fun c => ?first⟩, fun s c f hf => ⟨requiredReady_lt s c, ?slot⟩,
    fun p s st t hold hp hst ht => ?_⟩
  case none_ =>
    simp only [hn]
    exact nextNeed_none
  case first =>
    simp only [hn]
    exact nextNeed_some
  case slot =>
    subst hf
    exact diffSlot_add c.slot _
  have run : exec (.restTimerExpiry p) s = .next (finish (restDecision p st s)) := by
    show execRestTimerExpiry p s = _
    unfold execRestTimerExpiry
    rw [hst]
    exact next_of_due (restDue_iff.2 ⟨t, hold, hp, ht⟩)
  rw [run]
  have held_iff (c : Cue) : s.heldFor (s.station st) c = true ↔ 200000000 ≤ diffSlot (s.requiredReady c) s.nowSlot ∨
      diffSlot (s.requiredReady c) s.nowSlot ≤ 100 * (s.station st).linger := by
    simp [State.heldFor]
  refine ⟨fun c hc hd => ?_, fun hc => ?_⟩
  · unfold restDecision
    dsimp only
    rw [hc, Option.filter_some, if_pos ((held_iff c).2 hd)]
  · have none_ : (s.nextNeed st).filter (s.heldFor (s.station st)) = none := by
      cases hn : s.nextNeed st with
      | none => rfl
      | some c =>
        obtain ⟨far, near⟩ := hc c hn
        rw [Option.filter_some, if_neg fun h => ?_]
        rcases (held_iff c).1 h with h | h
        · exact absurd near (Nat.not_lt.2 h)
        · exact absurd far (Nat.not_lt.2 h)
    have decided : restDecision p st s = pauseReady p ⟨(s.station st).restState, .auto⟩ s := by
      unfold restDecision
      dsimp only
      rw [none_]
      exact takePause_ready hp _
    have outer := outer_pauseReady p ⟨(s.station st).restState, .auto⟩ s
    obtain ⟨waits, taken⟩ := pauseReady_taken p ⟨(s.station st).restState, .auto⟩ s
    have station : s.stationOf p = some (s.station st) := by
      simp [State.stationOf, hst]
    refine ⟨pauseReady p ⟨(s.station st).restState, .auto⟩ s, by rw [decided], field_of_core (core_pauseReady _ _ _) Port.hostPause,
      (outer_parts outer).2.1, (outer_parts outer).1, ((OnPort.refl p s).pauseReady _).others,
      marked_pauseReady (by rw [hp]; rfl) _, waits, fun ho hj => ?_⟩
    obtain ⟨doze, deep, warm, hot⟩ := taken ho hj
    refine ⟨fun h => (doze h).1, deep, fun h hg => ?_, hot⟩
    rw [warm h hg, station]

/-- A pause that is given up: the camera enters READY, with its note (R22). -/
theorem abandoned_pausing {w : Nat} (hp : (s.port p).power = .pausing ps w) :
    ((addAbandoned p (enterReady p true s)).port p).power = .ready (s.restFrom p) none ∧
      ((addAbandoned p (enterReady p true s)).port p).noteAbandoned = true := by
  rw [port_addAbandoned_eq]
  exact ⟨(enterReady_free (by rw [hp]; rfl) true).trans (by rw [if_pos rfl]), rfl⟩

theorem owePing_due {c : Port} (hm : c.markPing = false) (hq : ∀ j ∈ c.queue, j.isPing = false) :
    (c.queue.length < 8 → c.owePing = { c with queue := c.queue ++ [⟨.ping, false, false, false⟩] }) ∧
      (8 ≤ c.queue.length → c.owePing = { c with markPing := true }) := by
  have idle : c.queuedIdle Job.isPing = false := List.any_eq_false.2 fun j hj => by simp [hq j hj]
  unfold Port.owePing
  rw [if_neg (by simp [hm, idle])]
  exact ⟨fun h => if_pos ((hasRoom_iff c).2 h), fun h => if_neg (mt (hasRoom_iff c).1 (Nat.not_lt.2 h))⟩

/-- The end of a PING in KEEPWARM at a grade below 7 starts the keep-warm timer (Table 17). -/
theorem pingEnd_warm {k : Option Nat} (hp : (s.port p).power = .keepwarm k) (hg : (s.port p).grade ≠ some 7) :
    pingEnd p s = s.modPort p (fun c => { c with power := .keepwarm (some (addMs s.clock ((match s.stationOf p with
      | some f => f.keepBase
      | none => 30) * warmFactor c.grade))) }) := by
  have started : startKeepwarm p s = s.modPort p ({ · with
      power := .keepwarm (some (addMs s.clock (s.keepBaseOf p * warmFactor (s.port p).grade))) }) := by
    unfold startKeepwarm
    rw [keepInterval_eq hg]
  unfold pingEnd
  rw [if_pos (by rw [hp]; rfl), started]
  dsimp only
  rw [if_pos (by rw [port_modPort_self]; rfl)]
  exact modPort_congr rfl

/-- At grade 7 the camera goes on to DOZE. -/
theorem pingEnd_hot {k : Option Nat} (hp : (s.port p).power = .keepwarm k) (hg : (s.port p).grade = some 7)
    (hu : (s.port p).unstarted = false) : ((pingEnd p s).port p).power = .doze (s.dozeTimer p) := by
  have started : startKeepwarm p s = enterDoze p s := by
    unfold startKeepwarm
    rw [hg]
    rfl
  have power := enterDoze_power p s
  have resv : ((enterDoze p s).port p).resv = (s.port p).resv := field_of_core (core_enterDoze p s) Port.resv
  unfold pingEnd
  rw [if_pos (by rw [hp]; rfl), started]
  dsimp only
  rw [if_neg (by rw [power]; simp [Power.isKeepwarm]), undoReservation_idle (by unfold Port.unstarted at hu ⊢; rw [resv]; exact hu)]
  exact power

theorem pingEnd_other (h : (s.port p).power.isKeepwarm = false) : pingEnd p s = s := if_neg (by simp [h])

end Pauses

end Sys2Proof.Machine

namespace Sys2Proof.Machine

/-! # Proofs: the end of a PING and the timers of the rest states (R20–R22, R43) -/

section Ends

variable {p : PortId} {s : State} {e : Exchange} {j : Job} {js : List Job} {st d : Byte}

/-- The end of a job in flight that holds no pause, carries no power mode and is no poll. -/
theorem jobEnd_quiet (hq : (s.port p).queue = j :: js) (hj : j.holdsPause = false) (hm : j.isPowerMode = false)
    (hp : j.isPoll = false) (f : State → State) :
    jobEnd p j f s = (f (s.modPort p ({ · with queue := js }))).modPort p Port.serveRoom := by
  simp [jobEnd, modPort_tail hq, hj, hm, hp]

theorem adv_markPort (p : PortId) (s : State) : (markPort p s).adv = s.adv := (around_parts (around_markPort p s)).2.2.1

theorem cues_markPort (p : PortId) (s : State) : (markPort p s).cues = s.cues := (around_parts (around_markPort p s)).2.1

theorem table_setGradeChanged (p : PortId) (s : State) :
    (setGradeChanged p s).adv = s.adv ∧ (setGradeChanged p s).cues = s.cues := by
  unfold setGradeChanged
  dsimp only
  rw [adv_markPort, cues_markPort]
  split <;> exact ⟨rfl, rfl⟩

/-- A failed exchange below the run of 3 leaves the advance table and the cues. -/
theorem table_failed (h : (s.port p).run < 2) (a : Bool) : (s.failed p a).adv = s.adv ∧ (s.failed p a).cues = s.cues := by
  have hr : ((s.modPort p ({ · with attention := a })).port p).run < 2 := by rwa [port_modPort_self]
  unfold State.failed setLane
  rw [adv_modPort, cues_modPort, countFailure_below hr]
  have marked (v : State) (hv : v.adv = s.adv ∧ v.cues = s.cues) :
      (setGradeChanged p v).adv = s.adv ∧ (setGradeChanged p v).cues = s.cues :=
    ⟨(table_setGradeChanged p v).1.trans hv.1, (table_setGradeChanged p v).2.trans hv.2⟩
  split
  · exact ⟨rfl, rfl⟩
  · split
    · exact marked _ ⟨rfl, rfl⟩
    · rw [adv_modPort, cues_modPort]
      exact marked _ ⟨rfl, rfl⟩

/-- The machine when a job in flight has failed its retry and has left the queue. -/
def State.jobFailed (s : State) (p : PortId) (a : Bool) : State :=
  (s.failed p a).modPort p (fun c => { c with queue := c.queue.tail })

/-- What a failed job leaves of the machine, the queue aside. -/
theorem jobFailed_spec (h : (s.port p).run < 2) (a : Bool) : ((s.jobFailed p a).port p).power = (s.port p).power ∧
    ((s.jobFailed p a).port p).grade = none ∧ ((s.jobFailed p a).port p).run = (s.port p).run + 1 ∧
    ((s.jobFailed p a).port p).lane = none ∧ (s.jobFailed p a).adv = s.adv ∧ (s.jobFailed p a).cues = s.cues ∧
    (s.jobFailed p a).table = s.table ∧ (s.jobFailed p a).still = s.still ∧
    ∀ q, q ≠ p → (s.jobFailed p a).port q = s.port q := by
  have keeps := keeps_failed s p a
  have record : (((s.failed p a).port p).power, ((s.failed p a).port p).grade, ((s.failed p a).port p).run) =
      ((s.port p).power, none, min 3 ((s.port p).run + 1)) := failed_record (fun c => (c.power, c.grade, c.run)) h a
  simp only [Prod.mk.injEq] at record
  obtain ⟨power, grade, run⟩ := record
  rw [Nat.min_eq_right (by omega)] at run
  obtain ⟨adv, cues⟩ := table_failed h a
  have on : OnPort p s (s.jobFailed p a) := (onPort_failed s p a).modPort _
  unfold State.jobFailed at on ⊢
  rw [port_modPort_self]
  refine ⟨power, grade, run, ?_, adv, cues, keeps.same rfl, keeps.still, on.others⟩
  show ((setLane p none _).port p).lane = none
  unfold setLane
  rw [port_modPort_self]

/-- A PING that succeeds is a thermal read, and the PING's end. -/
theorem exec_laneResponse_ping (h : JobSucceeds p e j js st d s) (he : e.op = .ping) (hj : j.kind = .ping) (a : Bool) :
    exec (.laneResponse p st d (responseCheck st d) a) s = .next (finish
      ((pingEnd p (thermalRead p d (s.jobDone p a js))).modPort p Port.serveRoom)) := by
  have ⟨_, _, _, _, hq, _⟩ := h
  have hh : ((s.handed p a).port p).queue = j :: js := by rw [queue_handed, hq]
  rw [exec_laneResponse_job h a, if_neg (by simp [Exchange.throughPart, he])]
  simp only [jobSuccess, hj]
  rw [jobEnd_quiet hh (by simp [Job.holdsPause, Job.isHost, Job.isPrep, hj]) (by simp [Job.isPowerMode, hj])
    (by simp [Job.isPoll, hj]), ← modPort_tail hh, handed_tail hq]

theorem exec_responseLimitExpiry_ping (h : JobFails p e j js s) (he : e.op = .ping) (hj : j.kind = .ping) (a : Bool) :
    exec (.responseLimitExpiry p a) s = .next (finish ((pingEnd p (s.jobFailed p a)).modPort p Port.serveRoom)) := by
  have ⟨_, _, _, _, hq, _, hr⟩ := h
  obtain ⟨ks, hk⟩ := failed_queue hr hq a
  rw [exec_responseLimitExpiry_job h a, if_neg (by simp [Exchange.throughPart, he])]
  simp only [jobFailure, hj]
  rw [jobEnd_quiet hk (by simp [Job.holdsPause, Job.isHost, Job.isPrep, hj]) (by simp [Job.isPowerMode, hj])
    (by simp [Job.isPoll, hj]), ← modPort_tail hk]
  rfl

/-- Settles O33: the keep-warm timer and its PING, the doze limit, and the wait of a pause. -/
theorem restStateTimers : Obligations.RestStateTimers := by
  unfold Obligations.RestStateTimers
  refine ⟨fun p s => ⟨fun t hp ht hm hq => ?warm, fun k hp => ⟨pingEnd_warm hp, pingEnd_hot hp⟩⟩,
    ⟨fun p s e j js st d a h he hj => exec_laneResponse_ping h he hj a, fun p s e j js a h he hj => ?failed,
      fun p s h => pingEnd_other h⟩, fun p s t hp ht => ?doze, fun p s ps t hp ht => ?wait⟩
  case warm =>
    obtain ⟨room, full⟩ := owePing_due (c := { s.port p with power := .keepwarm none }) hm hq
    have run : exec (.keepwarmTimerExpiry p) s =
        .next (finish (s.modPort p (fun c => ({ c with power := .keepwarm none } : Port).owePing))) := by
      show execKeepwarmTimerExpiry p s = _
      exact next_of_due (keepwarmDue_iff.2 ⟨t, hp, ht⟩)
    rw [run]
    exact ⟨fun h => congrArg (fun x => (.next (finish x) : Result)) (modPort_congr (room h)),
      fun h => congrArg (fun x => (.next (finish x) : Result)) (modPort_congr (full h))⟩
  case failed =>
    have ⟨_, _, _, _, _, _, hr⟩ := h
    exact ⟨s.jobFailed p a, exec_responseLimitExpiry_ping h he hj a, jobFailed_spec hr a⟩
  case doze =>
    let u : State := undoReservation p (enterDeep p s)
    have face := face_enterDeep p s
    have power : ((enterDeep p s).port p).power = .deep := field_of_face face Port.power
    have plans : Plans p (enterDeep p s) u := (Plans.refl p _).undoReservation (by rw [power]; rfl)
    have outer : u.outer = s.outer := (outer_undoReservation p _).trans (outer_enterDeep p s)
    refine ⟨u, ?_, plans.power.trans power, ?_, fun e he => ?_, (outer_parts outer).2.1, ?_, ?_, (outer_parts outer).1,
      (OnPort.refl p s).enterDeep.undoReservation.others⟩
    · show execDozeLimitExpiry p s = _
      unfold execDozeLimitExpiry
      rw [if_pos (dozeDue_iff.2 ⟨t, hp, ht⟩), takePause_doze hp]
    · exact (field_of_planless plans.record Port.reading).trans (field_of_face face Port.reading)
    · rw [plans.adv] at he
      exact enterDeep_adv p s e he
    · exact (field_of_planless plans.record Port.hostPause).trans (field_of_face face Port.hostPause)
    · exact (OnPort.refl p _).undoReservation.marks p (marked_enterDeep (by rw [hp]; rfl))
  case wait =>
    obtain ⟨power, note⟩ := abandoned_pausing hp
    have outer : (addAbandoned p (enterReady p true s)).outer = s.outer := (outer_addAbandoned p _).trans (outer_enterReady p true s)
    refine ⟨addAbandoned p (enterReady p true s), ?_, by rw [power]; rfl, power, note, marked_addAbandoned p _,
      (outer_parts outer).2.1, (outer_parts outer).1, ((OnPort.refl p s).enterReady true).addAbandoned.others⟩
    show execPauseWaitExpiry p s = _
    exact next_of_due (waitDue_iff.2 ⟨ps, t, hp, ht⟩)

end Ends

end Sys2Proof.Machine

namespace Sys2Proof.Machine

/-! # Proofs: PAUSE (R163–R165)

A PAUSE sets the camera aside (`forPause`): no planned cue counts on it, and an unstarted reservation is released. Its pause is
then taken by the camera's state. -/

section Aside

variable {s : State} {p : PortId} {d : Disp}

theorem released_planless (c : Port) : c.released.planless = c.planless := by
  unfold Port.released
  split <;> rfl

theorem released_resv (c : Port) : c.released.resv = if c.startedResv then c.resv else none := by
  unfold Port.released Port.unstarted Port.startedResv
  cases h : c.resv with
  | none => simp [h]
  | some r => cases hr : r.started <;> simp [h, hr]

theorem released_unstarted (c : Port) : c.released.unstarted = false := by
  have e := released_resv c
  unfold Port.unstarted
  rw [e]
  unfold Port.startedResv
  cases h : c.resv with
  | none => rfl
  | some r => cases hr : r.started <;> simp [hr]

theorem released_commitment {c : Port} (hu : c.unstarted = true) (ha : c.power.awakeState = false) : c.released.commitment = none := by
  unfold Port.released
  rw [if_pos hu, ha]
  rfl

/-- A camera that is set aside: its unstarted reservation is released and every planned cue excludes it (R163, R164). -/
def setAside (p : PortId) (d : Disp) (s : State) : State := exclude p d (releaseUnstarted p s)

theorem port_setAside (p : PortId) (d : Disp) (s : State) : (setAside p d s).port p = (s.port p).released := by
  unfold setAside
  rw [exclude_eq]
  exact port_releaseUnstarted p s

theorem excludes_setAside (p : PortId) (d : Disp) (s : State) : (setAside p d s).excludes p d := excludes_exclude p d _

theorem outer_setAside (p : PortId) (d : Disp) (s : State) : (setAside p d s).outer = s.outer := by
  unfold setAside
  rw [outer_exclude, outer_releaseUnstarted]

theorem adv_setAside (p : PortId) (d : Disp) (s : State) : (setAside p d s).adv = s.adv := by
  unfold setAside
  rw [exclude_eq]
  exact (around_parts (around_releaseUnstarted p s)).2.2.1

theorem onPort_setAside (p : PortId) (d : Disp) (s : State) : OnPort p s (setAside p d s) :=
  (OnPort.refl p s).releaseUnstarted.exclude d

end Aside

/-! ## A pause by the camera's state (Table 27) -/

section Take

variable {s : State} {p : PortId} {ps : Pause}

theorem unstarted_of_core {c d : Port} (h : d.core = c.core) : d.unstarted = c.unstarted := by
  unfold Port.unstarted
  rw [field_of_core h Port.resv]

theorem undo_entered {t : State} (h : (s.port p).unstarted = false) (hc : (t.port p).core = (s.port p).core) :
    undoReservation p t = t := undoReservation_idle (by rw [unstarted_of_core hc, h])

section Unplaced

variable (hu : (s.port p).unstarted = false)
include hu

theorem takePause_doze_deep {t : Option Nat} (h : (s.port p).power = .doze t) (o : Origin) :
    takePause p ⟨.deep, o⟩ s = enterDeep p s := by
  rw [takePause_doze h]
  exact undo_entered hu (core_enterDeep p s)

theorem takePause_keepwarm_deep {k : Option Nat} (h : (s.port p).power = .keepwarm k) (o : Origin) :
    takePause p ⟨.deep, o⟩ s = enterDeep p s := by
  unfold takePause
  rw [h]
  exact undo_entered hu (core_enterDeep p s)

theorem takePause_keepwarm_doze {k : Option Nat} (h : (s.port p).power = .keepwarm k) (o : Origin) :
    takePause p ⟨.doze, o⟩ s = enterDoze p s := by
  unfold takePause
  rw [h]
  exact undo_entered hu (core_enterDoze p s)

/-- A pause of a camera without an unstarted reservation leaves its core and the entries of the cues. -/
theorem takePause_leaves (ps : Pause) : ((takePause p ps s).port p).core = (s.port p).core ∧ (takePause p ps s).plans = s.plans := by
  unfold takePause
  cases hp : (s.port p).power with
  | ready rest hold => exact ⟨core_pauseReady p ps s, plans_pauseReady p ps s⟩
  | waking w => exact ⟨core_modPort rfl, rfl⟩
  | armed old pressed => exact ⟨core_modPort rfl, rfl⟩
  | pausing old wait => exact ⟨core_modPort rfl, rfl⟩
  | doze t =>
    dsimp only
    split
    · rw [undo_entered hu (core_enterDeep p s)]
      exact ⟨core_enterDeep p s, plans_enterDeep p s⟩
    · exact ⟨rfl, rfl⟩
  | keepwarm k =>
    cases ps.target with
    | doze =>
      dsimp only
      rw [undo_entered hu (core_enterDoze p s)]
      exact ⟨core_enterDoze p s, plans_enterDoze p s⟩
    | deep =>
      dsimp only
      rw [undo_entered hu (core_enterDeep p s)]
      exact ⟨core_enterDeep p s, plans_enterDeep p s⟩
    | keepwarm => exact ⟨rfl, rfl⟩
  | deep | vacant | fault => exact ⟨rfl, rfl⟩

end Unplaced

/-- A pause to the state that the camera is in changes nothing. -/
theorem takePause_same {t : Target} (h : (s.port p).power.paused? = some t) (o : Origin) : takePause p ⟨t, o⟩ s = s := by
  unfold takePause
  cases hp : (s.port p).power <;> rw [hp] at h <;> simp only [Power.paused?, reduceCtorEq, Option.some.injEq] at h <;> subst h
  · exact if_neg (by simp)
  · rfl

theorem commitment_setPower (h : (s.port p).commitment = none) (new : Power) : ((setPower p new s).port p).commitment = none := by
  rw [port_setPower_eq]
  simp [h]

theorem commitment_enterDoze (h : (s.port p).commitment = none) : ((enterDoze p s).port p).commitment = none := by
  unfold enterDoze enqueueJob
  rw [port_modPort_self, field_of_body (body_enqueue _ _) Port.commitment]
  exact commitment_setPower h _

theorem commitment_enterDeep (h : (s.port p).commitment = none) : ((enterDeep p s).port p).commitment = none := by
  rw [enterDeep_eq, loseSettings_field Port.commitment p p _ fun _ => rfl, port_goDark]
  exact commitment_setPower h _

theorem commitment_takePause (hu : (s.port p).unstarted = false) (h : (s.port p).commitment = none) {t : Target}
    (hp : (s.port p).power.paused? = some t) (ps : Pause) : ((takePause p ps s).port p).commitment = none := by
  unfold takePause
  cases hw : (s.port p).power <;> rw [hw] at hp <;> simp only [Power.paused?, reduceCtorEq] at hp
  case doze =>
    dsimp only
    split
    · rw [undo_entered hu (core_enterDeep p s)]
      exact commitment_enterDeep h
    · exact h
  case keepwarm =>
    cases ps.target with
    | doze =>
      dsimp only
      rw [undo_entered hu (core_enterDoze p s)]
      exact commitment_enterDoze h
    | deep =>
      dsimp only
      rw [undo_entered hu (core_enterDeep p s)]
      exact commitment_enterDeep h
    | keepwarm => exact h
  case deep => exact h

end Take

/-! ## The request -/

section Request

variable {r : Request} {s : State} {p : PortId} {t : Target}

/-- The machine of a taken PAUSE before the pause itself. -/
def forPause (p : PortId) (s : State) : State := setAside p .parked (setHostPause p true s)

theorem pauseCamera_eq (p : PortId) (t : Target) (s : State) : pauseCamera p t s = takePause p ⟨t, .host⟩ (forPause p s) := rfl

theorem port_forPause (p : PortId) (s : State) : (forPause p s).port p =
    ({ s.port p with hostPause := true, camMark := ((setHostPause p true s).port p).camMark } : Port).released := by
  unfold forPause
  rw [port_setAside, port_setHostPause_eq]

theorem forPause_field {α : Type} (f : Port → α) (p : PortId) (s : State) (hf : ∀ c : Port, f c.planless = f c := by exact fun _ => rfl)
    (hm : ∀ (c : Port) (b m : Bool), f { c with hostPause := b, camMark := m } = f c := by exact fun _ _ _ => rfl) :
    f ((forPause p s).port p) = f (s.port p) := by
  rw [port_forPause]
  exact (field_of_planless (released_planless _) f hf).trans (hm _ _ _)

theorem hostPause_forPause (p : PortId) (s : State) : ((forPause p s).port p).hostPause = true := by
  rw [port_forPause]
  exact field_of_planless (released_planless _) Port.hostPause

theorem resv_forPause (p : PortId) (s : State) : ((forPause p s).port p).resv = if (s.port p).startedResv then (s.port p).resv else none := by
  rw [port_forPause, released_resv]
  rfl

theorem unstarted_forPause (p : PortId) (s : State) : ((forPause p s).port p).unstarted = false := by
  rw [port_forPause]
  exact released_unstarted _

theorem outer_forPause (p : PortId) (s : State) : (forPause p s).outer = s.outer :=
  (outer_setAside p .parked _).trans (outer_setHostPause p true s)

theorem onPort_forPause (p : PortId) (s : State) : OnPort p s (forPause p s) :=
  ((OnPort.refl p s).setHostPause true).trans (onPort_setAside p .parked _)

theorem adv_forPause (p : PortId) (s : State) : (forPause p s).adv = s.adv :=
  (adv_setAside p .parked _).trans (around_parts (around_setHostPause p true s)).2.2.1

theorem stationOf_forPause (p : PortId) (s : State) : (forPause p s).stationOf p = s.stationOf p :=
  stationOf_congr (stations_of_outer (outer_forPause p s)) (forPause_field Port.station p s)

theorem dozeTimer_forPause (p : PortId) (s : State) : (forPause p s).dozeTimer p = s.dozeTimer p := by
  unfold State.dozeTimer
  rw [stationOf_forPause, clock_of_outer (outer_forPause p s)]

theorem exec_pause (ht : Taken .pause r s) (hp : u8 r.body 0 = p.val) (hc : Target.ofCode (u8 r.body 1) = some t) :
    exec (.pause r) s = .next (if (s.port p).power.admitsPause t then
      finish ((pauseCamera p t s).replied 0x8A#8 r.tag [0x00#8]) else s.replied 0x8A#8 r.tag [0x05#8]) := by
  refine (exec_taken (k := .pause) ht).trans ?_
  show Host.Outcome.next (servePause r.tag r.body s) = _
  unfold servePause
  rw [portOf?_val hp, hc]
  rfl

theorem admitsPause_iff (w : Power) (t : Target) : w.admitsPause t = true ↔
    w.isLost = false ∧ (w = .deep → t = .deep) ∧ (w.paused? = some .doze → t ≠ .keepwarm) := by
  cases w <;> cases t <;> simp [Power.admitsPause, Power.isLost, Power.paused?]

/-- What every taken PAUSE does, whatever the camera's state. -/
theorem pauseCamera_spec (p : PortId) (t : Target) (s : State) : ((pauseCamera p t s).port p).hostPause = true ∧
    ((pauseCamera p t s).port p).resv = (if (s.port p).startedResv then (s.port p).resv else none) ∧
    (pauseCamera p t s).excludes p .parked ∧ (pauseCamera p t s).table = s.table ∧
    (∀ q, q ≠ p → (pauseCamera p t s).port q = s.port q) ∧ (pauseCamera p t s).still = s.still := by
  obtain ⟨core, plans⟩ := takePause_leaves (unstarted_forPause p s) ⟨t, .host⟩
  have outer : (pauseCamera p t s).outer = s.outer := (outer_takePause p _ _).trans (outer_forPause p s)
  rw [pauseCamera_eq] at outer ⊢
  exact ⟨(field_of_core core Port.hostPause).trans (hostPause_forPause p s),
    (field_of_core core Port.resv).trans (resv_forPause p s), (excludes_setAside p .parked _).of_plans plans,
    (outer_parts outer).2.1, ((onPort_forPause p s).takePause _).others, (outer_parts outer).1⟩

theorem commitment_pauseCamera (hu : (s.port p).unstarted = true) (hp : (s.port p).power.paused?.isSome = true) :
    ((pauseCamera p t s).port p).commitment = none := by
  obtain ⟨x, hx⟩ := Option.isSome_iff_exists.1 hp
  have awake : (s.port p).power.awakeState = false := by
    revert hx
    cases (s.port p).power <;> simp [Power.paused?, Power.awakeState]
  refine commitment_takePause (unstarted_forPause p s) ?_ (t := x) ?_ _
  · rw [port_forPause]
    exact released_commitment hu awake
  · rw [forPause_field Port.power]
    exact hx

/-- Settles O29: a taken PAUSE sets the camera aside, and the pause is taken by its state. -/
theorem pauseRequest : Obligations.PauseRequest := by
  unfold Obligations.PauseRequest
  refine ⟨fun r s p t rest hold ht hp hc hr => ?ready, fun r s ht => ⟨fun h => ?arg, fun p t hp hc => ?_⟩⟩
  case arg =>
    refine (exec_taken (k := .pause) ht).trans ?_
    show Host.Outcome.next (servePause r.tag r.body s) = _
    unfold servePause
    rcases h with h | h
    · rw [portOf?_none h]
      rfl
    · rw [h]
      cases portOf? (u8 r.body 0) <;> rfl
  case ready =>
    have power : ((forPause p s).port p).power = .ready rest hold := (forPause_field Port.power p s).trans hr
    obtain ⟨host, -, -, table, others, still⟩ := pauseCamera_spec p t s
    have acts : pauseCamera p t s = pauseReady p ⟨t, .host⟩ (forPause p s) := takePause_ready power _
    have taken : PauseTaken p ⟨t, .host⟩ s (pauseCamera p t s) := by
      rw [acts]
      exact (pauseReady_taken p ⟨t, .host⟩ (forPause p s)).congr (clock_of_outer (outer_forPause p s)).symm
        (stationOf_forPause p s).symm (forPause_field Port.offload p s).symm (forPause_field Port.pauseHeldByJob p s).symm
        (forPause_field Port.grade p s).symm rfl rfl
    obtain ⟨waits, now⟩ := taken
    refine ⟨pauseCamera p t s, ?_, host, table, others, still, ?_, waits, now⟩
    · rw [exec_pause ht hp hc, if_pos (by rw [hr]; rfl)]
    · rw [acts]
      exact marked_pauseReady (by rw [power]; rfl) _
  have run (h : (s.port p).power.admitsPause t = true) :
      exec (.pause r) s = .next (finish ((pauseCamera p t s).replied 0x8A#8 r.tag [0x00#8])) := by
    rw [exec_pause ht hp hc, if_pos h]
  have power := forPause_field Port.power p s
  obtain ⟨host, resv, excludes, table, others, still⟩ := pauseCamera_spec p t s
  have names {w : Power} (hw : (s.port p).power = w) : ((forPause p s).port p).power = w := power.trans hw
  refine ⟨fun h => ?state, fun w hw => ⟨_, run (by rw [hw]; rfl), host, ?waking⟩,
    fun ps full hw => ⟨_, run (by rw [hw]; rfl), host, ?armed⟩, fun ps w hw => ⟨_, run (by rw [hw]; rfl), host, ?pausing⟩,
    fun hd hw => ?deep, fun hd hw => ?doze, fun hw => ?same, fun h1 h2 h3 => ⟨_, run ((admitsPause_iff _ _).2 ⟨h1, h2, h3⟩),
      host, resv, commitment_pauseCamera, excludes, table, still, others⟩⟩
  case state =>
    rw [exec_pause ht hp hc, if_neg]
    rw [admitsPause_iff]
    rintro ⟨h1, h2, h3⟩
    rcases h with h | ⟨h, n⟩ | ⟨h, n⟩
    · exact absurd (h1.symm.trans h) (by decide)
    · exact n (h2 h)
    · exact h3 h n
  case waking =>
    rw [pauseCamera_eq, takePause, names hw, port_modPort_self]
    cases w.pending <;> simp [mergePause]
  case armed =>
    rw [pauseCamera_eq, takePause, names hw, port_modPort_self]
    cases ps <;> simp [mergePause]
  case pausing =>
    rw [pauseCamera_eq, takePause, names hw, port_modPort_self]
    simp [mergePause]
  case same =>
    have stays : pauseCamera p t s = forPause p s := takePause_same (s := forPause p s) (by rw [power, hw]) _
    refine ⟨pauseCamera p t s, run ?_, host, by rw [stays, power], by rw [stays, forPause_field Port.queue],
      by rw [stays, adv_forPause]⟩
    revert hw
    cases (s.port p).power <;> cases t <;> simp [Power.paused?, Power.admitsPause]
  case deep =>
    subst hd
    have entered : pauseCamera p .deep s = enterDeep p (forPause p s) := by
      cases hq : (s.port p).power <;> rw [hq] at hw <;> simp only [Power.paused?, reduceCtorEq, or_self, Option.some.injEq] at hw
      · exact takePause_doze_deep (unstarted_forPause p s) (names hq) _
      · exact takePause_keepwarm_deep (unstarted_forPause p s) (names hq) _
    have face := face_enterDeep p (forPause p s)
    refine ⟨pauseCamera p .deep s, run ?_, host, ?_, ?_, ?_, ?_, ?_⟩
    · revert hw
      cases (s.port p).power <;> simp [Power.paused?, Power.admitsPause]
    all_goals rw [entered]
    · exact field_of_face face Port.power
    · exact field_of_face face Port.reading
    · refine marked_enterDeep ?_
      rw [power]
      revert hw
      cases (s.port p).power <;> simp [Power.paused?, Power.isDeep]
    · exact field_of_face face Port.offload
    · exact enterDeep_adv p _
  case doze =>
    subst hd
    obtain ⟨k, hk⟩ : ∃ k, (s.port p).power = .keepwarm k := by
      revert hw
      cases (s.port p).power <;> simp [Power.paused?]
    have entered : pauseCamera p .doze s = enterDoze p (forPause p s) :=
      takePause_keepwarm_doze (unstarted_forPause p s) (names hk) _
    refine ⟨pauseCamera p .doze s, run (by rw [hk]; rfl), host, ?_, ?_, ?_⟩ <;> rw [entered]
    · rw [enterDoze_power, dozeTimer_forPause]
    · unfold enterDoze
      exact ((OnPort.refl p _).enqueueJob _).marks p (marked_setPower (by rw [names hk]; simp [Power.code]))
    · exact enterDoze_job p _

end Request

end Sys2Proof.Machine

namespace Sys2Proof.Machine

/-! # Proofs: a thermal read (R24, R30, R162)

`graded` is the machine after the grade is stored; at grade 7 the camera is then set aside and paused, and after a grade of 7 or
VOID it is replanned. -/

section Graded

variable {s : State} {p : PortId} {v : Byte}

theorem thermalGrade_eq (v : Byte) : thermalGrade v = v.toNat % 8 := rfl

theorem thermalChanged_iff (v : Byte) : thermalChanged v = true ↔ v.toNat.testBit 7 = true := Iff.rfl

/-- The machine after the grade of a thermal read is stored. -/
def graded (p : PortId) (v : Byte) (s : State) : State :=
  (if (s.port p).grade != some (v.toNat % 8) || v.toNat.testBit 7 then setGradeChanged p s else s).modPort p
    ({ · with grade := some (v.toNat % 8) })

theorem thermalRead_eq (p : PortId) (v : Byte) (s : State) : thermalRead p v s =
    if v.toNat % 8 = 7 then thermalProtect p (graded p v s)
    else if (s.port p).grade = some 7 ∨ (s.port p).grade = none then replan p (graded p v s) else graded p v s := rfl

theorem graded_field {α : Type} (f : Port → α) (p : PortId) (v : Byte) (s : State)
    (hf : ∀ (c : Port) (g : Option Nat) (b m : Bool), f { c with grade := g, gradeChanged := b, camMark := m } = f c := by
      exact fun _ _ _ _ => rfl) : f ((graded p v s).port p) = f (s.port p) := by
  unfold graded
  rw [port_modPort_self]
  split
  · rw [port_setGradeChanged_eq]
    exact hf (s.port p) _ _ _
  · exact hf (s.port p) _ _ _

theorem grade_graded (p : PortId) (v : Byte) (s : State) : ((graded p v s).port p).grade = some (v.toNat % 8) := by
  unfold graded
  rw [port_modPort_self]

/-- The grade changed flag is set where the grade differs or bit 7 is set (R24). -/
theorem changed_graded (h : (s.port p).grade ≠ some (v.toNat % 8) ∨ v.toNat.testBit 7 = true) :
    ((graded p v s).port p).gradeChanged = true ∧ (graded p v s).marked p := by
  have flag : ((s.port p).grade != some (v.toNat % 8) || v.toNat.testBit 7) = true := by
    rcases h with h | h <;> simp [h]
  unfold graded
  rw [if_pos flag]
  refine ⟨?_, ((OnPort.refl p _).modPort _).marks p (marked_setGradeChanged p s)⟩
  rw [port_modPort_self, port_setGradeChanged_eq]

theorem graded_same (hg : (s.port p).grade = some (v.toNat % 8)) (hv : v.toNat.testBit 7 = false) : graded p v s = s := by
  have flag : ((s.port p).grade != some (v.toNat % 8) || v.toNat.testBit 7) = false := by simp [hg, hv]
  unfold graded
  rw [flag, if_neg Bool.false_ne_true]
  exact modPort_same (by rw [← hg])

theorem outer_graded (p : PortId) (v : Byte) (s : State) : (graded p v s).outer = s.outer := by
  unfold graded
  rw [outer_modPort]
  split
  · exact outer_setGradeChanged p s
  · rfl

theorem cues_graded (p : PortId) (v : Byte) (s : State) : (graded p v s).cues = s.cues := by
  unfold graded
  rw [cues_modPort]
  split
  · exact (table_setGradeChanged p s).2
  · rfl

theorem onPort_graded (p : PortId) (v : Byte) (s : State) : OnPort p s (graded p v s) :=
  ((OnPort.refl p s).setGradeChanged.ite (.refl p s)).modPort _

end Graded

/-! ## Grade 7 -/

section Protect

variable {s : State} {p : PortId}

theorem thermalProtect_eq (p : PortId) (s : State) : thermalProtect p s =
    match ((setAside p .thermal s).port p).power with
    | .ready _ _ | .keepwarm _ | .waking _ | .armed _ _ => takePause p ⟨.doze, .auto⟩ (setAside p .thermal s)
    | .pausing ps _ => if ps.target = .keepwarm then takePause p ⟨.doze, .auto⟩ (setAside p .thermal s) else setAside p .thermal s
    | .doze _ | .deep | .vacant | .fault _ => setAside p .thermal s := by
  unfold thermalProtect
  dsimp only
  show (match ((setAside p .thermal s).port p).power with
    | .ready _ _ => _ | .keepwarm _ => _ | .waking _ => _ | .armed _ _ => _ | .pausing _ _ => _ | .doze _ => _ | .deep => _
    | .vacant => _ | .fault _ => _) = _
  cases ((setAside p .thermal s).port p).power <;> rfl

/-- The protection leaves the core of the record and the entries of the cues as the exclusion left them. -/
theorem thermalProtect_leaves (p : PortId) (s : State) :
    ((thermalProtect p s).port p).core = ((setAside p .thermal s).port p).core ∧
      (thermalProtect p s).plans = (setAside p .thermal s).plans := by
  have unplaced : ((setAside p .thermal s).port p).unstarted = false := by
    rw [port_setAside]
    exact released_unstarted _
  have taken := takePause_leaves unplaced ⟨.doze, .auto⟩
  rw [thermalProtect_eq]
  cases ((setAside p .thermal s).port p).power with
  | ready | keepwarm | waking | armed => exact taken
  | pausing ps w =>
    dsimp only
    split
    · exact taken
    · exact ⟨rfl, rfl⟩
  | doze | deep | vacant | fault => exact ⟨rfl, rfl⟩

theorem onPort_thermalProtect (p : PortId) (s : State) : OnPort p s (thermalProtect p s) := by
  have on := onPort_setAside p .thermal s
  rw [thermalProtect_eq]
  cases ((setAside p .thermal s).port p).power with
  | ready | keepwarm | waking | armed => exact on.takePause _
  | pausing ps w => exact (on.takePause _).ite on
  | doze | deep | vacant | fault => exact on

theorem outer_graded7 (p : PortId) (v : Byte) (s : State) : (setAside p .thermal (graded p v s)).outer = s.outer :=
  (outer_setAside p .thermal _).trans (outer_graded p v s)

end Protect

/-! ## The statement -/

section Statement

variable {s : State} {p : PortId} {v : Byte}

/-- The camera that a thermal read of grade 7 has set aside. -/
def asideHot (p : PortId) (v : Byte) (s : State) : State := setAside p .thermal (graded p v s)

theorem asideHot_field {α : Type} (f : Port → α) (p : PortId) (v : Byte) (s : State)
    (hp : ∀ c : Port, f c.planless = f c := by exact fun _ => rfl)
    (hf : ∀ (c : Port) (g : Option Nat) (b m : Bool), f { c with grade := g, gradeChanged := b, camMark := m } = f c := by
      exact fun _ _ _ _ => rfl) : f ((asideHot p v s).port p) = f (s.port p) := by
  unfold asideHot
  rw [port_setAside]
  exact (field_of_planless (released_planless _) f hp).trans (graded_field f p v s hf)

theorem outer_asideHot (p : PortId) (v : Byte) (s : State) : (asideHot p v s).outer = s.outer := outer_graded7 p v s

theorem stationOf_asideHot (p : PortId) (v : Byte) (s : State) : (asideHot p v s).stationOf p = s.stationOf p :=
  stationOf_congr (stations_of_outer (outer_asideHot p v s)) (asideHot_field Port.station p v s)

theorem dozeTimer_asideHot (p : PortId) (v : Byte) (s : State) : (asideHot p v s).dozeTimer p = s.dozeTimer p := by
  unfold State.dozeTimer
  rw [stationOf_asideHot, clock_of_outer (outer_asideHot p v s)]

/-- What a thermal read of grade 7 does to the camera, by its state (R162). -/
theorem thermalRead_hot (h : v.toNat % 8 = 7) (p : PortId) (s : State) : thermalRead p v s = match (s.port p).power with
    | .ready _ _ | .keepwarm _ | .waking _ | .armed _ _ => takePause p ⟨.doze, .auto⟩ (asideHot p v s)
    | .pausing ps _ => if ps.target = .keepwarm then takePause p ⟨.doze, .auto⟩ (asideHot p v s) else asideHot p v s
    | .doze _ | .deep | .vacant | .fault _ => asideHot p v s := by
  have power : ((setAside p .thermal (graded p v s)).port p).power = (s.port p).power := asideHot_field Port.power p v s
  rw [thermalRead_eq, if_pos h, thermalProtect_eq, power]
  cases (s.port p).power <;> rfl

/-- The pause of a camera whose state keeps a pause for later (Table 27). -/
theorem mergePause_auto (o : Option Pause) : mergePause o ⟨.doze, .auto⟩ =
    ⟨.doze, if o.map (·.origin) = some .host then .host else .auto⟩ := by
  cases o with
  | none => rfl
  | some ps => simp [mergePause]

theorem exec_laneResponse_thermal {e : Exchange} {j : Job} {js : List Job} {st d : Byte} (h : JobSucceeds p e j js st d s)
    (he : e.op = .read) (hj : j.kind = .thermalRead) (a : Bool) : exec (.laneResponse p st d (responseCheck st d) a) s =
      .next (finish ((thermalRead p d (s.jobDone p a js)).modPort p Port.serveRoom)) := by
  have ⟨_, _, _, _, hq, _⟩ := h
  have hh : ((s.handed p a).port p).queue = j :: js := by rw [queue_handed, hq]
  rw [exec_laneResponse_job h a, if_neg (by simp [Exchange.throughPart, he])]
  simp only [jobSuccess, hj]
  rw [jobEnd_quiet hh (by simp [Job.holdsPause, Job.isHost, Job.isPrep, hj]) (by simp [Job.isPowerMode, hj])
    (by simp [Job.isPoll, hj]), ← modPort_tail hh, handed_tail hq]

theorem port_jobDone (s : State) (p : PortId) (a : Bool) (js : List Job) : (s.jobDone p a js).port p = { s.port p with
    attention := a, lane := none, run := if (s.port p).power.isFault = true ∧ (s.port p).run = 3 then 3 else 0, queue := js } := by
  unfold State.jobDone
  rw [port_modPort_self]

theorem outer_jobDone (s : State) (p : PortId) (a : Bool) (js : List Job) : (s.jobDone p a js).outer = s.outer := rfl

theorem onPort_jobDone (s : State) (p : PortId) (a : Bool) (js : List Job) : OnPort p s (s.jobDone p a js) :=
  (OnPort.refl p s).modPort _

/-- A thermal read of a grade below 7 on a port of such a grade stores the grade. -/
theorem thermalRead_cool {g : Nat} (hg : (s.port p).grade = some g) (h : g ≠ 7) (hv : v.toNat % 8 ≠ 7) :
    thermalRead p v s = graded p v s := by
  rw [thermalRead_eq, if_neg hv, if_neg (by simp [hg, h])]

/-- Settles O22: a thermal read stores the grade, and protects or replans the camera. -/
theorem thermalRead_settled : Obligations.ThermalRead := by
  unfold Obligations.ThermalRead
  refine ⟨fun p s v g hg h hv => ?cool, fun p s e j js st d a g hl hs he ha hv hq hst hj hf hg h hd => ?job,
    fun p s v hv => ?hot, fun p s v hv hg => ?again⟩
  case cool =>
    rw [thermalRead_cool hg h hv]
    refine ⟨grade_graded p v s, fun hc => changed_graded ?_, fun e hb => graded_same (by rw [hg, e]) hb⟩
    rw [hg]
    exact hc.imp_left fun n => by simpa using n
  case job =>
    let w : State := s.jobDone p a js
    have grade : (w.port p).grade = some g := by rw [port_jobDone]; exact hg
    have read : thermalRead p d w = graded p d w := thermalRead_cool grade h hd
    have outer : (graded p d w).outer = s.outer := (outer_graded p d w).trans (outer_jobDone s p a js)
    obtain ⟨-, table, -, -, -, -, line, -⟩ := outer_parts outer
    have on : OnPort p s ((thermalRead p d w).modPort p Port.serveRoom) := by
      rw [read]
      exact ((onPort_jobDone s p a js).trans (onPort_graded p d w)).modPort _ (by simp)
    refine ⟨(thermalRead p d w).modPort p Port.serveRoom, exec_laneResponse_thermal ⟨hl, hs, ha, hv, hq, hst⟩ he hj a,
      ?_, ?_, ?_, ?_, ?_, on.others⟩
    · rw [port_modPort_self, field_of_body (body_serveRoom _) Port.grade, read]
      exact grade_graded p d w
    · rw [port_modPort_self, field_of_body (body_serveRoom _) Port.run, read, graded_field Port.run, port_jobDone, hf]
      rfl
    · rw [port_modPort_self, field_of_body (body_serveRoom _) Port.lane, read, graded_field Port.lane, port_jobDone]
    · rw [read]
      exact table
    · rw [read]
      exact line
  case again =>
    refine ⟨graded p v s, ?_, grade_graded p v s, ?_, ?_, graded_field Port.power p v s, graded_field Port.resv p v s,
      cues_graded p v s, (outer_parts (outer_graded p v s)).2.1, (outer_parts (outer_graded p v s)).1, (onPort_graded p v s).others⟩
    · rw [thermalRead_eq, if_neg hv, if_pos hg]
    all_goals
      have differs : (s.port p).grade ≠ some (v.toNat % 8) := by
        rcases hg with hg | hg <;> rw [hg]
        · exact fun e => hv (Option.some.inj e).symm
        · simp
    · exact (changed_graded (.inl differs)).1
    · exact (changed_graded (.inl differs)).2
  case hot =>
    have protect : thermalRead p v s = thermalProtect p (graded p v s) := by rw [thermalRead_eq, if_pos hv]
    have unplaced : ((asideHot p v s).port p).unstarted = false := by
      unfold asideHot
      rw [port_setAside]
      exact released_unstarted _
    obtain ⟨core, plans⟩ := thermalProtect_leaves p (graded p v s)
    rw [← protect] at core plans
    have field {α : Type} (f : Port → α) (hc : ∀ c : Port, f c.core = f c) (hp : ∀ c : Port, f c.planless = f c) :
        f ((thermalRead p v s).port p) = f ((graded p v s).port p) := by
      refine (field_of_core core f hc).trans ?_
      rw [port_setAside]
      exact field_of_planless (released_planless _) f hp
    have outer : (thermalRead p v s).outer = s.outer := outer_thermalRead p v s
    have clock := clock_of_outer (outer_asideHot p v s)
    have names {w : Power} (hw : (s.port p).power = w) : ((asideHot p v s).port p).power = w :=
      (asideHot_field Port.power p v s).trans hw
    have on : OnPort p (graded p v s) (thermalRead p v s) := by
      rw [protect]
      exact onPort_thermalProtect p _
    refine ⟨?_, fun hc => ?_, ?_, (excludes_setAside p .thermal (graded p v s)).of_plans plans, fun rest hold hp => ?_,
      fun k hp => ?_, fun w hp => ?_, fun ps full hp => ?_, fun ps w hp => ?_, fun hp => ?_, (outer_parts outer).2.1,
      (outer_parts outer).1, ((onPort_graded p v s).trans on).others⟩
    · rw [field Port.grade (fun _ => rfl) fun _ => rfl, grade_graded, hv]
    · obtain ⟨flag, marked⟩ := changed_graded (v := v) (hc.imp_left fun n => by rw [hv]; exact n)
      exact ⟨(field Port.gradeChanged (fun _ => rfl) fun _ => rfl).trans flag, on.marks p marked⟩
    · rw [field_of_core core Port.resv, port_setAside, released_resv, graded_field Port.resv, graded_field Port.startedResv]
    · have acts : thermalRead p v s = pauseReady p ⟨.doze, .auto⟩ (asideHot p v s) := by
        rw [thermalRead_hot hv, hp]
        exact takePause_ready (names hp) _
      obtain ⟨waits, now⟩ := pauseReady_taken p ⟨.doze, .auto⟩ (asideHot p v s)
      rw [acts]
      refine ⟨fun h => ?_, fun ho hj => ?_⟩
      · rw [waits (by rwa [asideHot_field Port.offload, asideHot_field Port.pauseHeldByJob]), clock]
        unfold State.pauseWaitOf
        rw [stationOf_asideHot]
      · obtain ⟨doze, -⟩ := now (by rw [asideHot_field Port.offload, ho]) (by rw [asideHot_field Port.pauseHeldByJob, hj])
        rw [(doze rfl).1, dozeTimer_asideHot]
    · rw [thermalRead_hot hv, hp]
      exact (congrArg (fun x => (State.port x p).power) (takePause_keepwarm_doze unplaced (names hp) .auto)).trans
        ((enterDoze_power p _).trans (by rw [dozeTimer_asideHot]))
    · rw [thermalRead_hot hv, hp]
      show ((takePause p ⟨.doze, .auto⟩ (asideHot p v s)).port p).power = _
      rw [takePause, names hp, port_modPort_self, mergePause_auto]
    · rw [thermalRead_hot hv, hp]
      show ((takePause p ⟨.doze, .auto⟩ (asideHot p v s)).port p).power = _
      rw [takePause, names hp, port_modPort_self, mergePause_auto]
    · rw [thermalRead_hot hv, hp]
      dsimp only
      by_cases ht : ps.target = .keepwarm
      · rw [if_pos ht, if_pos ht, takePause, names hp, port_modPort_self, mergePause_auto]
        cases ho : ps.origin <;> simp [ho]
      · rw [if_neg ht, if_neg ht, names hp]
    · rw [thermalRead_hot hv]
      rcases hp with ⟨t, hp⟩ | hp <;> rw [hp] <;> exact names hp

end Statement

end Sys2Proof.Machine

namespace Sys2Proof.Machine

/-! # Proofs: the placement of a reservation, and WAKE (R107–R122, R166)

`placement_eq` gives the window of a paused camera, `searchUp_eq` and `searchDown_eq` the start that the planner finds; they tie
the planner to `Fits`, `EarliestFit` and `StartFor`. -/

section Place

variable {s t : State} {p : PortId} {r : Reservation}

theorem fits_iff (s : State) (r : Reservation) (k : Nat) : s.fits r k = true ↔ Fits s r.current r.length k := by
  simp only [State.fits, Fits, State.slotAt, Bool.and_eq_true, decide_eq_true_eq, List.all_eq_true, List.mem_range]
  exact and_congr_right fun _ => forall₂_congr fun _ _ => decide_eq_true_iff

theorem searchUp_eq {n i k : Nat} (hk : s.fits r k = true) (hi : i ≤ k) (hn : k < i + n)
    (first : ∀ j, i ≤ j → j < k → s.fits r j = false) : s.searchUp r n i = some k := by
  induction n generalizing i with
  | zero => omega
  | succ n ih =>
    unfold State.searchUp
    rcases Nat.eq_or_lt_of_le hi with rfl | lt
    · rw [if_pos hk]
    · rw [if_neg (by rw [first i le_rfl lt]; exact Bool.false_ne_true)]
      exact ih lt (by omega) fun j hj => first j (by omega)

theorem searchDown_eq {n k : Nat} (hk : s.fits r k = true) (h1 : 1 ≤ k) (hn : k ≤ n)
    (last : ∀ j ≤ n, k < j → s.fits r j = false) : s.searchDown r n = some k := by
  induction n with
  | zero => omega
  | succ n ih =>
    unfold State.searchDown
    rcases Nat.eq_or_lt_of_le hn with rfl | lt
    · rw [if_pos hk]
    · rw [if_neg (by rw [last (n + 1) le_rfl lt]; exact Bool.false_ne_true)]
      exact ih (Nat.lt_succ_iff.1 lt) fun j hj => last j (by omega)

theorem searchDown_none {n : Nat} (h : ∀ j ≤ n, 1 ≤ j → s.fits r j = false) : s.searchDown r n = none := by
  induction n with
  | zero => rfl
  | succ n ih =>
    unfold State.searchDown
    rw [if_neg (by rw [h (n + 1) le_rfl (by omega)]; exact Bool.false_ne_true)]
    exact ih fun j hj => h j (by omega)

theorem not_fits {k : Nat} (h : ¬ Fits s r.current r.length k) : s.fits r k = false :=
  Bool.eq_false_iff.2 (mt (fits_iff s r k).1 h)

/-- The earliest start that fits (R122). -/
theorem searchUp_earliest {k : Nat} (h : EarliestFit s r.current r.length k) : s.searchUp r Config.horizon 1 = some k := by
  obtain ⟨h1, hn, hk, first⟩ := h
  exact searchUp_eq ((fits_iff s r k).2 hk) h1 (by unfold Config.horizon; omega) fun j hj lt => not_fits (first j lt hj)

/-- The start for a cue: the latest that makes it, or else the earliest (R109). -/
theorem findStart_eq {req k : Nat} {d : Disp} (h : StartFor s r.current r.length r.latency req k d) :
    s.findStart r req = some (k, d) := by
  unfold State.findStart
  rcases h with ⟨rfl, h1, hn, hk, last⟩ | ⟨rfl, none_, hk⟩
  · rw [searchDown_eq ((fits_iff s r k).2 hk) h1 hn fun j hj lt => not_fits (last j hj lt)]
  · rw [searchDown_none fun j hj h1 => not_fits (none_ j hj h1), searchUp_earliest hk]
    rfl

/-- The latency of a wake from each paused state (Table 35). -/
theorem latency_eq (s : State) (p : PortId) : s.latency p = (match (s.port p).power.paused?, (s.port p).profile with
    | some t, some f => some (wakeLatency t f (s.shadowOf p).length)
    | _, _ => none) := by
  unfold State.latency
  cases (s.port p).power.paused? with
  | none => rfl
  | some t => cases (s.port p).profile <;> cases t <;> rfl

section Window

variable {x : Target} {f : Profile} (hp : (s.port p).power.paused? = some x) (hf : (s.port p).profile = some f)
include hp hf

/-- The window that a paused camera asks for. -/
theorem placement_eq : s.placement p = some { reservationAt x f (s.shadowOf p).length 0 none with ready := 0 } := by
  unfold State.placement
  rw [latency_eq, hp, hf]
  rfl

theorem placeFor_eq {cue req k : Nat} {d : Disp}
    (h : StartFor s (windowCurrent x f) (windowLength x f) (wakeLatency x f (s.shadowOf p).length) req k d) :
    placeFor p cue req s = setDisp cue p (some d) (some (addSlot (addSlot s.nowSlot k) (wakeLatency x f (s.shadowOf p).length)))
      (setResv p (some (reservationAt x f (s.shadowOf p).length (addSlot s.nowSlot k) (some cue))) s) := by
  have found : s.findStart { reservationAt x f (s.shadowOf p).length 0 none with ready := 0 } req = some (k, d) := findStart_eq h
  unfold placeFor
  rw [placement_eq hp hf]
  dsimp only
  rw [found]
  rfl

theorem placeAsap_eq {k : Nat} (h : EarliestFit s (windowCurrent x f) (windowLength x f) k) :
    placeAsap p s = setResv p (some (reservationAt x f (s.shadowOf p).length (addSlot s.nowSlot k) none)) s := by
  have found : s.searchUp { reservationAt x f (s.shadowOf p).length 0 none with ready := 0 } Config.horizon 1 = some k :=
    searchUp_earliest h
  unfold placeAsap
  rw [placement_eq hp hf]
  dsimp only
  rw [found]
  rfl

end Window

/-- The occupancy of a slot is a matter of the reservations. -/
theorem occupancy_congr (h : ∀ q, (t.port q).resv = (s.port q).resv) (x : Nat) : t.occupancy x = s.occupancy x := by
  unfold State.occupancy
  simp only [h]

theorem fits_congr {c n k : Nat} (h : ∀ q, (t.port q).resv = (s.port q).resv) (hc : t.clock = s.clock) (hi : t.inrush = s.inrush) :
    Fits t c n k ↔ Fits s c n k := by
  unfold Fits State.nowSlot
  simp only [occupancy_congr h, hc, hi]

theorem earliestFit_congr {c n k : Nat} (h : ∀ q, (t.port q).resv = (s.port q).resv) (hc : t.clock = s.clock) (hi : t.inrush = s.inrush) :
    EarliestFit t c n k ↔ EarliestFit s c n k := by
  unfold EarliestFit
  simp only [fits_congr h hc hi]

end Place

/-! ## The request -/

section Request

variable {r : Request} {s : State} {p : PortId}

theorem dropPending_spec (h : (s.port p).power.isArmed = true ∨ (s.port p).power.isWaking = true) :
    ((dropPending p s).port p).power.pending? = none ∧ ((dropPending p s).port p).power.code = (s.port p).power.code ∧
      ((dropPending p s).port p).hostPause = (s.port p).hostPause := by
  unfold dropPending
  cases hp : (s.port p).power with
  | armed ps pressed => simp [Power.pending?, Power.code]
  | waking w => simp [Power.pending?, Power.code]
  | _ => simp [hp, Power.isArmed, Power.isWaking] at h

theorem onPort_dropPending (p : PortId) (s : State) : OnPort p s (dropPending p s) := by
  unfold dropPending
  split
  · exact (OnPort.refl p s).modPort _
  · exact (OnPort.refl p s).modPort _
  · exact .refl p s

/-- The code and the state that WAKE leaves, as its request carries them. -/
theorem exec_wake (ht : Taken .wake r s) (hp : u8 r.body 0 = p.val) : exec (.wake r) s = .next
    (if (wakeCamera p s).1 = .ok then finish ((wakeCamera p s).2.replied 0x89#8 r.tag [0x00#8])
     else s.replied 0x89#8 r.tag [(wakeCamera p s).1.code]) := by
  refine (exec_taken (k := .wake) ht).trans ?_
  show Host.Outcome.next (serveWake r.tag r.body s) = _
  unfold serveWake
  rw [portOf?_val hp]
  rfl

theorem wakeCamera_paused (h : (s.port p).power.paused?.isSome = true) : wakeCamera p s = wakePaused p s := by
  unfold wakeCamera
  cases hp : (s.port p).power <;> simp_all [Power.paused?]

theorem power_setHostPause (p : PortId) (v : Bool) (s : State) : ((setHostPause p v s).port p).power = (s.port p).power := by
  rw [port_setHostPause_eq]

theorem hostPause_setHostPause (p : PortId) (v : Bool) (s : State) : ((setHostPause p v s).port p).hostPause = v := by
  rw [port_setHostPause_eq]

theorem stationOf_setHostPause (p : PortId) (v : Bool) (s : State) : (setHostPause p v s).stationOf p = s.stationOf p :=
  stationOf_congr (stations_of_outer (outer_setHostPause p v s)) (by rw [port_setHostPause_eq])

theorem clock_setHostPause (p : PortId) (v : Bool) (s : State) : (setHostPause p v s).clock = s.clock :=
  clock_of_outer (outer_setHostPause p v s)

/-- Settles O28: WAKE by the camera's state. -/
theorem wakeByState : Obligations.WakeByState := by
  unfold Obligations.WakeByState
  refine fun r s ht => ⟨fun h => ?far, fun p hp => ?_⟩
  case far =>
    refine (exec_taken (k := .wake) ht).trans ?_
    show Host.Outcome.next (serveWake r.tag r.body s) = _
    unfold serveWake
    rw [portOf?_none h]
    rfl
  have run {u : State} (h : wakeCamera p s = (.ok, u)) : exec (.wake r) s = .next (finish (u.replied 0x89#8 r.tag [0x00#8])) := by
    rw [exec_wake ht hp, h, if_pos rfl]
  have refused {st : Status} (h : wakeCamera p s = (st, s)) (ne : st ≠ .ok) :
      exec (.wake r) s = .next (s.replied 0x89#8 r.tag [st.code]) := by
    rw [exec_wake ht hp, h, if_neg ne]
  let v : State := setHostPause p false s
  have on : OnPort p s v := (OnPort.refl p s).setHostPause false
  have power : (v.port p).power = (s.port p).power := power_setHostPause p false s
  refine ⟨fun ps w hw => ?pausing, fun rest hold hw => ?ready, fun hw => ?pending, fun x f hx hg hf => ⟨fun hs => ?started,
    fun hs => ⟨fun k ha hk => ?placed, fun ha => ?over_⟩⟩, fun hx hg => ?refused, fun hl => ?lost⟩
  case pausing =>
    have free : (v.port p).power.pending? = none := by rw [power, hw]; rfl
    refine ⟨enterReady p true v, run (by rw [wakeCamera, hw]), ?_, ?_, marked_enterReady (by rw [power, hw]; rfl) true,
      (on.enterReady true).others⟩
    · rw [enterReady_free free, if_pos rfl, State.restFrom, stationOf_setHostPause, clock_setHostPause]
    · exact (field_of_core (core_enterReady p true v) Port.hostPause).trans (hostPause_setHostPause p false s)
  case ready =>
    have ready : (v.port p).power = .ready rest hold := power.trans hw
    have outer : (startRest p v).outer = s.outer := (outer_startRest p v).trans (outer_setHostPause p false s)
    refine ⟨startRest p v, run (by rw [wakeCamera, hw]), ?_, ?_, (outer_parts outer).1, on.startRest.others⟩
    · rw [startRest_ready ready, port_modPort_self, stationOf_setHostPause, clock_setHostPause]
      cases s.stationOf p <;> rfl
    · exact (field_of_core (core_startRest p v) Port.hostPause).trans (hostPause_setHostPause p false s)
  case pending =>
    have drops : wakeCamera p s = (.ok, dropPending p v) := by
      unfold wakeCamera
      rcases hw with hw | hw <;> revert hw <;> cases (s.port p).power <;> simp [Power.isArmed, Power.isWaking, v]
    obtain ⟨none_, code, host⟩ := dropPending_spec (s := v) (by rwa [power])
    exact ⟨dropPending p v, run drops, none_, code.trans (by rw [power]), host.trans (hostPause_setHostPause p false s),
      (on.trans (onPort_dropPending p v)).others⟩
  case lost =>
    refine refused (st := .badState) ?_ (by decide)
    unfold wakeCamera
    cases hq : (s.port p).power <;> simp_all [Power.isLost]
  case refused =>
    refine refused (st := .badState) ?_ (by decide)
    rw [wakeCamera_paused hx]
    unfold wakePaused
    dsimp only
    by_cases h7 : (s.port p).grade = some 7
    · rw [if_pos h7]
    · rw [if_neg h7, if_pos (by rw [hg.resolve_left h7]; rfl)]
  all_goals
    have paused : wakeCamera p s = if (s.port p).startedResv then (.ok, v)
        else if s.admits p (s.port p).unstartedFigure then (.ok, admitAndPlace p v) else (.overBudget, s) := by
      rw [wakeCamera_paused (by rw [hx]; rfl)]
      unfold wakePaused
      dsimp only
      rw [if_neg hg, if_neg (by rw [hf]; exact Bool.false_ne_true)]
    rw [hs] at paused
    have awake : (s.port p).awakeCurrent = f.awake := by simp [Port.awakeCurrent, hf]
  case started => exact ⟨v, run paused, port_setHostPause_eq p false s, on.others⟩
  case over_ =>
    refine refused (st := .overBudget) ?_ (by decide)
    rw [paused, if_neg Bool.false_ne_true, if_neg (by simp [State.admits, awake, ha])]
  case placed =>
    have admitted : s.admits p (s.port p).unstartedFigure = true := by simp [State.admits, awake, ha]
    let w : State := commit p (releaseUnstarted p v)
    have released : (w.port p).planless = (v.port p).planless := ((Plans.refl p v).releaseUnstarted.commit).record
    have clock : w.clock = (releaseUnstarted p s).clock :=
      clock_of_outer ((outer_commit p _).trans ((outer_releaseUnstarted p v).trans
        ((outer_setHostPause p false s).trans (outer_releaseUnstarted p s).symm)))
    have outer : w.outer = s.outer := (outer_commit p _).trans ((outer_releaseUnstarted p v).trans (outer_setHostPause p false s))
    have inrush : w.inrush = (releaseUnstarted p s).inrush := by
      have a := (outer_parts outer).1
      have b := (outer_parts (outer_releaseUnstarted p s)).1
      simp only [State.still, Prod.mk.injEq] at a b
      rw [a.2.2.2.1, b.2.2.2.1]
    have resv (q : PortId) : (w.port q).resv = ((releaseUnstarted p s).port q).resv := by
      by_cases hq : q = p
      · subst hq
        show ((commit q (releaseUnstarted q v)).port q).resv = _
        unfold commit
        rw [port_modPort_self]
        show ((releaseUnstarted q v).port q).resv = _
        rw [port_releaseUnstarted, port_releaseUnstarted, released_resv, released_resv, port_setHostPause_eq]
        rfl
      · have one : w.port q = s.port q := (((on.releaseUnstarted).trans
          ((OnPort.refl p _).modPort (fun c => { c with commitment := some c.awakeCurrent })))).others q hq
        rw [one, (OnPort.refl p s).releaseUnstarted.others q hq]
    have paused' : (w.port p).power.paused? = some x := by rw [field_of_planless released Port.power, power, hx]
    have profile : (w.port p).profile = some f := by
      rw [field_of_planless released Port.profile, port_setHostPause_eq]
      exact hf
    have shadow : w.shadowOf p = s.shadowOf p := by
      have table := (outer_parts outer).2.1
      unfold State.shadowOf State.boundEntry State.boundPos State.entryAt
      rw [table]
    have placed : placeAsap p w = _ := placeAsap_eq paused' profile ((earliestFit_congr resv clock inrush).2 hk)
    have nowSlot : w.nowSlot = s.nowSlot := by
      unfold State.nowSlot
      rw [clock_of_outer outer]
    rw [shadow, nowSlot] at placed
    have places : admitAndPlace p v = placeAsap p w := rfl
    refine ⟨placeAsap p w, run (by rw [paused, if_neg Bool.false_ne_true, if_pos admitted, places]), ?_, ?_, ?_, ?_, ?_⟩
    · rw [placed, setResv, port_modPort_self]
    · rw [placed, setResv, port_modPort_self]
      exact (field_of_planless released Port.power).trans power
    · rw [placed, setResv, port_modPort_self]
      exact (field_of_planless released Port.hostPause).trans (hostPause_setHostPause p false s)
    · rw [placed, setResv, port_modPort_self]
      show ((commit p (releaseUnstarted p v)).port p).commitment = _
      unfold commit
      rw [port_modPort_self]
      show some ((releaseUnstarted p v).port p).awakeCurrent = _
      have same : ((releaseUnstarted p v).port p).awakeCurrent = (v.port p).awakeCurrent :=
        field_of_planless ((Plans.refl p v).releaseUnstarted).record Port.awakeCurrent
      rw [same, port_setHostPause_eq]
      exact congrArg some awake
    · rw [placed]
      intro q hq
      exact ((((on.releaseUnstarted).trans ((OnPort.refl p _).modPort (fun c => { c with commitment := some c.awakeCurrent }))).modPort
        ({ · with resv := _ }))).others q hq

end Request

end Sys2Proof.Machine

namespace Sys2Proof.Machine

/-! # Proofs: the outline of the cue list

Planning, preparing and pausing write into the cues only what their members hold of a disposition, a ready slot and a preparation
status. `State.outlines` is the rest of the list. -/

section Outline

variable {s t : State} {i : Nat}

/-- A member without its disposition, its ready slot and its preparation status. -/
def Member.seat (m : Member) : Member := { m with disp := none, ready := none, prep := .notStarted }

/-- A cue without the dispositions, ready slots and preparation statuses of its members. -/
def Cue.outline (c : Cue) : Cue := { c with members := c.members.map Member.seat }

def State.outlines (s : State) : List Cue := s.cues.map Cue.outline

/-- A field of a cue that is read from its outline. -/
theorem field_of_outline {α : Type} {c d : Cue} (h : d.outline = c.outline) (f : Cue → α)
    (hf : ∀ c : Cue, f c.outline = f c := by exact fun _ => rfl) : f d = f c := (hf d).symm.trans ((congrArg f h).trans (hf c))

theorem outlines_of_cues (h : t.cues = s.cues) : t.outlines = s.outlines := by
  unfold State.outlines
  rw [h]

theorem outlines_of_around (h : t.around = s.around) : t.outlines = s.outlines := outlines_of_cues (around_parts h).2.1

theorem find_outlines (s : State) (i : Nat) : s.outlines.find? (fun c => c.id == i) = (s.cue? i).map Cue.outline := by
  unfold State.outlines State.cue?
  rw [List.find?_map]
  rfl

/-- A cue is found again in a list of the same outline. -/
theorem cue?_outline {c : Cue} (h : t.outlines = s.outlines) (hc : s.cue? i = some c) :
    ∃ d, t.cue? i = some d ∧ d.outline = c.outline := by
  have found := find_outlines t i
  rw [h, find_outlines s i, hc, Option.map_some] at found
  exact Option.map_eq_some_iff.1 found.symm

theorem ports_of_outline {c d : Cue} (h : d.outline = c.outline) : d.ports = c.ports := by
  have seats := congrArg (fun x : Cue => x.members.map (·.port)) h
  simp only [Cue.outline, List.map_map] at seats
  exact seats

theorem outlines_modCue (i : Nat) {f : Cue → Cue} (h : ∀ c, (f c).outline = c.outline) (s : State) :
    (modCue i f s).outlines = s.outlines := by
  unfold State.outlines modCue
  rw [List.map_map]
  refine List.map_congr_left fun c _ => ?_
  simp only [Function.comp]
  split
  · exact h c
  · rfl

theorem outline_modMember (p : PortId) {f : Member → Member} (h : ∀ m, (f m).seat = m.seat) (c : Cue) :
    (c.modMember p f).outline = c.outline := by
  unfold Cue.outline Cue.modMember
  rw [Cue.mk.injEq]
  refine ⟨rfl, rfl, rfl, rfl, rfl, rfl, rfl, ?_, rfl, rfl, rfl, rfl⟩
  rw [List.map_map]
  refine List.map_congr_left fun m _ => ?_
  simp only [Function.comp]
  split
  · exact h m
  · rfl

@[simp] theorem outlines_setDisp (i : Nat) (p : PortId) (d : Option Disp) (r : Option Nat) (s : State) :
    (setDisp i p d r s).outlines = s.outlines :=
  outlines_modCue i (fun c => outline_modMember p (f := ({ · with disp := d, ready := r })) (fun _ => rfl) c) s

@[simp] theorem outlines_setPrep (i : Nat) (p : PortId) (v : Prep) (s : State) : (setPrep i p v s).outlines = s.outlines :=
  outlines_modCue i (fun c => outline_modMember p (f := ({ · with prep := v })) (fun _ => rfl) c) s

theorem outlines_forEach {α : Type} (g : α → State → State) (h : ∀ x u, (g x u).outlines = u.outlines) (xs : List α) (s : State) :
    (forEach xs g s).outlines = s.outlines := forEach_field State.outlines g h xs s

@[simp] theorem outlines_modPort (p : PortId) (f : Port → Port) (s : State) : (s.modPort p f).outlines = s.outlines := rfl

@[simp] theorem outlines_setResv (p : PortId) (r : Option Reservation) (s : State) : (setResv p r s).outlines = s.outlines := rfl

@[simp] theorem outlines_withdraw (p : PortId) (s : State) : (withdraw p s).outlines = s.outlines := rfl

@[simp] theorem outlines_commit (p : PortId) (s : State) : (commit p s).outlines = s.outlines := rfl

@[simp] theorem outlines_settleCommitment (p : PortId) (s : State) : (settleCommitment p s).outlines = s.outlines :=
  outlines_of_around (around_settleCommitment p s)

@[simp] theorem outlines_releaseResv (p : PortId) (s : State) : (releaseResv p s).outlines = s.outlines :=
  outlines_of_around (around_releaseResv p s)

@[simp] theorem outlines_releaseUnstarted (p : PortId) (s : State) : (releaseUnstarted p s).outlines = s.outlines :=
  outlines_of_around (around_releaseUnstarted p s)

@[simp] theorem outlines_setPower (p : PortId) (new : Power) (s : State) : (setPower p new s).outlines = s.outlines :=
  outlines_of_around (around_setPower p new s)

@[simp] theorem outlines_setOffload (p : PortId) (v : Bool) (s : State) : (setOffload p v s).outlines = s.outlines :=
  outlines_of_around (around_setOffload p v s)

@[simp] theorem outlines_startRest (p : PortId) (s : State) : (startRest p s).outlines = s.outlines :=
  outlines_of_around (around_startRest p s)

@[simp] theorem outlines_dropHold (i : Nat) (p : PortId) (s : State) : (dropHold i p s).outlines = s.outlines :=
  outlines_of_around (around_dropHold i p s)

@[simp] theorem outlines_handOver (p : PortId) (s : State) : (handOver p s).outlines = s.outlines :=
  outlines_of_around (around_handOver p s)

@[simp] theorem outlines_enterDoze (p : PortId) (s : State) : (enterDoze p s).outlines = s.outlines :=
  outlines_of_around (around_enterDoze p s)

@[simp] theorem outlines_enterKeepwarm (p : PortId) (s : State) : (enterKeepwarm p s).outlines = s.outlines :=
  outlines_of_around (around_enterKeepwarm p s)

@[simp] theorem outlines_loseSettings (p : PortId) (s : State) : (loseSettings p s).outlines = s.outlines :=
  outlines_forEach _ (fun c u => by split <;> simp) _ s

@[simp] theorem outlines_enterDeep (p : PortId) (s : State) : (enterDeep p s).outlines = s.outlines := by
  unfold enterDeep
  rw [outlines_loseSettings]
  exact (outlines_setOffload p false _).trans (outlines_setPower p .deep s)

@[simp] theorem outlines_pauseReady (p : PortId) (ps : Pause) (s : State) : (pauseReady p ps s).outlines = s.outlines := by
  unfold pauseReady pauseAction
  split
  · simp
  · cases ps.target <;> simp

@[simp] theorem outlines_pausingEvent (p : PortId) (s : State) : (pausingEvent p s).outlines = s.outlines := by
  unfold pausingEvent pauseAction
  repeat' split
  all_goals simp

@[simp] theorem outlines_checkEntries (p : PortId) (fm : CheckForm) (l : List Pair) (s : State) :
    (checkEntries p fm l s).outlines = s.outlines := by
  unfold checkEntries
  split <;> rfl

@[simp] theorem outlines_prepareMember (c : Cue) (p : PortId) (s : State) : (prepareMember c p s).outlines = s.outlines := by
  unfold prepareMember
  dsimp only
  split <;> simp

@[simp] theorem outlines_checkOnReady (p : PortId) (s : State) : (checkOnReady p s).outlines = s.outlines :=
  outlines_forEach _ (fun c u => outlines_prepareMember c p u) _ s

@[simp] theorem outlines_enterReady (p : PortId) (rest : Bool) (s : State) : (enterReady p rest s).outlines = s.outlines := by
  unfold enterReady
  dsimp only
  rw [outlines_handOver]
  split
  · simp
  · split <;> simp

@[simp] theorem outlines_placeFor (p : PortId) (i req : Nat) (s : State) : (placeFor p i req s).outlines = s.outlines := by
  unfold placeFor
  repeat' split
  all_goals simp

@[simp] theorem outlines_rewriteEntries (p : PortId) (x old : Nat) (s : State) : (rewriteEntries p x old s).outlines = s.outlines := by
  unfold rewriteEntries
  split
  · exact outlines_forEach _ (fun c u => outlines_setDisp ..) _ s
  · rfl

@[simp] theorem outlines_planPaused (p : PortId) (i req : Nat) (s : State) : (planPaused p i req s).outlines = s.outlines := by
  unfold planPaused coverBy
  repeat' split
  all_goals simp

@[simp] theorem outlines_planOne (p : PortId) (i : Nat) (s : State) : (planOne p i s).outlines = s.outlines := by
  unfold planOne coverBy
  dsimp only
  repeat' split
  all_goals simp

@[simp] theorem outlines_replan (p : PortId) (s : State) : (replan p s).outlines = s.outlines :=
  outlines_forEach _ (fun i u => outlines_planOne p i u) _ s

@[simp] theorem outlines_planCue (i : Nat) (s : State) : (planCue i s).outlines = s.outlines := by
  unfold planCue
  split
  · exact outlines_forEach _ (fun p u => outlines_planOne p i u) _ s
  · rfl

@[simp] theorem outlines_reneed (i : Nat) (p : PortId) (s : State) : (reneed i p s).outlines = s.outlines := by
  unfold reneed
  repeat' split
  all_goals simp

@[simp] theorem outlines_lossOfNeed (i : Nat) (s : State) : (lossOfNeed i s).outlines = s.outlines :=
  outlines_forEach _ (fun p u => outlines_reneed i p u) _ s

@[simp] theorem outlines_endPreps (i : Nat) (p : PortId) (s : State) : (endPreps i p s).outlines = s.outlines := by
  unfold endPreps
  dsimp only
  split <;> simp

@[simp] theorem outlines_restAfter (i : Nat) (p : PortId) (s : State) : (restAfter i p s).outlines = s.outlines := by
  unfold restAfter
  repeat' split
  all_goals simp

end Outline

end Sys2Proof.Machine

namespace Sys2Proof.Machine

/-! # Proofs: the planning and the preparation of a cue (R93–R95, R108–R124)

The horizon entry plans a cue through its outline; a preparation is followed member by member; the planning of one camera is
read from Table 37. -/

section Horizon

variable {s t : State} {c : Cue} {i : Nat}

theorem prepSlot_of_outline {d : Cue} (h : d.outline = c.outline) (hs : t.stations = s.stations) : t.prepSlot d = s.prepSlot c := by
  unfold State.prepSlot State.cueStation State.station Cue.slot
  rw [field_of_outline h Cue.station, field_of_outline h Cue.time, hs]

theorem slotReached_of_clock (h : t.clock = s.clock) (x : Nat) : t.slotReached x = s.slotReached x := by
  unfold State.slotReached State.offset State.nowSlot
  rw [h]

/-- A cue after a change of one of its own fields. -/
theorem cue?_changed {f : Cue → Cue} (hf : ∀ x, (f x).id = x.id) (hc : s.cue? i = some c) : (modCue i f s).cue? i = some (f c) := by
  rw [cue?_modCue hf, hc, Option.map_some, if_pos (cue?_id hc).2]

/-- A preparation leaves the cue PREPARING. -/
theorem startPreparation_cue (hc : s.cue? i = some c) : ∃ d, (startPreparation i s).cue? i = some d ∧
    d.outline = ({ c with state := .preparing } : Cue).outline := by
  have entered : (setCueState i .preparing s).cue? i = some { c with state := .preparing } :=
    cue?_changed (f := ({ · with state := .preparing })) (fun _ => rfl) hc
  unfold startPreparation
  rw [hc]
  dsimp only
  split
  · refine cue?_outline (outlines_modCue i (fun x => ?_) _) entered
    simp [Cue.outline, Member.seat, Function.comp_def]
  · refine cue?_outline (outlines_forEach _ (fun p u => ?_) _ _) entered
    split
    · exact outlines_prepareMember c p u
    · rfl

/-- Planning at the horizon (R93). -/
theorem planAndEnter_cue (hc : s.cue? i = some c) : ∃ d, (planAndEnter i s).cue? i = some d ∧
    (s.slotReached (s.prepSlot c) = false → d.state = .planned ∧
      planAndEnter i s = modCue i ({ · with state := .planned }) (planCue i s)) ∧
    (s.slotReached (s.prepSlot c) = true → d.state = .preparing ∧
      planAndEnter i s = startPreparation i (modCue i ({ · with state := .planned }) (planCue i s))) ∧
    d.station = c.station ∧ d.time = c.time ∧ d.profile = c.profile := by
  obtain ⟨x, hx, ho⟩ := cue?_outline (outlines_planCue i s) hc
  let t : State := modCue i ({ · with state := .planned }) (planCue i s)
  have planned : t.cue? i = some { x with state := .planned } := cue?_changed (f := ({ · with state := .planned })) (fun _ => rfl) hx
  have outline : ({ x with state := .planned } : Cue).outline = ({ c with state := .planned } : Cue).outline :=
    congrArg (fun y : Cue => ({ y with state := .planned } : Cue)) ho
  have outer : t.outer = s.outer := outer_planCue i s
  have reached : t.slotReached (t.prepSlot { x with state := .planned }) = s.slotReached (s.prepSlot c) := by
    rw [slotReached_of_clock (clock_of_outer outer), prepSlot_of_outline (c := { c with state := .planned }) outline (stations_of_outer outer)]
    rfl
  have enters : planAndEnter i s = if s.slotReached (s.prepSlot c) then startPreparation i t else t := by
    unfold planAndEnter
    show (match t.cue? i with
      | some c => if t.slotReached (t.prepSlot c) then startPreparation i t else t
      | none => t) = _
    rw [planned]
    dsimp only
    rw [reached]
  cases hr : s.slotReached (s.prepSlot c) with
  | false =>
    rw [hr, if_neg Bool.false_ne_true] at enters
    rw [enters]
    exact ⟨_, planned, fun _ => ⟨rfl, rfl⟩, fun h => absurd h Bool.false_ne_true, field_of_outline outline Cue.station,
      field_of_outline outline Cue.time, field_of_outline outline Cue.profile⟩
  | true =>
    rw [hr, if_pos rfl] at enters
    obtain ⟨d, hd, hdo⟩ := startPreparation_cue planned
    have whole : d.outline = ({ c with state := .preparing } : Cue).outline :=
      hdo.trans (congrArg (fun y : Cue => ({ y with state := .preparing } : Cue)) ho)
    rw [enters]
    exact ⟨d, hd, fun h => absurd h Bool.true_eq_false.mp, fun _ => ⟨field_of_outline whole Cue.state, rfl⟩,
      field_of_outline whole Cue.station, field_of_outline whole Cue.time, field_of_outline whole Cue.profile⟩

end Horizon

/-! ## Preparation, member by member (R94) -/

section Prepare

variable {s t : State} {c : Cue} {p q : PortId}

/-- Whether CHECK_CLEAR removes an entry of a port's pairs (Table 44). -/
def AdvEntry.consumed (l : List Pair) (e : AdvEntry) : Bool := l.any (fun pr => pr.attr == e.attr && (!e.valid || e.value == pr.value))

theorem consumed_iff (l : List Pair) (e : AdvEntry) : e.consumed l = true ↔
    ∃ pr ∈ l, pr.attr = e.attr ∧ (e.valid = false ∨ e.value = pr.value) := by
  simp [AdvEntry.consumed]

theorem checkEntries_eq (p : PortId) (fm : CheckForm) (l : List Pair) (s : State) : checkEntries p fm l s =
    { s with adv := if fm = .clear then s.adv.filter (fun e => !(e.port == p && e.consumed l)) else s.adv } := by
  unfold checkEntries
  cases fm <;> rfl

/-- The status that the preparation of a READY member begins with. -/
def Cue.prepOf (c : Cue) (s : State) (p : PortId) : Prep := if s.missedPairs p c.form c.profile = [] then .complete else .writing

theorem prepareMember_eq (c : Cue) (p : PortId) (s : State) : prepareMember c p s = setPrep c.id p (c.prepOf s p)
    (if s.missedPairs p c.form c.profile = [] then checkEntries p c.form c.profile s
     else (checkEntries p c.form c.profile s).modPort p
      (Port.enqueue (.prepWrite c.id (c.form == .keep) (s.missedPairs p c.form c.profile)))) := by
  unfold prepareMember Cue.prepOf
  cases h : s.missedPairs p c.form c.profile <;> rfl

/-- The preparation of one member of a cue in PREPARING. -/
def Cue.prepareAt (c : Cue) (p : PortId) (s : State) : State := if (s.port p).power.isReady then prepareMember c p s else s

theorem onPort_prepareAt (c : Cue) (p : PortId) (s : State) : OnPort p s (c.prepareAt p s) :=
  ((OnPort.refl p s).prepareMember c).ite (.refl p s)

/-- What one preparation leaves in the advance table. -/
theorem adv_prepareAt (c : Cue) (p : PortId) (s : State) : (c.prepareAt p s).adv = if c.form = .clear ∧ (s.port p).power.isReady = true
    then s.adv.filter (fun e => !(e.port == p && e.consumed c.profile)) else s.adv := by
  unfold Cue.prepareAt
  cases hr : (s.port p).power.isReady with
  | false => simp
  | true =>
    have adv (v : Prep) (u : State) : (setPrep c.id p v u).adv = u.adv := rfl
    simp only [and_true, if_true]
    rw [prepareMember_eq, adv]
    split <;> rw [checkEntries_eq] <;> rfl

theorem adv_of_port_prepareAt {e : AdvEntry} (h : e.port ≠ p) (c : Cue) (s : State) : e ∈ (c.prepareAt p s).adv ↔ e ∈ s.adv := by
  rw [adv_prepareAt]
  split
  · rw [List.mem_filter]
    simp [h]
  · rfl

/-- The check of another port is not touched by a preparation. -/
theorem entryFor_prepareAt (h : q ≠ p) (c : Cue) (s : State) (a : Nat) : (c.prepareAt p s).entryFor q a = s.entryFor q a := by
  unfold State.entryFor
  rw [adv_prepareAt]
  split
  · rw [List.find?_filter]
    congr 1
    funext e
    by_cases hq : e.port = q
    · rw [Bool.eq_iff_iff]
      simp [hq, h]
    · simp [hq]
  · rfl

theorem missedPairs_prepareAt (h : q ≠ p) (c : Cue) (s : State) (fm : CheckForm) (l : List Pair) :
    (c.prepareAt p s).missedPairs q fm l = s.missedPairs q fm l := by
  unfold State.missedPairs State.isHit
  simp only [entryFor_prepareAt h]

/-- A member after the preparations of some ports. -/
def Member.preparedIn (c : Cue) (s : State) (l : List PortId) (m : Member) : Member :=
  if m.port ∈ l ∧ (s.port m.port).power.isReady = true then { m with prep := c.prepOf s m.port } else m

theorem preparedIn_other {m : Member} (h : m.port ≠ p) : Member.preparedIn c s [p] m = m := if_neg (by simp [h])

/-- A cue list after the preparations of some ports of one cue. -/
def Cue.preparedIn (c : Cue) (s : State) (l : List PortId) (x : Cue) : Cue :=
  if x.id = c.id then { x with members := x.members.map (Member.preparedIn c s l) } else x

theorem cues_prepareAt (c : Cue) (p : PortId) (s : State) : (c.prepareAt p s).cues = s.cues.map (c.preparedIn s [p]) := by
  have own (u : State) (hu : u.cues = s.cues) (hr : (s.port p).power.isReady = true) :
      (setPrep c.id p (c.prepOf s p) u).cues = s.cues.map (c.preparedIn s [p]) := by
    unfold setPrep modCue Cue.modMember
    show u.cues.map _ = _
    rw [hu]
    refine List.map_congr_left fun x _ => ?_
    unfold Cue.preparedIn
    split
    · congr 1
      refine List.map_congr_left fun m _ => ?_
      unfold Member.preparedIn
      by_cases hm : m.port = p
      · subst hm
        simp [hr]
      · simp [hm]
    · rfl
  unfold Cue.prepareAt
  cases hr : (s.port p).power.isReady with
  | true =>
    rw [if_pos rfl, prepareMember_eq]
    refine own _ ?_ hr
    split <;> rw [checkEntries_eq] <;> rfl
  | false =>
    rw [if_neg Bool.false_ne_true]
    refine ((List.map_congr_left fun x _ => ?_).trans (List.map_id _)).symm
    unfold Cue.preparedIn
    split
    · have same : x.members.map (Member.preparedIn c s [p]) = x.members := by
        refine (List.map_congr_left fun m _ => ?_).trans (List.map_id _)
        unfold Member.preparedIn
        refine if_neg fun ⟨hm, hp⟩ => ?_
        rw [List.mem_singleton.1 hm, hr] at hp
        exact Bool.false_ne_true hp
      rw [same]
      rfl
    · rfl

theorem port_prepareAt (c : Cue) (p : PortId) (s : State) : (c.prepareAt p s).port p =
    if (s.port p).power.isReady = true ∧ s.missedPairs p c.form c.profile ≠ [] then
      (s.port p).enqueue (.prepWrite c.id (c.form == .keep) (s.missedPairs p c.form c.profile))
    else s.port p := by
  unfold Cue.prepareAt
  cases hr : (s.port p).power.isReady with
  | false => simp
  | true =>
    have port (v : Prep) (u : State) : (setPrep c.id p v u).port p = u.port p := rfl
    simp only [true_and, if_true]
    rw [prepareMember_eq, port]
    by_cases h : s.missedPairs p c.form c.profile = []
    · rw [if_pos h, if_neg (not_not.2 h), checkEntries_eq]
      rfl
    · rw [if_neg h, if_pos h, port_modPort_self, checkEntries_eq]
      rfl

/-- Preparations of different ports are told from the state before them. -/
theorem prepare_ports (c : Cue) {l : List PortId} (hl : l.Nodup) (s : State) :
    (forEach l c.prepareAt s).cues = s.cues.map (c.preparedIn s l) ∧
    (∀ q, (forEach l c.prepareAt s).port q = if q ∈ l ∧ (s.port q).power.isReady = true ∧ s.missedPairs q c.form c.profile ≠ [] then
      (s.port q).enqueue (.prepWrite c.id (c.form == .keep) (s.missedPairs q c.form c.profile)) else s.port q) ∧
    (∀ e, e ∈ (forEach l c.prepareAt s).adv ↔ e ∈ s.adv ∧ ¬ (c.form = .clear ∧ e.port ∈ l ∧
      (s.port e.port).power.isReady = true ∧ e.consumed c.profile = true)) ∧
    (c.form ≠ .clear → (forEach l c.prepareAt s).adv = s.adv) := by
  induction l generalizing s with
  | nil =>
    refine ⟨((List.map_congr_left fun x _ => ?_).trans (List.map_id _)).symm, fun q => by simp [forEach], fun e => by simp [forEach],
      fun _ => rfl⟩
    unfold Cue.preparedIn Member.preparedIn
    split <;> simp
  | cons p l ih =>
    obtain ⟨hp, hl⟩ := List.nodup_cons.1 hl
    obtain ⟨cues, ports, adv, same⟩ := ih hl (c.prepareAt p s)
    have others := (onPort_prepareAt c p s).others
    have ne {q : PortId} (hq : q ∈ l) : q ≠ p := fun e => hp (e ▸ hq)
    refine ⟨?_, fun q => ?_, fun e => ?_, fun hc => ?_⟩
    · show (forEach l c.prepareAt (c.prepareAt p s)).cues = _
      rw [cues, cues_prepareAt, List.map_map]
      refine List.map_congr_left fun x _ => ?_
      simp only [Function.comp, Cue.preparedIn]
      by_cases hx : x.id = c.id
      · simp only [hx, if_true, List.map_map]
        congr 1
        refine List.map_congr_left fun m _ => ?_
        simp only [Function.comp]
        by_cases hm : m.port = p
        · unfold Member.preparedIn
          have hml : m.port ∉ l := hm ▸ hp
          by_cases hr : (s.port m.port).power.isReady = true
          · simp [hm, hp, hm ▸ hr]
          · simp [hm, hp, hm ▸ hr]
        · rw [preparedIn_other hm]
          unfold Member.preparedIn
          simp only [List.mem_cons, hm, false_or]
          by_cases hml : m.port ∈ l
          · have hne := ne hml
            have prep : c.prepOf (c.prepareAt p s) m.port = c.prepOf s m.port := by
              unfold Cue.prepOf
              rw [missedPairs_prepareAt hne]
            rw [others _ hne, prep]
          · simp [hml]
      · simp only [hx, if_false]
    · show (forEach l c.prepareAt (c.prepareAt p s)).port q = _
      rw [ports q]
      by_cases hq : q = p
      · subst hq
        rw [if_neg (fun h => hp h.1), port_prepareAt]
        simp
      · rw [others q hq, missedPairs_prepareAt hq]
        simp [hq]
    · show e ∈ (forEach l c.prepareAt (c.prepareAt p s)).adv ↔ _
      rw [adv e]
      by_cases he : e.port = p
      · rw [adv_prepareAt]
        by_cases hc : c.form = .clear ∧ (s.port p).power.isReady = true
        · rw [if_pos hc, List.mem_filter]
          simp [he, hc, hp]
        · rw [if_neg hc]
          simp only [he, hp, false_and, and_false, not_false_eq_true, and_true, List.mem_cons, true_or, true_and]
          refine ⟨fun h => ⟨h, fun g => hc ⟨g.1, g.2.1⟩⟩, fun h => h.1⟩
      · rw [adv_of_port_prepareAt he, others _ he]
        simp [he]
    · exact (same hc).trans ((adv_prepareAt c p s).trans (if_neg fun h => hc h.1))

end Prepare

/-! ## The planning of one camera (Table 37) -/

section One

variable {s t : State} {c : Cue} {p : PortId} {i : Nat}

/-- The first rows of Table 37: the cameras that no cue can count on. -/
theorem planOne_excluded (hc : s.cue? i = some c) :
    ((s.port p).power.isFault = true → planOne p i s = setDisp i p (some .fault) none s) ∧
    ((s.port p).power = .vacant → planOne p i s = setDisp i p (some .vacant) none s) ∧
    ((s.port p).power.isLost = false → (s.port p).hostPause = true → planOne p i s = setDisp i p (some .parked) none s) ∧
    ((s.port p).power.isLost = false → (s.port p).hostPause = false → (s.port p).grade = some 7 →
      planOne p i s = setDisp i p (some .thermal) none s) := by
  have kept {w : Power} (h : w.isLost = false) : w.isFault = false ∧ w.isVacant = false := by
    revert h
    cases w <;> simp [Power.isLost, Power.isFault, Power.isVacant]
  unfold planOne
  rw [hc]
  dsimp only
  refine ⟨fun h => if_pos h, fun h => ?_, fun hl hh => ?_, fun hl hh hg => ?_⟩
  · rw [h]
    rfl
  · obtain ⟨hf, hv⟩ := kept hl
    rw [if_neg (by simp [hf]), if_neg (by simp [hv]), if_pos hh]
  · obtain ⟨hf, hv⟩ := kept hl
    rw [if_neg (by simp [hf]), if_neg (by simp [hv]), if_neg (by simp [hh]), if_pos hg]

/-- The other rows of Table 37, by the camera's state. -/
theorem planOne_counted (hc : s.cue? i = some c) (hl : (s.port p).power.isFault = false ∧ (s.port p).power.isVacant = false)
    (hh : (s.port p).hostPause = false) (hg : (s.port p).grade ≠ some 7) : planOne p i s = match (s.port p).power with
      | .ready _ _ | .armed _ _ => setDisp i p (some .covered) none s
      | .pausing ps _ => if ps.origin = .auto then enterReady p false (setDisp i p (some .covered) none s) else s
      | .waking w => coverBy p i (s.requiredReady c) w.forecast.ready s
      | .deep | .doze _ | .keepwarm _ => planPaused p i (s.requiredReady c) s
      | .vacant | .fault _ => s := by
  unfold planOne
  rw [hc]
  dsimp only
  rw [if_neg (by simp [hl.1]), if_neg (by simp [hl.2]), if_neg (by simp [hh]), if_neg hg] <;>
    cases (s.port p).power <;> rfl

theorem planOne_paused (hc : s.cue? i = some c) (hh : (s.port p).hostPause = false) (hg : (s.port p).grade ≠ some 7)
    (hp : (s.port p).power.paused?.isSome = true) : planOne p i s = planPaused p i (s.requiredReady c) s := by
  have lost : (s.port p).power.isFault = false ∧ (s.port p).power.isVacant = false := by
    revert hp
    cases (s.port p).power <;> simp [Power.paused?, Power.isFault, Power.isVacant]
  rw [planOne_counted hc lost hh hg]
  revert hp
  cases (s.port p).power <;> simp [Power.paused?]

theorem startFor_congr {a n l req k : Nat} {d : Disp} (h : ∀ q, (t.port q).resv = (s.port q).resv) (hc : t.clock = s.clock)
    (hi : t.inrush = s.inrush) : StartFor t a n l req k d ↔ StartFor s a n l req k d := by
  have offset (x : Nat) : t.offset x = s.offset x := by
    unfold State.offset State.nowSlot
    rw [hc]
  unfold StartFor
  simp only [fits_congr h hc hi, earliestFit_congr h hc hi, offset]

theorem resv_commit (p q : PortId) (s : State) : ((commit p s).port q).resv = (s.port q).resv := by
  unfold commit
  rw [port_modPort]
  split <;> rfl

/-- A camera with nothing placed is admitted and placed (R110, R115). -/
theorem planPaused_fresh {x : Target} {f : Profile} {req : Nat} (hx : (s.port p).power.paused? = some x)
    (hr : (s.port p).resv = none) (hm : (s.port p).commitment = none) (hf : (s.port p).profile = some f) :
    (s.steady < s.committed + f.awake → planPaused p i req s = setDisp i p (some .shed) none s) ∧
    (∀ k d, s.committed + f.awake ≤ s.steady →
      StartFor s (windowCurrent x f) (windowLength x f) (wakeLatency x f (s.shadowOf p).length) req k d →
      planPaused p i req s = setDisp i p (some d)
        (some (addSlot (addSlot s.nowSlot k) (wakeLatency x f (s.shadowOf p).length)))
        (s.modPort p (fun q => { q with
          commitment := some f.awake
          resv := some (reservationAt x f (s.shadowOf p).length (addSlot s.nowSlot k) (some i)) }))) := by
  have awake : (s.port p).awakeCurrent = f.awake := by simp [Port.awakeCurrent, hf]
  have admits : s.admits p 0 = decide (s.committed + f.awake ≤ s.steady) := by
    unfold State.admits
    rw [awake, Nat.sub_zero]
  have plans : planPaused p i req s = if s.admits p 0 then placeFor p i req (commit p s) else setDisp i p (some .shed) none s := by
    unfold planPaused
    rw [hr]
    dsimp only
    rw [if_neg (by simp [hf]), if_neg (by simp [hm])]
  rw [plans, admits]
  refine ⟨fun h => if_neg (by simpa using h), fun k d h hk => ?_⟩
  have placed := placeFor_eq (s := commit p s) (p := p) (x := x) (f := f) (cue := i) (req := req) (k := k) (d := d)
    (by unfold commit; rw [port_modPort_self]; exact hx) (by unfold commit; rw [port_modPort_self]; exact hf)
    ((startFor_congr (resv_commit p · s) rfl rfl).2 hk)
  rw [if_pos (decide_eq_true h), placed]
  show setDisp i p (some d) _ (((s.modPort p _).modPort p _)) = _
  rw [modPort_modPort, awake.symm]
  rfl

end One

end Sys2Proof.Machine

namespace Sys2Proof.Machine

/-! # Proofs: a late reservation placed anew, and the order of planning (R111, R121, R123, R124) -/

section Anew

variable {s t : State} {p : PortId} {i : Nat}

/-- The entries of other planned cues that held an old predicted ready slot (R111). -/
def Cue.holdsReady (p : PortId) (except old : Nat) (x : Cue) : Bool :=
  x.id != except && x.state.planned? && x.members.any (fun m => m.port == p && m.ready == some old)

/-- Changes of the dispositions of different cues are told from the list before them. -/
theorem forEach_setDisp_cues {l : List Cue} (hl : (l.map (·.id)).Nodup) (p : PortId) (d : State → Cue → Disp) (r : Nat)
    (hd : ∀ (u : State) (i : Nat) (e : Option Disp) (x : Cue), d (setDisp i p e (some r) u) x = d u x) (s : State) :
    forEach l (fun x u => setDisp x.id p (some (d u x)) (some r) u) s = { s with cues := s.cues.map (fun y =>
      match l.find? (fun x => x.id == y.id) with
      | some x => y.modMember p ({ · with disp := some (d s x), ready := some r })
      | none => y) } := by
  induction l generalizing s with
  | nil => simp [forEach]
  | cons x l ih =>
    obtain ⟨hx, hl⟩ := List.nodup_cons.1 hl
    show forEach l _ (setDisp x.id p (some (d s x)) (some r) s) = _
    rw [ih hl]
    unfold setDisp modCue
    simp only [List.map_map]
    congr 1
    refine List.map_congr_left fun y _ => ?_
    simp only [Function.comp]
    by_cases hy : y.id = x.id
    · have id : (y.modMember p ({ · with disp := some (d s x), ready := some r })).id = x.id := hy
      have none_ : l.find? (fun z => z.id == x.id) = none := by
        rw [List.find?_eq_none]
        intro z hz e
        exact hx (List.mem_map.2 ⟨z, hz, by simpa using e⟩)
      rw [if_pos hy, id, none_, List.find?_cons_of_pos (by simp [hy])]
    · rw [if_neg hy, List.find?_cons_of_neg (by simpa using Ne.symm hy)]
      cases l.find? (fun z => z.id == y.id) with
      | none => rfl
      | some z =>
        show y.modMember p ({ · with disp := some (d (setDisp x.id p (some (d s x)) (some r) s) z), ready := some r }) = _
        rw [hd]

/-- The disposition that a new predicted ready slot gives a cue (R111). -/
def State.dispFor (s : State) (ready : Nat) (x : Cue) : Disp :=
  if s.offset ready ≤ s.offset (s.requiredReady x) then .covered else .latePredicted

theorem dispFor_congr (hc : t.clock = s.clock) (hs : t.stations = s.stations) (ready : Nat) (x : Cue) :
    t.dispFor ready x = s.dispFor ready x := by
  unfold State.dispFor State.offset State.nowSlot State.requiredReady State.cueStation State.station
  rw [hc, hs]

theorem rewriteEntries_eq {v : Reservation} (hr : (s.port p).resv = some v) (hn : (s.cues.map (·.id)).Nodup) (x old : Nat) :
    rewriteEntries p x old s = { s with cues := s.cues.map (fun y => if y.holdsReady p x old = true then
      y.modMember p ({ · with disp := some (s.dispFor v.ready y), ready := some v.ready }) else y) } := by
  have nodup : ((s.cues.filter (Cue.holdsReady p x old)).map (·.id)).Nodup := hn.sublist (List.filter_sublist.map _)
  have rewrites := forEach_setDisp_cues nodup p (fun u y => u.dispFor v.ready y) v.ready
    (fun u i e y => dispFor_congr rfl rfl v.ready y) s
  unfold rewriteEntries
  rw [hr]
  refine rewrites.trans ?_
  congr 1
  refine List.map_congr_left fun y hy => ?_
  cases hh : y.holdsReady p x old with
  | true =>
    have found : (s.cues.filter (Cue.holdsReady p x old)).find? (fun z => z.id == y.id) = some y := by
      rw [List.find?_eq_some_iff_append]
      obtain ⟨pre, post, e⟩ := List.append_of_mem (List.mem_filter.2 ⟨hy, hh⟩)
      refine ⟨by simp, pre, post, e, fun z hz => ?_⟩
      rw [e, List.map_append, List.map_cons] at nodup
      have ne : z.id ≠ y.id := (List.nodup_append.1 nodup).2.2 _ (List.mem_map.2 ⟨z, hz, rfl⟩) _ List.mem_cons_self
      simpa using ne
    rw [found, if_pos rfl]
  | false =>
    have none_ : (s.cues.filter (Cue.holdsReady p x old)).find? (fun z => z.id == y.id) = none := by
      rw [List.find?_eq_none]
      intro z hz e
      obtain ⟨hzs, hzh⟩ := List.mem_filter.1 hz
      have same : z = y := List.inj_on_of_nodup_map hn hzs hy (by simpa using e)
      rw [same, hh] at hzh
      exact Bool.false_ne_true hzh
    rw [none_, if_neg Bool.false_ne_true]

end Anew

/-! ## The order of planning (R121) -/

section Order

/-- The longest latency first, equal latencies in ascending port order. -/
def PlanBefore (a b : Nat × PortId) : Prop := b.1 < a.1 ∨ (a.1 = b.1 ∧ a.2 < b.2)

theorem perm_insertByLatency (x : Nat × PortId) (l : List (Nat × PortId)) : (insertByLatency x l).Perm (x :: l) := by
  induction l with
  | nil => exact .refl _
  | cons y l ih =>
    unfold insertByLatency
    split
    · exact .refl _
    · exact (ih.cons y).trans (.swap x y l)

theorem sorted_insertByLatency {x : Nat × PortId} {l : List (Nat × PortId)} (hl : l.Pairwise PlanBefore)
    (hx : ∀ y ∈ l, y.2 < x.2) : (insertByLatency x l).Pairwise PlanBefore := by
  induction l with
  | nil => exact List.pairwise_singleton _ _
  | cons y l ih =>
    obtain ⟨hy, hl⟩ := List.pairwise_cons.1 hl
    unfold insertByLatency
    split
    · rename_i lt
      refine List.pairwise_cons.2 ⟨fun z hz => .inl ?_, List.pairwise_cons.2 ⟨hy, hl⟩⟩
      rcases List.mem_cons.1 hz with rfl | hz
      · exact lt
      · have le : z.1 ≤ y.1 := by
          rcases hy z hz with h | h
          · exact le_of_lt h
          · exact h.1.ge
        exact lt_of_le_of_lt le lt
    · rename_i nlt
      refine List.pairwise_cons.2 ⟨fun z hz => ?_, ih hl fun z hz => hx z (List.mem_cons_of_mem _ hz)⟩
      rcases List.mem_cons.1 ((perm_insertByLatency x l).mem_iff.1 hz) with rfl | hz
      · rcases Nat.eq_or_lt_of_le (Nat.not_lt.1 nlt) with e | lt
        · exact .inr ⟨e.symm, hx y List.mem_cons_self⟩
        · exact .inl lt
      · exact hy z hz

theorem perm_foldl_insert (l acc : List (Nat × PortId)) : (l.foldl (fun a x => insertByLatency x a) acc).Perm (acc ++ l) := by
  induction l generalizing acc with
  | nil => simp
  | cons x l ih =>
    refine (ih _).trans (((perm_insertByLatency x acc).append_right l).trans ?_)
    exact List.perm_middle.symm

theorem sorted_foldl_insert {l acc : List (Nat × PortId)} (ha : acc.Pairwise PlanBefore) (hl : l.Pairwise (fun x y => x.2 < y.2))
    (hb : ∀ y ∈ acc, ∀ x ∈ l, y.2 < x.2) : (l.foldl (fun a x => insertByLatency x a) acc).Pairwise PlanBefore := by
  induction l generalizing acc with
  | nil => exact ha
  | cons x l ih =>
    obtain ⟨hx, hl⟩ := List.pairwise_cons.1 hl
    refine ih (sorted_insertByLatency ha fun y hy => hb y hy x List.mem_cons_self) hl fun y hy z hz => ?_
    rcases List.mem_cons.1 ((perm_insertByLatency x acc).mem_iff.1 hy) with rfl | hy
    · exact hx z hz
    · exact hb y hy z (List.mem_cons_of_mem _ hz)

variable {s : State} {c : Cue} {p : PortId}

/-- The members of a cue with their latencies. -/
def State.rated (s : State) (c : Cue) : List (Nat × PortId) := c.members.map (fun m => ((s.latency m.port).getD 0, m.port))

theorem planOrder_eq (s : State) (c : Cue) :
    s.planOrder c = ((s.rated c).foldl (fun a x => insertByLatency x a) []).map (·.2) := rfl

theorem planOrder_perm (s : State) (c : Cue) : (s.planOrder c).Perm (c.members.map (·.port)) := by
  have perm := (perm_foldl_insert (s.rated c) []).map (·.2)
  rw [planOrder_eq]
  rw [List.nil_append, State.rated, List.map_map] at perm
  exact perm

theorem planOrder_sorted (h : (c.members.map (·.port)).Pairwise (· < ·)) : (s.planOrder c).Pairwise (fun p q =>
    (s.latency q).getD 0 < (s.latency p).getD 0 ∨ ((s.latency p).getD 0 = (s.latency q).getD 0 ∧ p < q)) := by
  have rated : ∀ x ∈ (s.rated c).foldl (fun a x => insertByLatency x a) [], x.1 = (s.latency x.2).getD 0 := fun x hx => by
    have mem := (perm_foldl_insert (s.rated c) []).mem_iff.1 hx
    rw [List.nil_append] at mem
    obtain ⟨m, -, rfl⟩ := List.mem_map.1 mem
    rfl
  have ports : (s.rated c).Pairwise (fun x y => x.2 < y.2) := by
    unfold State.rated
    rw [List.pairwise_map] at h ⊢
    exact h
  have sorted := sorted_foldl_insert List.Pairwise.nil ports fun y hy => nomatch hy
  rw [planOrder_eq, List.pairwise_map]
  refine sorted.imp_of_mem fun {x y} hx hy hb => ?_
  rw [← rated x hx, ← rated y hy]
  exact hb

theorem planCue_eq (hc : s.cue? c.id = some c) : planCue c.id s = (s.planOrder c).foldl (fun u p => planOne p c.id u) s := by
  unfold planCue
  rw [hc]
  rfl

theorem replan_eq (p : PortId) (s : State) : replan p s =
    (s.cues.filter (fun c => c.state.planned? && c.members.any (fun m => m.port == p))).foldl (fun u c => planOne p c.id u) s := by
  show ((s.cues.filter _).map (·.id)).foldl (fun u i => planOne p i u) s = _
  rw [List.foldl_map]
  rfl

/-- The other planned cues of a camera, in list order (R124). -/
theorem needs_without (s : State) (p : PortId) (i : Nat) : (s.needs p).filter (· != i) =
    (s.cues.filter (fun c => c.state.planned? && c.members.any (fun m => m.port == p) && c.id != i)).map (·.id) := by
  unfold State.needs
  rw [List.filter_map, List.filter_filter]
  congr 2
  funext c
  simp only [Function.comp, Cue.includes]
  exact Bool.and_comm _ _

theorem releaseResv_eq (p : PortId) (s : State) : releaseResv p s = s.modPort p (fun q => { q with
    resv := none, commitment := if q.power.awakeState then q.commitment else none }) := by
  unfold releaseResv settleCommitment
  rw [port_modPort_self]
  cases ha : (s.port p).power.awakeState with
  | true =>
    rw [if_neg (by simp)]
    exact modPort_congr (by simp [ha])
  | false =>
    rw [if_pos (by simp), modPort_modPort]
    exact modPort_congr (by simp [ha])

theorem reneed_kept {v : Reservation} {i : Nat} (hv : (s.port p).resv = some v) (h : v.started = true ∨ v.needed ≠ some i) :
    reneed i p s = s := by
  unfold reneed
  rw [hv]
  exact if_pos (by rcases h with h | h <;> simp [h])

theorem reneed_passes {v : Reservation} {i first : Nat} {rest : List Nat} (hv : (s.port p).resv = some v) (hs : v.started = false)
    (hn : v.needed = some i) (hf : (s.needs p).filter (· != i) = first :: rest) :
    reneed i p s = replan p (s.modPort p ({ · with resv := some { v with needed := some first } })) := by
  unfold reneed
  rw [hv]
  dsimp only
  rw [if_neg (by simp [hs, hn]), hf]
  rfl

theorem reneed_releases {v : Reservation} {i : Nat} (hv : (s.port p).resv = some v) (hs : v.started = false) (hn : v.needed = some i)
    (hf : (s.needs p).filter (· != i) = []) : reneed i p s = releaseResv p s := by
  unfold reneed
  rw [hv]
  dsimp only
  rw [if_neg (by simp [hs, hn]), hf]

end Order

end Sys2Proof.Machine

namespace Sys2Proof.Machine

/-! # Proofs: the planning and preparation of cues, settled (R93–R95, R108–R124) -/

section Late

variable {s : State} {p : PortId} {c : Cue}

theorem nodup_setDisp (h : (s.cues.map (·.id)).Nodup) (i : Nat) (p : PortId) (d : Option Disp) (r : Option Nat) :
    ((setDisp i p d r s).cues.map (·.id)).Nodup := by
  have ids : (setDisp i p d r s).cues.map (·.id) = s.cues.map (·.id) := by
    unfold setDisp modCue
    rw [List.map_map]
    refine List.map_congr_left fun x _ => ?_
    simp only [Function.comp]
    split <;> rfl
  rwa [ids]

theorem settleCommitment_reserved {v : Reservation} (h : (s.port p).resv = some v) : settleCommitment p s = s :=
  if_neg (by simp [h])

/-- An unstarted reservation that is too late for a cue is placed anew for it (R111). -/
theorem planPaused_late {v : Reservation} {x : Target} {f : Profile} {k req : Nat} {d : Disp} (hn : (s.cues.map (·.id)).Nodup)
    (hx : (s.port p).power.paused? = some x) (hf : (s.port p).profile = some f) (hv : (s.port p).resv = some v)
    (hs : v.started = false) (hl : s.offset req < s.offset v.ready)
    (hk : StartFor (s.modPort p ({ · with resv := none })) (windowCurrent x f) (windowLength x f)
      (wakeLatency x f (s.shadowOf p).length) req k d) :
    ∃ v' : Reservation, v' = reservationAt x f (s.shadowOf p).length (addSlot s.nowSlot k) (some c.id) ∧
      (planPaused p c.id req s).ports = (s.modPort p ({ · with resv := some v' })).ports ∧
      (planPaused p c.id req s).cues = s.cues.map (fun y =>
        if y.id = c.id then y.modMember p ({ · with disp := some d, ready := some v'.ready })
        else if y.holdsReady p c.id v.ready = true then
          y.modMember p ({ · with disp := some (s.dispFor v'.ready y), ready := some v'.ready })
        else y) := by
  let v' := reservationAt x f (s.shadowOf p).length (addSlot s.nowSlot k) (some c.id)
  let w : State := setDisp c.id p (some d) (some v'.ready) (setResv p (some v') (withdraw p s))
  have placed : placeFor p c.id req (withdraw p s) = w := placeFor_eq (s := withdraw p s)
    (by unfold withdraw setResv; rw [port_modPort_self]; exact hx) (by unfold withdraw setResv; rw [port_modPort_self]; exact hf) hk
  have resv : (w.port p).resv = some v' := by
    show ((setResv p (some v') (withdraw p s)).port p).resv = _
    unfold setResv
    rw [port_modPort_self]
  have rewrites := rewriteEntries_eq resv (nodup_setDisp (s := setResv p (some v') (withdraw p s)) hn c.id p (some d) (some v'.ready))
    c.id v.ready
  have plans : planPaused p c.id req s = rewriteEntries p c.id v.ready w := by
    unfold planPaused
    rw [hv]
    dsimp only
    rw [if_neg (by simp [hs]), if_neg (not_le.2 hl), placed]
    refine settleCommitment_reserved (v := v') ?_
    rw [rewrites]
    exact resv
  have ports : (setResv p (some v') (withdraw p s)) = s.modPort p ({ · with resv := some v' }) := by
    unfold withdraw setResv
    rw [modPort_modPort]
  refine ⟨v', rfl, ?_, ?_⟩
  · rw [plans, rewrites]
    show (setResv p (some v') (withdraw p s)).ports = _
    rw [ports]
  · rw [plans, rewrites]
    show ((setDisp c.id p (some d) (some v'.ready) (setResv p (some v') (withdraw p s))).cues).map _ = _
    unfold setDisp modCue
    show (s.cues.map _).map _ = _
    rw [List.map_map]
    refine List.map_congr_left fun y _ => ?_
    simp only [Function.comp]
    by_cases hy : y.id = c.id
    · rw [if_pos hy, if_pos hy]
      refine if_neg ?_
      have id : (y.modMember p ({ · with disp := some d, ready := some v'.ready })).id = c.id := hy
      simp [Cue.holdsReady, id]
    · rw [if_neg hy, if_neg hy]
      have disp : w.dispFor v'.ready y = s.dispFor v'.ready y := dispFor_congr rfl rfl _ _
      rw [disp]

end Late

section Statement

variable {s : State} {c : Cue}

theorem preparedIn_id (c : Cue) (s : State) (l : List PortId) (x : Cue) : (c.preparedIn s l x).id = x.id := by
  unfold Cue.preparedIn
  split <;> rfl

/-- A cue with an empty profile is COMPLETE as it is prepared (R94). -/
theorem startPreparation_empty (hc : s.cue? c.id = some c) (he : c.profile = []) : startPreparation c.id s = { s with
    cues := s.cues.map (fun d => if d.id = c.id then { d with
      state := .preparing, members := d.members.map (fun m => { m with prep := .complete }) } else d) } := by
  unfold startPreparation
  rw [hc]
  dsimp only
  rw [if_pos (by simp [he])]
  unfold setCueState modCue
  simp only [List.map_map]
  congr 1
  refine List.map_congr_left fun d _ => ?_
  simp only [Function.comp]
  by_cases hd : d.id = c.id <;> simp [hd]

theorem startPreparation_filled (hc : s.cue? c.id = some c) (he : c.profile ≠ []) :
    startPreparation c.id s = forEach c.ports c.prepareAt (setCueState c.id .preparing s) := by
  unfold startPreparation
  rw [hc]
  dsimp only
  rw [if_neg (by simp [he])]
  rfl

/-- Settles O36: the planning of a cue, its preparation, and the planning of one camera. -/
theorem cuePlanning : Obligations.CuePlanning := by
  unfold Obligations.CuePlanning
  refine ⟨fun s c hc hs hr => ?horizon, fun s c hc hs hr hu => ⟨fun he => ?empty, fun he hn => ?filled⟩,
    ⟨fun i p d r s => rfl, fun p c s hc => ?table⟩, fun p c s v x f k d hc hn hh hg hx hf hv hst hl hk => ?late,
    ⟨fun s c hc => ⟨planCue_eq hc, planOrder_perm s c, planOrder_sorted⟩, fun p s => ⟨latency_eq s p, replan_eq p s⟩,
      fun p i s v hv => ⟨reneed_kept hv, fun hst hne => ⟨fun first rest hf => ?passes, fun h => ?releases⟩⟩⟩⟩
  case horizon =>
    obtain ⟨d, hd, planned, preparing, station, time, profile⟩ := planAndEnter_cue hc
    have outer := outer_parts (outer_planAndEnter c.id s)
    refine ⟨planAndEnter c.id s, d, ?_, hd, planned, preparing, station, time, profile, outer.1, outer.2.1⟩
    show execHorizonEntry c.id s = _
    exact next_of_due (cueIn_iff.2 ⟨c, hc, hs, hr⟩)
  case empty =>
    rw [← startPreparation_empty hc he]
    show execPreparationStart c.id s = _
    exact next_of_due (cueIn_iff.2 ⟨c, hc, hs, hr⟩)
  case filled =>
    let w : State := setCueState c.id .preparing s
    have filled : startPreparation c.id s = forEach c.ports c.prepareAt w := startPreparation_filled hc he
    obtain ⟨cues, ports, adv, same⟩ := prepare_ports c (l := c.ports) hn w
    have outer := outer_parts (outer_startPreparation c.id s)
    let d : Cue := { c with state := .preparing, members := c.members.map (Member.preparedIn c w c.ports) }
    have named : (startPreparation c.id s).cue? c.id = some d := by
      have mem : d ∈ (startPreparation c.id s).cues := by
        rw [filled, cues]
        refine List.mem_map.2 ⟨{ c with state := .preparing }, List.mem_map.2 ⟨c, (cue?_id hc).1, if_pos rfl⟩, ?_⟩
        exact if_pos rfl
      refine cue?_of_unique (c := d) mem fun x hx e => ?_
      rw [filled, cues] at hx
      obtain ⟨y, hy, rfl⟩ := List.mem_map.1 hx
      obtain ⟨z, hz, rfl⟩ := List.mem_map.1 hy
      rw [preparedIn_id] at e
      have ids : z.id = c.id := by
        by_cases hi : z.id = c.id
        · exact hi
        · rwa [if_neg hi] at e
      rw [hu z hz ids, if_pos rfl]
      exact if_pos rfl
    have listed {m : Member} (hm : m ∈ c.members) : m.port ∈ c.ports := List.mem_map.2 ⟨m, hm, rfl⟩
    refine ⟨startPreparation c.id s, d, ?_, named, rfl, outer.1, outer.2.1, fun h => by rw [filled]; exact same h, fun h e => ?_,
      fun m hm hrd => ⟨fun hp => ⟨?_, ?_⟩, fun hp => ?_⟩, fun m hm hrd => ⟨?_, ?_⟩⟩
    · show execPreparationStart c.id s = _
      exact next_of_due (cueIn_iff.2 ⟨c, hc, hs, hr⟩)
    · rw [filled, adv e]
      refine and_congr_right fun _ => not_congr ?_
      rw [consumed_iff]
      refine ⟨fun ⟨_, hp, hrd, hcons⟩ => ⟨List.mem_map.1 hp, hrd, hcons⟩, fun ⟨hp, hrd, hcons⟩ => ⟨h, List.mem_map.2 hp, hrd, hcons⟩⟩
    · refine ⟨Member.preparedIn c w c.ports m, List.mem_map.2 ⟨m, hm, rfl⟩, ?_, ?_⟩ <;>
        rw [Member.preparedIn, if_pos ⟨listed hm, hrd⟩]
      exact if_neg hp
    · rw [filled, ports, if_pos ⟨listed hm, hrd, hp⟩]
      exact enqueue_mem _ _
    · refine ⟨Member.preparedIn c w c.ports m, List.mem_map.2 ⟨m, hm, rfl⟩, ?_, ?_⟩ <;>
        rw [Member.preparedIn, if_pos ⟨listed hm, hrd⟩]
      exact if_pos hp
    · refine List.mem_map.2 ⟨m, hm, if_neg fun h => ?_⟩
      exact Bool.false_ne_true (hrd.symm.trans h.2)
    · rw [filled, ports, if_neg fun h => ?_]
      · rfl
      · exact Bool.false_ne_true (hrd.symm.trans h.2.1)
  case table =>
    obtain ⟨fault, vacant, parked, thermal⟩ := planOne_excluded (p := p) hc
    refine ⟨fault, vacant, parked, thermal, fun hh hg => ⟨fun h => ?_, fun t w h => ?_, fun x h => ?_, fun v hp hv hst hle => ?_,
      fun hp hr hf => ?_, fun x f hx hr hm hf => ?_⟩⟩
    · have lost : (s.port p).power.isFault = false ∧ (s.port p).power.isVacant = false := by
        revert h
        cases (s.port p).power <;> simp [Power.isReady, Power.isArmed, Power.isFault, Power.isVacant]
      rw [planOne_counted hc lost hh hg]
      revert h
      cases (s.port p).power <;> simp [Power.isReady, Power.isArmed]
    · rw [planOne_counted hc (by rw [h]; exact ⟨rfl, rfl⟩) hh hg, h]
      exact if_pos rfl
    · rcases h with ⟨w, hw, rfl⟩ | ⟨hp, v, hv, hst, rfl⟩
      · rw [planOne_counted hc (by rw [hw]; exact ⟨rfl, rfl⟩) hh hg, hw]
        rfl
      · rw [planOne_paused hc hh hg hp]
        unfold planPaused
        rw [hv]
        exact if_pos hst
    · rw [planOne_paused hc hh hg hp]
      unfold planPaused
      rw [hv]
      dsimp only
      rw [if_neg (by simp [hst]), if_pos hle]
    · rw [planOne_paused hc hh hg hp]
      unfold planPaused
      rw [hr]
      exact if_pos (by simp [hf])
    · rw [planOne_paused hc hh hg (by rw [hx]; rfl)]
      exact planPaused_fresh hx hr hm hf
  case late =>
    rw [planOne_paused hc hh hg (by rw [hx]; rfl)]
    obtain ⟨v', e, ports, cues⟩ := planPaused_late (c := c) hn hx hf hv hst hl hk
    refine ⟨v', e, ports, cues.trans (List.map_congr_left fun y _ => ?_)⟩
    by_cases hy : y.id = c.id
    · rw [if_pos hy, if_pos hy]
    · rw [if_neg hy, if_neg hy]
      simp only [Cue.holdsReady, State.dispFor, bne_iff_ne.2 hy, Bool.true_and]
  case passes =>
    refine reneed_passes hv hst hne (rest := rest) ?_
    rw [needs_without, hf]
  case releases =>
    rw [reneed_releases hv hst hne, releaseResv_eq]
    rw [needs_without, List.map_eq_nil_iff, List.filter_eq_nil_iff]
    intro x hx hb
    simp only [Bool.and_eq_true, List.any_eq_true, beq_iff_eq, bne_iff_ne] at hb
    obtain ⟨⟨hp, m, hm, hport⟩, ne⟩ := hb
    exact ne (h x hx hp ⟨m, hm, hport⟩)

end Statement

end Sys2Proof.Machine

namespace Sys2Proof.Machine

/-! # Proofs: the window of a reservation (R22, R23, R69)

A started reservation wakes the camera from the state it was placed in; a POWER_MODE job in flight holds a resume back until
the job ends. -/

/-! ## The jobs of a record once those of a kind have left -/

section JobsOnly

variable {c : Port} {P : Job → Prop} {n : Nat}

/-- Every job of a port, queued or waiting, is of a kind. -/
def Port.JobsOnly (P : Job → Prop) (c : Port) : Prop := ∀ j ∈ c.jobs, P j

/-- A kind to which the jobs belong that a port owes itself. -/
structure OwedJobs (P : Job → Prop) : Prop where
  poll : P (Job.mk' .poll)
  thermal : P (Job.mk' .thermalRead)
  ping : P (Job.mk' .ping)

namespace Port.JobsOnly

theorem of_eq {d : Port} (h : c.JobsOnly P) (hq : d.queue = c.queue) (hw : d.waitLine = c.waitLine) : d.JobsOnly P := by
  unfold Port.JobsOnly Port.jobs at h ⊢
  rwa [hq, hw]

theorem push (h : c.JobsOnly P) {k : JobKind} (hk : P (Job.mk' k)) : (pushJob k c).JobsOnly P := by
  intro j hj
  simp only [Port.jobs, pushJob, List.mem_append, List.mem_singleton] at hj
  rcases hj with (hj | rfl) | hj
  · exact h j (List.mem_append_left _ hj)
  · exact hk
  · exact h j (List.mem_append_right _ hj)

section Served

variable (owed : OwedJobs P)
include owed

theorem servePoll (h : c.JobsOnly P) : (c.servePoll n).JobsOnly P := by
  have cleared : ({ c with markPoll := false } : Port).JobsOnly P := h.of_eq rfl rfl
  unfold Port.servePoll
  dsimp only
  repeat' split
  · exact cleared.push owed.poll
  · exact cleared
  · exact h

theorem serveThermal (h : c.JobsOnly P) : (c.serveThermal n).JobsOnly P := by
  have cleared : ({ c with markThermal := false } : Port).JobsOnly P := h.of_eq rfl rfl
  unfold Port.serveThermal
  dsimp only
  repeat' split
  · exact cleared
  · exact cleared.push owed.thermal
  · exact h

theorem servePing (h : c.JobsOnly P) : (c.servePing n).JobsOnly P := by
  have cleared : ({ c with markPing := false } : Port).JobsOnly P := h.of_eq rfl rfl
  unfold Port.servePing
  dsimp only
  repeat' split
  · exact cleared.push owed.ping
  · exact cleared
  · exact h

omit owed in
theorem serveLine (h : c.JobsOnly P) : (c.serveLine n).JobsOnly P := by
  have jobs : (c.serveLine n).jobs = c.jobs := by simp [Port.jobs, Port.serveLine, List.append_assoc]
  unfold Port.JobsOnly
  rwa [jobs]

theorem serveUpTo (h : c.JobsOnly P) : (c.serveUpTo n).JobsOnly P :=
  ((servePing owed (servePoll owed h |> serveThermal owed))).serveLine

theorem removeJobs (h : c.JobsOnly P) (f : Job → Bool) : (c.removeJobs f).JobsOnly P :=
  serveUpTo (c := c.without f) owed (fun j hj => h j (mem_without.1 hj).1)

omit owed in
theorem railChange (h : c.JobsOnly P) (now : Nat) (old : Power) : (c.railChange now old).JobsOnly P := by
  unfold Port.railChange
  repeat' split
  · exact h
  · exact h.of_eq rfl rfl
  · exact h.of_eq rfl rfl

omit owed in
theorem dropResumeWait (h : c.JobsOnly P) : c.dropResumeWait.JobsOnly P := by
  unfold Port.dropResumeWait
  split
  · exact h
  · exact h
  · exact h.of_eq rfl rfl

theorem enter (h : c.JobsOnly P) (now : Nat) (new : Power) : (Port.enter now new c).JobsOnly P := by
  have powered : ({ c with power := new } : Port).JobsOnly P := h.of_eq rfl rfl
  have changed := (powered.railChange now c.power).dropResumeWait
  unfold Port.enter
  dsimp only
  generalize (({ c with power := new } : Port).railChange now c.power).dropResumeWait = d at changed ⊢
  split
  · exact removeJobs owed (c := { d with markPing := false }) (changed.of_eq rfl rfl) _
  · exact changed

theorem setPower {s : State} {p : PortId} (h : (s.port p).JobsOnly P) (new : Power) :
    ((setPower p new s).port p).JobsOnly P := by
  rw [port_setPower_eq]
  exact (enter owed h s.clock new).of_eq rfl rfl

end Served

end Port.JobsOnly

/-- A POWER_MODE job is left only in flight. -/
def Job.noIdleMode (j : Job) : Prop := j.isPowerMode = true → j.started = true

theorem owed_noIdleMode : OwedJobs Job.noIdleMode := ⟨nofun, nofun, nofun⟩

/-- Once the jobs of a kind are removed, those left of it are in flight. -/
theorem noIdleMode_removeJobs (c : Port) : (c.removeJobs Job.isPowerMode).JobsOnly Job.noIdleMode :=
  Port.JobsOnly.serveUpTo (c := c.without Job.isPowerMode) owed_noIdleMode fun _ hj hm => ((mem_without.1 hj).2 hm).2

end JobsOnly

/-! ## The start of a wake -/

section Start

variable {s u v : State} {p : PortId} {r : Reservation} {f : Profile} {g : Forecast} {t : Target}

/-- A resume waits in DOZE and KEEPWARM alone. -/
theorem resumeWait_setPower {new : Power} (h : new.awakeState = true) (s : State) :
    ((setPower p new s).port p).resumeWait = none := by
  rw [port_setPower_eq]
  unfold Port.enter Port.railChange
  cases new <;> simp only [Power.awakeState, Bool.false_eq_true] at h
  all_goals
    dsimp only
    repeat' split
    all_goals first
      | rfl
      | exact (field_of_body (body_removeJobs _ _) Port.resumeWait).trans rfl

theorem overFrom_wake (h : (s.port p).power = .deep) (w : Wake) :
    ((setPower p (.waking w) s).port p).overFrom = some s.clock := by
  rw [port_setPower_eq]
  simp [Port.enter, Port.railChange, h, Power.railOn, Power.isKeepwarm, Port.dropResumeWait]

theorem code_paused {c w : Power} (h : c.paused? = some t) (hw : ∃ x, w = .waking x) : c.code ≠ w.code := by
  obtain ⟨x, rfl⟩ := hw
  cases c <;> simp [Power.paused?, Power.code] at h ⊢

theorem startDeepWake_eq (hf : (s.port p).profile = some f) : startDeepWake p r s =
    setPower p (.waking ⟨.ramp (addSlot r.start f.inrushSlots), none, ⟨r.ready, r.needed⟩, none⟩)
      (s.modPort p (Port.removeJobs Job.isPowerMode)) := by
  unfold startDeepWake
  rw [hf]

/-- The wake of a resume from a state at clock value `now`: its first read falls due one latency on (R23). -/
def resumeWake (now : Nat) (t : Target) (f : Profile) (g : Forecast) : Wake :=
  ⟨.resume (some (addMs now (10 * (if t = .keepwarm then max 1 (ceilDiv f.resumeLatency 3) else f.resumeLatency)))) 0,
    none, g, none⟩

theorem startResume_eq (hp : (s.port p).power.paused? = some t) (ht : t ≠ .deep) (hf : (s.port p).profile = some f) :
    startResume p g s = setPower p (.waking (resumeWake s.clock t f g))
      (s.modPort p (fun c => { c.removeJobs Job.isPowerMode with wakePulses := c.wakePulses + 1 })) := by
  have latency : resumeSlots t (s.port p) = if t = .keepwarm then max 1 (ceilDiv f.resumeLatency 3) else f.resumeLatency := by
    unfold resumeSlots
    rw [hf]
  unfold startResume resumeWake
  rw [hp, ← latency]
  cases t with
  | deep => exact absurd rfl ht
  | doze => rfl
  | keepwarm => rfl

/-- A resume from DOZE or KEEPWARM: one wake-line pulse, and no POWER_MODE job is left but in flight. -/
theorem startResume_spec (hp : (s.port p).power.paused? = some t) (ht : t ≠ .deep) (hf : (s.port p).profile = some f) :
    ((startResume p g s).port p).power = .waking (resumeWake s.clock t f g) ∧
    ((startResume p g s).port p).core = { (s.port p).core with wakePulses := (s.port p).wakePulses + 1 } ∧
    ((startResume p g s).port p).resumeWait = none ∧ (startResume p g s).marked p ∧
    ((startResume p g s).port p).JobsOnly Job.noIdleMode ∧ OnPort p s (startResume p g s) := by
  rw [startResume_eq hp ht hf]
  have body := body_removeJobs (s.port p) Job.isPowerMode
  refine ⟨power_setPower p _ _, (core_setPower p _ _).trans ?_, resumeWait_setPower rfl _, marked_setPower (code_paused (t := t) ?_ ⟨_, rfl⟩),
    Port.JobsOnly.setPower owed_noIdleMode ?_ _, OnPort.setPower (OnPort.modPort (OnPort.refl p s) _ fun c hc => ?_) _⟩
  · rw [port_modPort_self]
    have pulses : (Port.removeJobs Job.isPowerMode (s.port p)).wakePulses = (s.port p).wakePulses :=
      field_of_body body Port.wakePulses
    have record := core_of_body body
    generalize Port.removeJobs Job.isPowerMode (s.port p) = d at pulses record
    rw [← record, ← pulses]
    rfl
  · rw [port_modPort_self]
    exact (congrArg Power.paused? (field_of_body body Port.power)).trans hp
  · rw [port_modPort_self]
    exact (noIdleMode_removeJobs (s.port p)).of_eq rfl rfl
  · exact (camMark_removeJobs c _).trans hc

/-- A resume that has waited starts as the statement says, whatever operation has come before it. -/
theorem resumeStarted_startResume (hw : (∃ k, (v.port p).power = .doze k) ∨ (v.port p).power.isKeepwarm = true)
    (hf : (v.port p).profile = some f) : ResumeStarted p g f v (startResume p g v) ∧
      ((startResume p g v).port p).run = (v.port p).run := by
  obtain ⟨t, hp, ht, hk⟩ : ∃ t, (v.port p).power.paused? = some t ∧ t ≠ .deep ∧
      ((v.port p).power.isKeepwarm = true ↔ t = .keepwarm) := by
    cases hv : (v.port p).power <;> simp [hv, Power.isKeepwarm, Power.paused?] at hw ⊢
  obtain ⟨power, core, wait, marked, jobs, on⟩ := startResume_spec (g := g) hp ht hf
  have still : (startResume p g v).still = v.still := (outer_parts (outer_startResume p g v)).1
  have run : ((startResume p g v).port p).run = (v.port p).run := (congrArg Port.run core :)
  refine ⟨⟨?_, ?_, wait, ?_, marked, jobs, still, on.others⟩, run⟩
  · rw [power, resumeWake]
    simp only [hk]
  · exact (congrArg Port.wakePulses core :)
  · exact (congrArg Port.resv core :)

theorem ResumeStarted.of_eq (h : ResumeStarted p g f v u) (hp : (v.port p).power = (s.port p).power)
    (hw : (v.port p).wakePulses = (s.port p).wakePulses) (hr : (v.port p).resv = (s.port p).resv) (hs : v.still = s.still)
    (ho : ∀ q, q ≠ p → v.port q = s.port q) : ResumeStarted p g f s u := by
  obtain ⟨power, pulses, wait, resv, marked, jobs, still, others⟩ := h
  have clock : v.clock = s.clock := (congrArg Prod.fst hs :)
  rw [hp, clock] at power
  exact ⟨power, hw ▸ pulses, wait, resv.trans hr, marked, jobs, still.trans hs, fun q hq => (others q hq).trans (ho q hq)⟩

theorem exec_reservationStart (hr : (s.port p).resv = some r) (hs : r.started = false) (hd : s.slotReached r.start = true) :
    exec (.reservationStart p) s = .next (finish (startReservation p r s)) := by
  show execReservationStart p s = _
  unfold execReservationStart
  rw [hr]
  exact next_of_due (startDue_iff.2 ⟨r, hr, hs, hd⟩)

end Start

/-! ## The end of a POWER_MODE job with a resume waiting (R23) -/

section Held

variable {s : State} {p : PortId} {e : Exchange} {j : Job} {js : List Job} {t : Target} {g : Forecast} {f : Profile}

/-- The end of a POWER_MODE job in flight, where `f` is what the job leaves. -/
theorem jobEnd_powerMode (hq : (s.port p).queue = j :: js) (hj : j.kind = .powerMode t) (hs : j.started = true)
    (f : State → State) : jobEnd p j f s =
      startWaitingResume p ((f (s.modPort p (fun c => { c with queue := c.queue.tail }))).modPort p Port.serveRoom) := by
  simp [jobEnd, Job.holdsPause, Job.isHost, Job.isPrep, Job.isPowerMode, Job.isPoll, hj, hs]

theorem startWaitingResume_some (h : (s.port p).resumeWait = some g) : startWaitingResume p s = startResume p g s := by
  unfold startWaitingResume
  rw [h]

theorem startWaitingResume_none (h : (s.port p).resumeWait = none) : startWaitingResume p s = s := by
  unfold startWaitingResume
  rw [h]

/-- What a resume needs of a record. -/
def Port.resuming (c : Port) : Option Forecast × Power × Option Profile × Nat × Option Reservation × Nat :=
  (c.resumeWait, c.power, c.profile, c.wakePulses, c.resv, c.run)

/-- The waiting resume starts at the end of the job, where the job leaves what the resume needs. -/
theorem resume_at_jobEnd {v : State} (hw : (s.port p).resumeWait = some g)
    (hp : (∃ k, (s.port p).power = .doze k) ∨ (s.port p).power.isKeepwarm = true) (hf : (s.port p).profile = some f)
    {n : Nat} (record : (v.port p).resuming = { (s.port p) with run := n }.resuming) (still : v.still = s.still)
    (others : ∀ q, q ≠ p → v.port q = s.port q) :
    ResumeStarted p g f s (startWaitingResume p (v.modPort p Port.serveRoom)) ∧
      ((startWaitingResume p (v.modPort p Port.serveRoom)).port p).run = n := by
  have room : ((v.modPort p Port.serveRoom).port p).resuming = (v.port p).resuming := by
    rw [port_modPort_self]
    exact field_of_body (body_serveRoom _) Port.resuming
  rw [record] at room
  simp only [Port.resuming, Prod.mk.injEq] at room
  obtain ⟨wait, power, profile, pulses, resv, run⟩ := room
  rw [startWaitingResume_some (wait.trans hw)]
  obtain ⟨started, kept⟩ := resumeStarted_startResume (g := g) (f := f) (v := v.modPort p Port.serveRoom) (p := p)
    (by rwa [power]) (profile.trans hf)
  exact ⟨started.of_eq power pulses resv still fun q hq => (port_modPort_ne hq.symm _ _).trans (others q hq), kept.trans run⟩

theorem mode_not_through (he : e.attr = 15) : ¬ e.throughPart = true := by simp [Exchange.throughPart, he, isCapture]

theorem exec_laneResponse_mode {st d : Byte} (h : JobSucceeds p e j js st d s) (he : e.attr = 15)
    (hj : j.kind = .powerMode t) (a : Bool) : exec (.laneResponse p st d (responseCheck st d) a) s =
      .next (finish (startWaitingResume p ((s.jobDone p a js).modPort p Port.serveRoom))) := by
  have ⟨_, _, _, _, hq, hs⟩ := h
  have hh : ((s.handed p a).port p).queue = j :: js := by rw [queue_handed, hq]
  rw [exec_laneResponse_job h a, if_neg (mode_not_through he)]
  simp only [jobSuccess, hj]
  rw [jobEnd_powerMode hh hj hs, handed_tail hq]
  rfl

theorem exec_responseLimitExpiry_mode (h : JobFails p e j js s) (he : e.attr = 15) (hj : j.kind = .powerMode t) (a : Bool) :
    exec (.responseLimitExpiry p a) s =
      .next (finish (startWaitingResume p ((powerModeFailed p t (s.jobFailed p a)).modPort p Port.serveRoom))) := by
  have ⟨_, _, _, _, hq, hs, hr⟩ := h
  obtain ⟨ks, hk⟩ := failed_queue hr hq a
  rw [exec_responseLimitExpiry_job h a, if_neg (mode_not_through he)]
  simp only [jobFailure, hj]
  rw [jobEnd_powerMode hk hj hs]
  rfl

/-- What a failed exchange below the run of 3 leaves for a resume. -/
theorem resuming_jobFailed (h : (s.port p).run < 2) (a : Bool) :
    ((s.jobFailed p a).port p).resuming = { (s.port p) with run := (s.port p).run + 1 }.resuming := by
  unfold State.jobFailed
  rw [port_modPort_self]
  refine (failed_record Port.resuming h a).trans ?_
  simp only [Port.failedOnce, Port.resuming]
  rw [Nat.min_eq_right (by omega)]

/-- No resume waits at a camera that has entered READY. -/
theorem resumeWait_enterReady (h : (s.port p).power.pending? = none) (rest : Bool) :
    ((enterReady p rest s).port p).resumeWait = none := by
  have entered : ((setPower p (.ready none none) s).port p).resumeWait = none := resumeWait_setPower rfl s
  have rested : ((if rest then startRest p (setPower p (.ready none none) s) else setPower p (.ready none none) s).port p).resumeWait =
      none := by
    split
    · rw [startRest_ready (power_setPower p _ s), port_modPort_self]
      exact entered
    · exact entered
  simp only [enterReady, h]
  generalize (if rest then startRest p (setPower p (.ready none none) s) else setPower p (.ready none none) s) = v at rested
  have checked : ((checkOnReady p v).port p).resumeWait = none := by
    refine (forEach_field (fun u : State => (u.port p).resumeWait) _ (fun c u => ?_) _ v).trans rested
    have entries : (checkEntries p c.form c.profile u).port p = u.port p := by
      unfold checkEntries
      split <;> rfl
    unfold prepareMember
    dsimp only
    split
    · exact congrArg Port.resumeWait entries
    · show ((State.modPort _ p _).port p).resumeWait = _
      rw [port_modPort_self, field_of_body (body_enqueue _ _) Port.resumeWait, entries]
  rcases handOver_cases p (checkOnReady p v) with hv | ⟨k, hv⟩
  · rw [hv, checked]
  · rw [hv, port_modPort_self]
    exact (field_of_body (body_enqueue _ _) Port.resumeWait).trans checked

/-- A POWER_MODE job that fails while the camera is in the job's state, its reservation started: back to READY (R22). -/
theorem powerModeFailed_abandons (hp : (s.port p).power.paused? = some t) (ht : t ≠ .deep)
    (hr : (s.port p).startedResv = true) : powerModeFailed p t s = addAbandoned p (enterReady p true s) := by
  have some_ : (s.port p).resv.isSome = true := by
    revert hr
    unfold Port.startedResv
    cases (s.port p).resv <;> simp
  have resv : ((addAbandoned p (enterReady p true s)).port p).resv = (s.port p).resv := by
    rw [port_addAbandoned_eq]
    exact field_of_core (core_enterReady p true s) Port.resv
  have idle : ((addAbandoned p (enterReady p true s)).port p).unstarted = false := by
    revert hr
    unfold Port.startedResv Port.unstarted
    rw [resv]
    cases (s.port p).resv with
    | none => simp
    | some r => cases r.started <;> simp
  unfold powerModeFailed
  rw [if_pos (by simp [hp, ht]), if_pos some_]
  exact undoReservation_idle idle

/-- The machine when a POWER_MODE job has been abandoned and its room in the queue is served. -/
def modeAbandoned (p : PortId) (s : State) : State := (addAbandoned p (enterReady p true s)).modPort p Port.serveRoom

/-- A field that neither a note nor the queue is part of reads as READY was entered. -/
theorem field_modeAbandoned {α : Type} (p : PortId) (s : State) (f : Port → α) (hf : ∀ c : Port, f c.body = f c)
    (ha : ∀ (c : Port) (b m : Bool), f { c with noteAbandoned := b, camMark := m } = f c) :
    f ((modeAbandoned p s).port p) = f ((enterReady p true s).port p) := by
  unfold modeAbandoned
  rw [port_modPort_self]
  refine (field_of_body (body_serveRoom _) f hf).trans ?_
  rw [port_addAbandoned_eq]
  exact ha _ _ _

theorem note_modeAbandoned (p : PortId) (s : State) : ((modeAbandoned p s).port p).noteAbandoned = true := by
  unfold modeAbandoned
  rw [port_modPort_self]
  refine (field_of_body (body_serveRoom _) Port.noteAbandoned).trans ?_
  rw [port_addAbandoned_eq]

theorem onPort_modeAbandoned (p : PortId) (s : State) : OnPort p s (modeAbandoned p s) :=
  ((OnPort.refl p s).enterReady true).addAbandoned.modPort Port.serveRoom (by simp)

theorem marked_modeAbandoned (p : PortId) (s : State) : (modeAbandoned p s).marked p :=
  ((OnPort.refl p _).modPort Port.serveRoom (by simp)).marks p (marked_addAbandoned p _)

theorem outer_modeAbandoned (p : PortId) (s : State) : (modeAbandoned p s).outer = s.outer :=
  (outer_addAbandoned p _).trans (outer_enterReady p true s)

/-- What an abandoned POWER_MODE job leaves of the camera's record. -/
theorem modeAbandoned_spec (h : (s.port p).power.pending? = none) :
    ((modeAbandoned p s).port p).power = .ready (s.restFrom p) none ∧ ((modeAbandoned p s).port p).resumeWait = none ∧
    ((modeAbandoned p s).port p).resv = (s.port p).resv ∧ ((modeAbandoned p s).port p).wakePulses = (s.port p).wakePulses ∧
    ((modeAbandoned p s).port p).run = (s.port p).run := by
  have core := core_enterReady p true s
  refine ⟨?_, ?_, ?_, ?_, ?_⟩
  · exact (field_modeAbandoned p s Port.power (fun _ => rfl) (fun _ _ _ => rfl)).trans ((enterReady_free h true).trans (by simp))
  · exact (field_modeAbandoned p s Port.resumeWait (fun _ => rfl) (fun _ _ _ => rfl)).trans (resumeWait_enterReady h true)
  · exact (field_modeAbandoned p s Port.resv (fun _ => rfl) (fun _ _ _ => rfl)).trans (field_of_core core Port.resv)
  · exact (field_modeAbandoned p s Port.wakePulses (fun _ => rfl) (fun _ _ _ => rfl)).trans (field_of_core core Port.wakePulses)
  · exact (field_modeAbandoned p s Port.run (fun _ => rfl) (fun _ _ _ => rfl)).trans (field_of_core core Port.run)

theorem restFrom_jobFailed (h : (s.port p).run < 2) (a : Bool) : (s.jobFailed p a).restFrom p = s.restFrom p := by
  obtain ⟨-, -, -, -, -, -, -, still, -⟩ := jobFailed_spec h a
  have clock : (s.jobFailed p a).clock = s.clock := (congrArg Prod.fst still :)
  have stations : (s.jobFailed p a).stations = s.stations := (congrArg (fun x => x.2.1) still :)
  have station : ((s.jobFailed p a).port p).station = (s.port p).station := by
    unfold State.jobFailed
    rw [port_modPort_self]
    exact failed_record Port.station h a
  have stationOf : (s.jobFailed p a).stationOf p = s.stationOf p := by
    unfold State.stationOf State.station
    rw [station, stations]
  unfold State.restFrom
  rw [stationOf, clock]

end Held

/-- Settles O35: the start of a reservation by the camera's state, the resume that waits for a POWER_MODE job, and the end of
the window. -/
theorem reservationWindow : Obligations.ReservationWindow := by
  unfold Obligations.ReservationWindow
  refine ⟨fun p s r f hr hs hd hf => ⟨fun hdeep hp => ?deep, fun hne hp hq => ?resume, fun hp => ?released⟩,
    ⟨fun p s r hr hs hd hne hp hq => ?waits, fun p s e j js t g f st d a h _ he hj hw hp hf => ?success,
      fun p s e j js t g f a h _ he hj hw hp hf => ⟨fun ht => ?failure, fun ht hst => ?abandoned⟩⟩, fun p s r hr hs hd => ?window⟩
  case deep =>
    let v : State := setResv p (some { r with started := true }) s
    let x : State := v.modPort p (Port.removeJobs Job.isPowerMode)
    let w : Power := .waking ⟨.ramp (addSlot r.start f.inrushSlots), none, ⟨r.ready, r.needed⟩, none⟩
    have hv : v.port p = { s.port p with resv := some { r with started := true } } := port_modPort_self p _ s
    have hx : x.port p = (v.port p).removeJobs Job.isPowerMode := port_modPort_self p _ v
    have body : (x.port p).body = (v.port p).body := by rw [hx, body_removeJobs]
    have power : (x.port p).power = .deep := (field_of_body body Port.power).trans (by rw [hv, hp])
    have start : startReservation p r s = setPower p w x := by
      unfold startReservation
      dsimp only
      rw [if_pos (show (v.port p).power.paused? = some r.from_ by rw [hv]; simp [hp, hdeep, Power.paused?]), if_pos hdeep]
      exact startDeepWake_eq (s := v) (by rw [hv, hf])
    refine ⟨_, (exec_reservationStart hr hs hd).trans (congrArg (fun y => (.next (finish y) : Result)) start),
      power_setPower p _ x, ?_, marked_setPower (code_paused (t := .deep) (by rw [power]; rfl) ⟨_, rfl⟩), ?_,
      overFrom_wake power _, (outer_parts (outer_setPower p _ x)).1, ?_⟩
    · exact (field_of_core (core_setPower p _ x) Port.resv).trans ((field_of_body body Port.resv).trans (by rw [hv]))
    · have jobs : (x.port p).JobsOnly Job.noIdleMode := hx ▸ noIdleMode_removeJobs _
      intro j hj
      have := jobs.setPower owed_noIdleMode _ j (List.mem_append_left _ hj)
      unfold Job.noIdleMode at this
      cases hm : j.isPowerMode
      · exact .inl rfl
      · exact .inr (this hm)
    · exact ((((OnPort.refl p s).setResv _).modPort _ fun c hc => (camMark_removeJobs c _).trans hc).setPower _).others
  case resume =>
    let v : State := setResv p (some { r with started := true }) s
    have hv : v.port p = { s.port p with resv := some { r with started := true } } := port_modPort_self p _ s
    have paused : (v.port p).power.paused? = some r.from_ := by rw [hv, ← hp]
    have none_ : (v.port p).queue.any (fun j => j.isPowerMode && j.started) = false := by
      rw [hv]
      refine List.any_eq_false.2 fun j hj => ?_
      simp only [Bool.and_eq_true, not_and, Bool.not_eq_true]
      exact hq j hj
    have start : startReservation p r s = startResume p ⟨r.ready, r.needed⟩ v := by
      unfold startReservation
      exact (if_pos paused).trans ((if_neg hne).trans (if_neg (by rw [none_]; decide)))
    obtain ⟨power, core, -, marked, -, on⟩ := startResume_spec (g := ⟨r.ready, r.needed⟩) paused hne
      (show (v.port p).profile = some f by rw [hv, hf])
    refine ⟨_, (exec_reservationStart hr hs hd).trans (congrArg (fun y => (.next (finish y) : Result)) start), power,
      ?_, ?_, marked, (outer_parts (outer_startResume p _ v)).1, (((OnPort.refl p s).setResv _).startResume _).others⟩
    · exact (congrArg Port.wakePulses core :).trans (by simp only [hv])
    · exact (congrArg Port.resv core :).trans (congrArg Port.resv hv :)
  case released =>
    have start : startReservation p r s = releaseResv p (setResv p (some { r with started := true }) s) := by
      unfold startReservation
      refine if_neg ?_
      rw [setResv, port_modPort_self]
      exact hp
    refine ⟨_, (exec_reservationStart hr hs hd).trans (congrArg (fun y => (.next (finish y) : Result)) start), ?_, ?_,
      (outer_parts (outer_releaseResv p _)).1, ((OnPort.refl p s).setResv _).releaseResv.others⟩
    all_goals rw [releaseResv_eq, setResv, modPort_modPort, port_modPort_self]
  case waits =>
    obtain ⟨j, hj, hm, hst⟩ := hq
    have any_ : (s.port p).queue.any (fun j => j.isPowerMode && j.started) = true := List.any_eq_true.2 ⟨j, hj, by simp [hm, hst]⟩
    rw [exec_reservationStart hr hs hd]
    refine congrArg (fun y => (.next (finish y) : Result)) ?_
    unfold startReservation setResv
    simp only [port_modPort_self, hp, if_true, if_neg hne, any_, modPort_modPort]
  case success =>
    have power : (s.port p).power.isFault = false := by
      rcases hp with ⟨k, hk⟩ | hk
      · rw [hk]; rfl
      · revert hk
        cases (s.port p).power <;> simp [Power.isKeepwarm, Power.isFault]
    obtain ⟨started, run⟩ := resume_at_jobEnd (v := s.jobDone p a js) (n := 0) hw hp hf
      (by rw [port_jobDone]; simp [Port.resuming, power]) (outer_parts (outer_jobDone s p a js)).1 (onPort_jobDone s p a js).others
    exact ⟨_, exec_laneResponse_mode h he hj a, started, run⟩
  case failure =>
    have ⟨_, _, _, _, _, _, hrun⟩ := h
    obtain ⟨kept, _, _, _, _, _, _, still, others⟩ := jobFailed_spec hrun a
    have stays : powerModeFailed p t (s.jobFailed p a) = s.jobFailed p a := by
      unfold powerModeFailed
      rw [if_neg (by simp [kept, ht])]
    obtain ⟨started, run⟩ := resume_at_jobEnd (v := s.jobFailed p a) hw hp hf (resuming_jobFailed hrun a) still others
    exact ⟨_, (exec_responseLimitExpiry_mode h he hj a).trans (by rw [stays]), started, run⟩
  case abandoned =>
    have ⟨_, _, _, _, _, _, hrun⟩ := h
    obtain ⟨kept, _, _, _, _, _, table, still, others⟩ := jobFailed_spec hrun a
    have record := resuming_jobFailed hrun a
    simp only [Port.resuming, Prod.mk.injEq] at record
    obtain ⟨-, -, -, pulses, resv, run⟩ := record
    have resting : t ≠ .deep ∧ (s.port p).power.pending? = none := by
      revert ht hp
      cases (s.port p).power <;> simp [Power.paused?, Power.isKeepwarm, Power.pending?] <;> rintro rfl <;> simp
    obtain ⟨hdeep, free⟩ := resting
    have started : ((s.jobFailed p a).port p).startedResv = true := by
      unfold Port.startedResv
      rw [resv]
      exact hst
    have left := powerModeFailed_abandons ((congrArg Power.paused? kept).trans ht) hdeep started
    obtain ⟨power, wait, resv', pulses', run'⟩ := modeAbandoned_spec (s := s.jobFailed p a) (p := p) (by rw [kept, free])
    rw [restFrom_jobFailed hrun] at power
    refine ⟨modeAbandoned p (s.jobFailed p a), (exec_responseLimitExpiry_mode h he hj a).trans ?_, by rw [power]; rfl, power, wait,
      note_modeAbandoned p _, resv'.trans resv, pulses'.trans pulses, run'.trans run, marked_modeAbandoned p _,
      (outer_parts (outer_modeAbandoned p _)).1.trans still,
      fun q hq => ((onPort_modeAbandoned p _).others q hq).trans (others q hq)⟩
    rw [left]
    exact congrArg (fun y => (.next (finish y) : Result)) (startWaitingResume_none wait)
  case window =>
    show execReservationWindowEnd p s = _
    unfold execReservationWindowEnd
    rw [if_pos (windowDue_iff.2 ⟨r, hr, hs, hd⟩), releaseResv_eq]

end Sys2Proof.Machine

namespace Sys2Proof.Machine

/-! # Proofs: a HOST_READ that succeeds (R36, R37, R42, R43) -/

/-! ## The room of a queue, served -/

section Room

variable {c : Port} {n : Nat}

/-- The jobs that the three marks of a port put in its queue, each where it meets room. -/
def Port.duePolls (c : Port) : List Job := if c.markPoll && c.pollOwed then [Job.mk' .poll] else []
def Port.dueThermals (c : Port) : List Job := if c.markThermal && !c.power.isLost then [Job.mk' .thermalRead] else []
def Port.duePings (c : Port) : List Job := if c.markPing && c.power.isKeepwarm then [Job.mk' .ping] else []

/-- A mark that meets room is cleared, and its job joins the queue where the job is owed. -/
theorem served_mark (q : List Job) (mark owed : Bool) (j : Job) (n : Nat) :
    (if mark && decide (q.length < n) then if owed then q ++ [j] else q else q) =
        q ++ (if mark && owed then [j] else []).take (n - q.length) ∧
      (if mark && decide (q.length < n) then false else mark) = (mark && decide (n ≤ q.length)) := by
  by_cases hn : q.length < n
  · obtain ⟨k, hk⟩ : ∃ k, n - q.length = k + 1 := ⟨n - q.length - 1, by omega⟩
    rw [hk]
    cases mark <;> cases owed <;> simp [hn]
  · rw [Nat.sub_eq_zero_of_le (by omega)]
    cases mark <;> simp [hn, Nat.le_of_not_lt hn]

theorem servePoll_eq (n : Nat) (c : Port) : c.servePoll n = { c with
    queue := c.queue ++ c.duePolls.take (n - c.queue.length), markPoll := c.markPoll && decide (n ≤ c.queue.length) } := by
  obtain ⟨queue, mark⟩ := served_mark c.queue c.markPoll c.pollOwed (Job.mk' .poll) n
  unfold Port.duePolls
  rw [← queue, ← mark]
  unfold Port.servePoll
  dsimp only
  rw [show ({ c with markPoll := false } : Port).pollOwed = c.pollOwed from rfl]
  split
  · cases c.pollOwed <;> rfl
  · rfl

theorem serveThermal_eq (n : Nat) (c : Port) : c.serveThermal n = { c with
    queue := c.queue ++ c.dueThermals.take (n - c.queue.length)
    markThermal := c.markThermal && decide (n ≤ c.queue.length) } := by
  obtain ⟨queue, mark⟩ := served_mark c.queue c.markThermal (!c.power.isLost) (Job.mk' .thermalRead) n
  unfold Port.dueThermals
  rw [← queue, ← mark]
  unfold Port.serveThermal
  dsimp only
  split
  · cases c.power.isLost <;> rfl
  · rfl

theorem servePing_eq (n : Nat) (c : Port) : c.servePing n = { c with
    queue := c.queue ++ c.duePings.take (n - c.queue.length), markPing := c.markPing && decide (n ≤ c.queue.length) } := by
  obtain ⟨queue, mark⟩ := served_mark c.queue c.markPing c.power.isKeepwarm (Job.mk' .ping) n
  unfold Port.duePings
  rw [← queue, ← mark]
  unfold Port.servePing
  dsimp only
  split
  · cases c.power.isKeepwarm <;> rfl
  · rfl

/-- A list that is taken piece by piece, each piece into the room the pieces before it have left. -/
theorem take_pieces (xs ys : List Job) (n k : Nat) :
    xs.take (n - k) ++ ys.take (n - (k + (xs.take (n - k)).length)) = (xs ++ ys).take (n - k) := by
  rw [List.take_append, List.length_take]
  congr 2
  omega

/-- A mark meets room exactly where the jobs due before it leave some. -/
theorem full_after (xs : List Job) (n k : Nat) :
    decide (n ≤ k + (xs.take (n - k)).length) = decide (n ≤ k + xs.length) := by
  rw [List.length_take]
  congr 1
  apply propext
  omega

theorem serveRoom_eq (c : Port) : c.serveRoom = { c with
    queue := c.queue ++ (c.duePolls ++ c.dueThermals ++ c.duePings ++ c.waitLine).take (8 - c.queue.length)
    waitLine := c.waitLine.drop (8 - c.queue.length - (c.duePolls ++ c.dueThermals ++ c.duePings).length)
    markPoll := c.markPoll && decide (8 ≤ c.queue.length)
    markThermal := c.markThermal && decide (8 ≤ c.queue.length + c.duePolls.length)
    markPing := c.markPing && decide (8 ≤ c.queue.length + c.duePolls.length + c.dueThermals.length) } := by
  have polled := servePoll_eq 8 c
  have read : (c.servePoll 8).serveThermal 8 = { c with
      queue := c.queue ++ (c.duePolls ++ c.dueThermals).take (8 - c.queue.length)
      markPoll := c.markPoll && decide (8 ≤ c.queue.length)
      markThermal := c.markThermal && decide (8 ≤ c.queue.length + c.duePolls.length) } := by
    rw [serveThermal_eq, polled, ← take_pieces, ← full_after, ← List.append_assoc]
    simp only [List.length_append]
    rfl
  have pinged : ((c.servePoll 8).serveThermal 8).servePing 8 = { c with
      queue := c.queue ++ (c.duePolls ++ c.dueThermals ++ c.duePings).take (8 - c.queue.length)
      markPoll := c.markPoll && decide (8 ≤ c.queue.length)
      markThermal := c.markThermal && decide (8 ≤ c.queue.length + c.duePolls.length)
      markPing := c.markPing && decide (8 ≤ c.queue.length + c.duePolls.length + c.dueThermals.length) } := by
    have room : decide (8 ≤ c.queue.length + ((c.duePolls ++ c.dueThermals).take (8 - c.queue.length)).length) =
        decide (8 ≤ c.queue.length + c.duePolls.length + c.dueThermals.length) := by
      rw [full_after, List.length_append, Nat.add_assoc]
    rw [servePing_eq, read, ← take_pieces (c.duePolls ++ c.dueThermals), ← room, ← List.append_assoc]
    simp only [List.length_append]
    rfl
  show (((c.servePoll 8).serveThermal 8).servePing 8).serveLine 8 = _
  have line : 8 - (c.queue.length + ((c.duePolls ++ c.dueThermals ++ c.duePings).take (8 - c.queue.length)).length) =
      8 - c.queue.length - (c.duePolls ++ c.dueThermals ++ c.duePings).length := by
    rw [List.length_take]
    omega
  rw [pinged, ← line, ← take_pieces (c.duePolls ++ c.dueThermals ++ c.duePings), ← List.append_assoc]
  simp only [Port.serveLine, List.length_append]

end Room
/-! ## The event for PAUSING (R22) -/

section Event

variable {s : State} {p : PortId} {ps : Pause} {w : Nat}

theorem marked_pausingEvent (hp : (s.port p).power = .pausing ps w) (ho : (s.port p).offload = false)
    (hj : (s.port p).pauseHeldByJob = false) : (pausingEvent p s).marked p := by
  have entered {new : Power} (h : (Power.pausing ps w).code ≠ new.code) : (setPower p new s).marked p :=
    marked_setPower (by rwa [hp])
  have acts : pausingEvent p s = pauseAction p ps.target s := by simp [pausingEvent, hp, ho, hj]
  rw [acts]
  unfold pauseAction
  cases ps.target with
  | doze =>
    unfold enterDoze
    exact ((OnPort.refl p _).enqueueJob _).marks p (entered (by simp [Power.code]))
  | keepwarm =>
    unfold enterKeepwarm
    exact ((OnPort.refl p _).enqueueJob _).startKeepwarm.marks p (entered (by simp [Power.code]))
  | deep => exact marked_enterDeep (by rw [hp]; rfl)

theorem pausingEvent_held (hp : (s.port p).power = .pausing ps w) (h : (s.port p).offload = true ∨ (s.port p).pauseHeldByJob = true) :
    pausingEvent p s = s := by
  unfold pausingEvent
  rw [hp]
  exact if_pos (by simpa using h)

end Event

/-! ## The end of a HOST_READ -/

section HostRead

variable {s : State} {p : PortId} {e : Exchange} {j : Job} {js : List Job} {t a : Nat} {st d : Byte}

theorem exec_laneResponse_hostRead (h : JobSucceeds p e j js st d s) (he : e.op = .read) (hj : j.kind = .hostRead t a) (b : Bool) :
    exec (.laneResponse p st d (responseCheck st d) b) s = .next (finish (pausingEvent p
      ((giveAnswer t [0x00#8, 0x01#8, d] (if a = 12 then thermalRead p d (s.jobDone p b js) else s.jobDone p b js)).modPort p
        Port.serveRoom))) := by
  have ⟨_, _, _, _, hq, _⟩ := h
  have hh : ((s.handed p b).port p).queue = j :: js := by rw [queue_handed, hq]
  rw [exec_laneResponse_job h b, if_neg (by simp [Exchange.throughPart, he])]
  simp only [jobSuccess, hj]
  rw [jobEnd_holdsPause hh (by simp [Job.holdsPause, Job.isHost, hj]), ← modPort_tail hh, handed_tail hq]
  rfl

end HostRead

/-- Settles O21: the answer of a HOST_READ, the room that its end serves, and the event for PAUSING. -/
theorem hostReadAnswered : Obligations.HostReadAnswered := by
  refine ⟨fun p s v w e j js t a st d b h he hj hv hw => ?answer, fun c polls thermals pings hp ht hg => ?room,
    fun p s => ⟨pausingEvent_other, fun ps w hp => ⟨pausingEvent_held hp, fun ho hj => ?event⟩⟩,
    fun p s e j js t a st d b hl hs he ha hv hq hj hk h12 hf hp hw hpoll hth hping => ?quiet⟩
  case answer =>
    rw [exec_laneResponse_hostRead h he hj b, hw, hv]
    rfl
  case room =>
    have polled : polls = c.duePolls := by
      rw [hp]
      unfold Port.duePolls Port.pollOwed
      refine if_congr ?_ rfl rfl
      simp [Power.isVacant_eq_false, List.any_eq_false, and_assoc]
    have read : thermals = c.dueThermals := by
      rw [ht]
      exact if_congr (by simp) rfl rfl
    have pinged : pings = c.duePings := by
      rw [hg]
      exact if_congr (by simp) rfl rfl
    rw [polled, read, pinged, serveRoom_eq]
  case event =>
    obtain ⟨still, table, -, -, -, -, line, -⟩ := outer_parts (outer_pausingEvent p s)
    exact ⟨pausingEvent_taken hp ho hj, marked_pausingEvent hp ho hj, table, line, still, (OnPort.refl p s).pausingEvent.others⟩
  case quiet =>
    rw [exec_laneResponse_hostRead ⟨hl, hs, ha, hv, hq, hj⟩ he hk b, if_neg h12]
    let v : State := giveAnswer t [0x00#8, 0x01#8, d] (s.jobDone p b js)
    have port : v.port p = { s.port p with
        attention := b, lane := none, run := if (s.port p).power.isFault = true ∧ (s.port p).run = 3 then 3 else 0
        queue := js } := port_jobDone s p b js
    have room : v.modPort p Port.serveRoom = v := by
      refine modPort_same (serveRoom_idle ?_ ?_ ?_ ?_)
      all_goals rw [port]; assumption
    have quiet : pausingEvent p (v.modPort p Port.serveRoom) = v := by
      rw [room]
      exact pausingEvent_other (by rw [port]; exact hp)
    rw [quiet]
    have cleared : s.jobDone p b js = s.modPort p (fun c => { c with attention := b, lane := none, run := 0, queue := js }) :=
      modPort_congr (by simp only [hf, Bool.false_eq_true, false_and, if_false])
    show (.next (finish (giveAnswer t _ (s.jobDone p b js))) : Result) = _
    rw [cleared]
    rfl

end Sys2Proof.Machine

namespace Sys2Proof.Machine

/-! # Proofs: the fields of a body (Section 11.2, Tables 69–82)

`Field b i l` says that the bytes `l` stand in the body `b` from offset `i` on. A body that is a chain of fields is taken apart
by `field_append` and `field_cons`; what is read at an offset follows from the encoding that stands there. -/

section Fields

variable {b l m : List Byte} {i n : Nat}

def Field (b : List Byte) (i : Nat) (l : List Byte) : Prop := l <+: b.drop i

theorem field_refl (b : List Byte) : Field b 0 b := List.prefix_rfl

theorem field_append : Field b i (l ++ m) ↔ Field b i l ∧ Field b (i + l.length) m := by
  unfold Field
  rw [← List.drop_drop]
  constructor
  · rintro ⟨t, ht⟩
    exact ⟨⟨m ++ t, by rw [← ht, List.append_assoc]⟩, ⟨t, by rw [← ht, List.append_assoc, List.drop_left]⟩⟩
  · rintro ⟨⟨t, ht⟩, r, hr⟩
    rw [← ht, List.drop_left] at hr
    exact ⟨r, by rw [← ht, ← hr, List.append_assoc]⟩

theorem u8_drop (b : List Byte) (i k : Nat) : u8 (b.drop i) k = u8 b (i + k) := by
  simp [u8, List.getD_eq_getElem?_getD]

theorem Field.byte {x : Byte} (h : Field b i (x :: l)) : b.getD i 0#8 = x := by
  obtain ⟨t, ht⟩ := h
  have : (b.drop i).getD 0 0#8 = x := by rw [← ht]; rfl
  simpa [List.getD_eq_getElem?_getD] using this

theorem field_cons {x y : Byte} : Field b i (x :: y :: l) ↔ Field b i [x] ∧ Field b (i + 1) (y :: l) := by
  rw [← List.singleton_append, field_append, List.length_singleton]

theorem Field.u8 {x : Byte} (h : Field b i [x]) : u8 b i = x.toNat := congrArg BitVec.toNat h.byte

theorem Field.u8_toByte (h : Field b i [toByte n]) : Machine.u8 b i = n % 256 := by
  rw [h.u8, toNat_toByte]

/-- What is read within a field is what the field holds. -/
theorem Field.read (h : Field b i l) {k : Nat} (hk : k < l.length) : Machine.u8 b (i + k) = Machine.u8 l k := by
  obtain ⟨t, ht⟩ := h
  rw [← u8_drop, ← ht]
  unfold Machine.u8
  rw [List.getD_append _ _ _ _ hk]

theorem Field.u16 (h : Field b i (le16 n)) : u16 b i = n % 65536 := by
  have lo := h.read (k := 0) (by simp)
  have hi := h.read (k := 1) (by simp)
  have : Machine.u16 b i = Machine.u16 (le16 n ++ []) 0 := by
    rw [List.append_nil, Machine.u16, Machine.u16, ← lo, ← hi]
    rfl
  rw [this, u16_le16]

theorem Field.u32 (h : Field b i (le32 n)) : u32 b i = n % 4294967296 := by
  have : Machine.u32 b i = Machine.u32 (le32 n ++ []) 0 := by
    rw [List.append_nil]
    unfold Machine.u32 Machine.u16
    rw [← h.read (k := 0) (by simp), ← h.read (k := 1) (by simp), ← h.read (k := 2) (by simp), ← h.read (k := 3) (by simp)]
    rfl
  rw [this, u32_le32]

theorem Field.time {t : Option Nat} (h : Field b i (optTime t)) : Machine.u32 b i = carried t := by
  cases t with
  | none => exact h.u32
  | some t => exact h.u32

theorem Field.ident {x : Ident} (h : Field b i (identBytes x)) : identAt b i = x := by
  have : identAt b i = identAt (identBytes x ++ []) 0 := by
    rw [List.append_nil, identAt_eq, identAt_eq]
    simp only [← h.read (k := 0) (by simp), ← h.read (k := 1) (by simp), ← h.read (k := 2) (by simp),
      ← h.read (k := 3) (by simp), ← h.read (k := 4) (by simp), ← h.read (k := 5) (by simp), Nat.zero_add, Nat.add_zero]
  rw [this, identAt_identBytes]

theorem Field.index {x : Option (Fin n)} (hn : n ≤ 255) (h : Field b i (optIndex x)) : Machine.u8 b i = x.elim 255 (·.val) := by
  cases x with
  | none => exact h.u8
  | some x =>
    have := x.isLt
    exact h.u8_toByte.trans (Nat.mod_eq_of_lt (by omega))

theorem Field.cue {x : Option Nat} (h : Field b i (optCue x)) : Machine.u8 b i = x.elim 0 (· % 256) := by
  cases x with
  | none => exact h.u8
  | some x => exact h.u8_toByte

theorem Field.code {α : Type} {f : α → Nat} {x : Option α} (h : Field b i [optCode f x]) : Machine.u8 b i = x.elim 0 (f · % 256) := by
  cases x with
  | none => exact h.u8
  | some x => exact h.u8_toByte

theorem Field.flag {x : Bool} (h : Field b i [flagByte x]) : Machine.u8 b i = if x then 1 else 0 := by
  cases x <;> exact h.u8

theorem Field.profile {f : Option Profile} (h : Field b i (profileBytes f)) : CarriesProfile b i f := by
  refine ⟨fun g hf => ?_, fun hf k hk => ?_⟩
  · subst hf
    simp only [profileBytes, Profile.bytes, field_append, field_cons, List.length_append, List.length_cons, List.length_nil,
      length_le16, Nat.add_assoc, Nat.reduceAdd, and_assoc] at h
    obtain ⟨latency, init, inrush, slots, awake, resume⟩ := h
    exact ⟨latency.u8_toByte, init.u16, inrush.u16, slots.u8_toByte, awake.u16, resume.u16⟩
  · subst hf
    rw [h.read (by simpa using hk)]
    show (List.getD (List.replicate 10 0#8) k 0#8).toNat = 0
    rw [List.getD_replicate _ hk]
    rfl

/-- A set of flags holds its flags in order, bit 0 first. -/
theorem testBit_flagBits (bs : List Bool) {k : Nat} (hk : k < 8) : (flagBits bs).toNat.testBit k = bs.getD k false := by
  have word (xs : List Bool) (j : Nat) :
      (xs.foldr (fun (x : Bool) acc => 2 * acc + (if x then 1 else 0)) 0).testBit j = xs.getD j false := by
    induction xs generalizing j with
    | nil => simp
    | cons x xs ih =>
      have bit (n : Nat) : 2 * n + (if x then 1 else 0) = Nat.bit x n := by
        rw [Nat.bit_val]
        cases x <;> rfl
      rw [List.foldr_cons, bit]
      cases j with
      | zero => rw [Nat.testBit_bit_zero]; rfl
      | succ j => rw [Nat.testBit_bit_succ, ih]; rfl
  unfold flagBits
  rw [toNat_toByte, show (256 : Nat) = 2 ^ 8 from rfl, Nat.testBit_mod_two_pow, word]
  simp [hk]

theorem Field.bit {bs : List Bool} {k : Nat} (h : Field b i [flagBits bs]) (hk : k < 8) :
    (Machine.u8 b i).testBit k = bs.getD k false := by
  rw [h.u8, testBit_flagBits bs hk]

end Fields

/-! ## The camera record (Table 71) -/

section Record

variable {s : State} {p : PortId} {b : List Byte}

theorem fields_cameraBytes (h : Field b 0 (cameraBytes p s)) :
    Field b 0 [toByte p.val] ∧ Field b 1 [toByte (s.port p).power.code] ∧
    Field b 2 [optCode Phase.code (s.port p).power.phase?] ∧
    Field b 3 [optCode (fun x => x.target.code) (s.port p).power.pendingPause?] ∧
    Field b 4 [optCode (fun x => x.origin.code) (s.port p).power.pendingPause?] ∧
    Field b 5 [optCode (fun x => x.target.code) (s.port p).power.pause?] ∧
    Field b 6 [optCode (fun x => x.origin.code) (s.port p).power.pause?] ∧
    Field b 7 [flagBits [(s.port p).hostPause, (s.port p).offload, (s.port p).mediaFull, (s.port p).gradeChanged,
      (s.boundIdent p).isSome, (s.port p).profile.isSome, (s.port p).resv.isSome, (s.port p).power.forecast?.isSome]] ∧
    Field b 8 [optCode FaultCause.code (s.port p).power.cause?] ∧ Field b 9 (identBytes ((s.boundIdent p).getD 0)) ∧
    Field b 15 (profileBytes (s.port p).profile) ∧ Field b 25 [gradeByte (s.port p).grade] ∧
    Field b 26 (readingBytes (s.port p).reading) ∧ Field b 28 [toByte (s.port p).run] ∧
    Field b 29 (optTime (s.port p).power.restTimer?) ∧ Field b 33 (optTime (s.port p).power.dozeTimer?) ∧
    Field b 37 (optTime (s.port p).power.keepTimer?) ∧ Field b 41 (optTime (s.port p).power.waitTimer?) ∧
    Field b 45 (optIndex (s.port p).station) ∧
    Field b 46 [flagBits [(s.port p).noteAbandoned, (s.port p).noteConflict]] ∧ Field b 47 (resvBytes (s.port p).resv) ∧
    Field b 61 (optTime ((s.port p).power.forecast?.map (·.ready))) ∧
    Field b 65 (optCue ((s.port p).power.forecast?.bind (·.needed))) := by
  simpa only [cameraBytes, field_append, field_cons, List.length_append, List.length_cons, List.length_nil, length_identBytes,
    length_profileBytes, length_readingBytes, length_optTime, length_optIndex, length_resvBytes, Nat.zero_add,
    Nat.reduceAdd, and_assoc] using h

theorem target_code_byte (x : Target) : x.code % 256 = x.code := by cases x <;> rfl

theorem origin_code_byte (x : Origin) : x.code % 256 = x.code := by cases x <;> rfl

/-- The reservation's fields of the record. -/
theorem fields_resvBytes {i : Nat} {r : Reservation} (h : Field b i (resvBytes (some r))) :
    Field b i [toByte r.kind.code] ∧ Field b (i + 1) (le32 r.start) ∧ Field b (i + 5) [toByte r.length] ∧
    Field b (i + 6) (le16 r.current) ∧ Field b (i + 8) (le32 r.ready) ∧ Field b (i + 12) (optCue r.needed) ∧
    Field b (i + 13) [flagByte r.started] := by
  simpa only [resvBytes, field_append, field_cons, List.length_append, List.length_cons, List.length_nil, length_le16, length_le32,
    length_optCue, Nat.zero_add, Nat.reduceAdd, and_assoc] using h

theorem fields_resvBytes_none {i : Nat} (h : Field b i (resvBytes none)) :
    Field b i [0#8] ∧ Field b (i + 1) (optTime none) ∧ Field b (i + 5) [0#8] ∧ Field b (i + 6) (le16 0) ∧
    Field b (i + 8) (optTime none) ∧ Field b (i + 12) (optCue none) ∧ Field b (i + 13) [0#8] := by
  simpa only [resvBytes, field_append, field_cons, List.length_append, List.length_cons, List.length_nil, length_le16,
    length_optTime, length_optCue, Nat.zero_add, Nat.reduceAdd, and_assoc] using h

theorem field_grade {i : Nat} {g : Option Nat} (h : Field b i [gradeByte g]) : u8 b i = g.elim 255 (· % 256) := by
  cases g with
  | none => exact h.u8
  | some g => exact h.u8_toByte

theorem field_reading {i : Nat} {x : Option Nat} (h : Field b i (readingBytes x)) : u16 b i = x.elim 65535 (· % 65536) := by
  cases x with
  | none => exact h.u16
  | some x => exact h.u16

/-- The identity of the entry bound to a port (R40). -/
theorem boundIdent_none : s.boundIdent p = none ↔ ∀ k e, s.entryAt k = some e → e.bound ≠ some p := by
  unfold State.boundIdent State.boundEntry
  cases h : s.boundPos p with
  | none => exact iff_of_true rfl (boundPos_none h)
  | some k =>
    obtain ⟨e, he, hb⟩ := boundPos_some h
    refine iff_of_false (by simp [he]) fun none_ => none_ k e he hb

theorem boundIdent_some {k : Position} {e : IdEntry} (hu : TableUnique s.table) (he : s.entryAt k = some e)
    (hb : e.bound = some p) : s.boundIdent p = some e.ident := by
  unfold State.boundIdent State.boundEntry
  cases h : s.boundPos p with
  | none => exact absurd hb (boundPos_none h k e he)
  | some i =>
    obtain ⟨x, hx, hbx⟩ := boundPos_some h
    have same : i = k := by
      by_contra hne
      exact (hu i k hne x e hx he).2 p hbx hb
    subst same
    simp [he]

theorem exec_cameraGet {r : Request} (ht : Taken .cameraGet r s) (hp : u8 r.body 0 = p.val) : exec (.cameraGet r) s =
    .next ((s.replied 0x88#8 r.tag (0x00#8 :: cameraBytes p s)).modPort p (fun c => { c with
      gradeChanged := false, noteAbandoned := false, noteConflict := false })) := by
  refine (exec_taken (k := .cameraGet) ht).trans ?_
  show (.next (serveCameraGet r.tag r.body s) : Result) = _
  unfold serveCameraGet
  rw [portOf?_val hp]
  rfl

end Record

/-- Settles O26: the record field by field, the bound identity, and the request. -/
theorem cameraGet : Obligations.CameraGet := by
  unfold Obligations.CameraGet
  refine ⟨fun p s b c hb hc => ?record, fun p s => ⟨boundIdent_none, fun k e => boundIdent_some⟩,
    fun r s ht => ⟨fun h => exec_cameraGet (p := ⟨u8 r.body 0, h⟩) ht rfl, fun h => ?refused⟩⟩
  case refused =>
    refine (exec_taken (k := .cameraGet) ht).trans ?_
    show (.next (serveCameraGet r.tag r.body s) : Result) = _
    unfold serveCameraGet
    rw [portOf?_none h]
    rfl
  case record =>
    subst hb hc
    obtain ⟨port, state, phase, pendT, pendO, pauseT, pauseO, flags, cause, ident, profile, grade, reading, run, rest, doze,
      keep, wait, station, notes, resv, ready, needed⟩ := fields_cameraBytes (field_refl (cameraBytes p s))
    refine ⟨length_cameraBytes p s, ?_, ?_, fun w hw => ⟨?_, ?_, ?_⟩, fun hw => ⟨?_, ?_, ?_⟩,
      fun ps => ⟨fun hps => ?_, fun t ht => ?_⟩, fun hp => ?_, fun hp => ?_, ⟨rfl, rfl, rfl, rfl, rfl⟩,
      ⟨flags.bit (k := 0) (by decide), flags.bit (k := 1) (by decide), flags.bit (k := 2) (by decide),
        flags.bit (k := 3) (by decide), flags.bit (k := 4) (by decide), flags.bit (k := 5) (by decide),
        flags.bit (k := 6) (by decide), ?_⟩, ?_, ident.ident, profile.profile, field_grade grade, field_reading reading,
      run.u8_toByte, ?_, ?_, ?_, ?_, station.index (by omega),
      ⟨?_, notes.bit (k := 0) (by decide), notes.bit (k := 1) (by decide)⟩, fun hr => ?_, fun v hv => ?_⟩
    · exact port.u8_toByte.trans (Nat.mod_eq_of_lt (by have := p.isLt; omega))
    · rw [state.u8_toByte]
      cases (s.port p).power <;> rfl
    · rw [phase.code, hw]
      cases hph : w.phase <;> simp [Power.phase?, hph, Phase.code]
    · rw [ready.time, hw]
      rfl
    · rw [needed.cue, hw]
      rfl
    · rw [phase.code]
      revert hw
      cases (s.port p).power <;> simp [Power.isWaking, Power.phase?]
    · rw [ready.time]
      revert hw
      cases (s.port p).power <;> simp [Power.isWaking, Power.forecast?]
    · rw [needed.cue]
      revert hw
      cases (s.port p).power <;> simp [Power.isWaking, Power.forecast?]
    · have pending : (s.port p).power.pendingPause? = some ps := by
        rcases hps with ⟨w, hw, hp⟩ | ⟨full, hf⟩
        · rw [hw]
          exact hp
        · rw [hf]
          rfl
      rw [pendT.code, pendO.code, pending]
      exact ⟨target_code_byte _, origin_code_byte _⟩
    · rw [pauseT.code, pauseO.code, ht]
      exact ⟨target_code_byte _, origin_code_byte _⟩
    · have pending : (s.port p).power.pendingPause? = none := by
        revert hp
        cases (s.port p).power <;> exact id
      rw [pendT.code, pendO.code, pending]
      exact ⟨rfl, rfl⟩
    · have paused : (s.port p).power.pause? = none := by
        revert hp
        cases (s.port p).power <;> simp [Power.isPausing, Power.pause?]
      rw [pauseT.code, pauseO.code, paused]
      exact ⟨rfl, rfl⟩
    · rw [flags.bit (k := 7) (by decide)]
      show (s.port p).power.forecast?.isSome = _
      cases (s.port p).power <;> rfl
    · rw [cause.code]
      cases (s.port p).power with
      | fault x => cases x <;> rfl
      | _ => rfl
    · rw [rest.time]
      cases (s.port p).power <;> rfl
    · rw [doze.time]
      cases (s.port p).power <;> rfl
    · rw [keep.time]
      cases (s.port p).power <;> rfl
    · rw [wait.time]
      cases (s.port p).power <;> rfl
    · rw [notes.u8]
      cases (s.port p).noteAbandoned <;> cases (s.port p).noteConflict <;> decide
    · rw [hr] at resv
      obtain ⟨kind, start, length, current, ready, needed, started⟩ := fields_resvBytes_none resv
      exact ⟨kind.u8, start.time, length.u8, current.u16, ready.time, needed.cue, started.u8⟩
    · rw [hv] at resv
      obtain ⟨kind, start, length, current, ready, needed, started⟩ := fields_resvBytes resv
      refine ⟨?_, start.u32, length.u8_toByte, current.u16, ready.u32, needed.cue, started.flag⟩
      rw [kind.u8_toByte]
      cases v.kind <;> rfl

end Sys2Proof.Machine

namespace Sys2Proof.Machine

/-! # Proofs: the table reads (R131, R156, R189, Section 11.2) -/

/-! ## Port sets, repeated fields, and the combined readouts -/

section Lists

variable {b l : List Byte} {i n : Nat}

theorem allPorts_pairwise : allPorts.Pairwise (· < ·) := by decide

/-- A port set is carried as the set of its bits (Table 64). -/
theorem testBit_portSet (ps : List PortId) (p : PortId) :
    ((allPorts.filter (fun p => ps.contains p)).foldl (fun acc (p : PortId) => acc + 2 ^ p.val) 0).testBit p.val = true ↔ p ∈ ps := by
  have sorted : ((allPorts.filter (fun p => ps.contains p)).map (fun p : PortId => p.val)).SortedLT :=
    List.sortedLT_iff_pairwise.2 (List.pairwise_map.2 (allPorts_pairwise.filter _))
  rw [foldl_add, Nat.zero_add, ← Nat.mem_bitIndices]
  have word := Nat.bitIndices_sum_map_two_pow sorted
  rw [List.map_map] at word
  rw [show ((allPorts.filter (fun p => ps.contains p)).map fun p : PortId => 2 ^ p.val) =
    (allPorts.filter (fun p => ps.contains p)).map ((fun i => 2 ^ i) ∘ (fun p : PortId => p.val)) from rfl, word]
  simp [mem_allPorts, Fin.val_inj]

theorem portSet_lt (ps : List PortId) :
    (allPorts.filter (fun p => ps.contains p)).foldl (fun acc (p : PortId) => acc + 2 ^ p.val) 0 < 16777216 := by
  rw [foldl_add, Nat.zero_add]
  have sub := (List.filter_sublist (p := fun p => ps.contains p) (l := allPorts)).map (fun p : PortId => 2 ^ p.val)
  have := sub.sum_le_sum (fun _ _ => Nat.zero_le _)
  have whole : (allPorts.map (fun p : PortId => 2 ^ p.val)).sum = 16777215 := by decide
  omega

theorem Field.ports {ps : List PortId} (h : Field b i (portSetBytes ps)) : CarriesPorts b i (· ∈ ps) := by
  have word := h.u32
  rw [Nat.mod_eq_of_lt (by have := portSet_lt ps; omega)] at word
  refine ⟨by rw [word]; exact portSet_lt ps, fun p => ?_⟩
  rw [word]
  exact testBit_portSet ps p

theorem CarriesPorts.congr {f g : PortId → Prop} (h : CarriesPorts b i f) (hfg : ∀ p, f p ↔ g p) : CarriesPorts b i g :=
  ⟨h.1, fun p => (h.2 p).trans (hfg p)⟩

/-- In a run of fields of one length each stands at its multiple. -/
theorem Field.nth {α : Type} {f : α → List Byte} {xs : List α} (h : Field b i (xs.flatMap f)) (hn : ∀ x, (f x).length = n)
    {k : Nat} (hk : k < xs.length) : Field b (i + n * k) (f xs[k]) := by
  induction xs generalizing i k with
  | nil => exact absurd hk (by simp)
  | cons x xs ih =>
    rw [List.flatMap_cons, field_append, hn] at h
    cases k with
    | zero => exact h.1
    | succ k =>
      have := ih h.2 (k := k) (by simpa using hk)
      rwa [Nat.add_assoc, show n + n * k = n * (k + 1) by rw [Nat.mul_succ, Nat.add_comm]] at this

theorem length_flatMap_const {α : Type} {f : α → List Byte} (hn : ∀ x, (f x).length = n) (xs : List α) :
    (xs.flatMap f).length = n * xs.length := by
  simp [List.length_flatMap, hn, Nat.mul_comm]

/-- One step of a readout over members (R73). -/
def combineStep (f : Nat → Nat → Nat) (acc x : Option Nat) : Option Nat :=
  match acc, x with
  | some a, some b => some (f a b)
  | _, _ => none

theorem combine_eq (f : Nat → Nat → Nat) (xs : List (Option Nat)) : combine f xs = xs.foldl (combineStep f) (some 0) := by
  unfold combine
  congr 1

theorem foldl_combineStep_void (f : Nat → Nat → Nat) (xs : List (Option Nat)) : xs.foldl (combineStep f) none = none := by
  induction xs with
  | nil => rfl
  | cons x xs ih => exact ih

/-- A readout over members is VOID where a member's value is. -/
theorem combine_void {f : Nat → Nat → Nat} {xs : List (Option Nat)} (h : none ∈ xs) : combine f xs = none := by
  have void (acc : Option Nat) : xs.foldl (combineStep f) acc = none := by
    induction xs generalizing acc with
    | nil => exact absurd h (by simp)
    | cons x xs ih =>
      rw [List.foldl_cons]
      rcases List.mem_cons.1 h with rfl | hx
      · have : combineStep f acc none = none := by cases acc <;> rfl
        rw [this, foldl_combineStep_void]
      · exact ih hx _
  rw [combine_eq, void]

/-- Where no member's value is VOID, it is the figure of the values. -/
theorem combine_values (f : Nat → Nat → Nat) (xs : List Nat) : combine f (xs.map some) = some (xs.foldl f 0) := by
  have values (n : Nat) : (xs.map some).foldl (combineStep f) (some n) = some (xs.foldl f n) := by
    induction xs generalizing n with
    | nil => rfl
    | cons x xs ih => exact ih _
  rw [combine_eq, values]

theorem combine_map {α : Type} (f : Nat → Nat → Nat) {g : α → Option Nat} {xs : List α} (h : ∀ x ∈ xs, g x ≠ none) :
    combine f (xs.map g) = some ((xs.map (fun x => (g x).getD 0)).foldl f 0) := by
  rw [← combine_values, List.map_map]
  congr 1
  refine List.map_congr_left fun x hx => ?_
  obtain ⟨v, hv⟩ := Option.ne_none_iff_exists'.1 (h x hx)
  simp [hv]

theorem foldl_max_eq (xs : List Nat) : xs.foldl max 0 = xs.foldr max 0 := List.foldl_eq_foldr

/-- A greatest value is 0 or attained. -/
theorem foldl_max_attained {α : Type} (f : α → Nat) (xs : List α) (n : Nat) :
    xs.foldl (fun acc x => max acc (f x)) n = n ∨ ∃ x ∈ xs, xs.foldl (fun acc x => max acc (f x)) n = f x := by
  induction xs generalizing n with
  | nil => exact .inl rfl
  | cons x xs ih =>
    rw [List.foldl_cons]
    rcases ih (max n (f x)) with h | ⟨y, hy, h⟩
    · rw [h]
      rcases Nat.le_total (f x) n with hx | hx
      · exact .inl (Nat.max_eq_left hx)
      · exact .inr ⟨x, List.mem_cons_self, Nat.max_eq_right hx⟩
    · exact .inr ⟨y, List.mem_cons_of_mem _ hy, h⟩

/-- The records that are carried are as many from the front as fit. -/
theorem fitting_eq (room : Nat) (rs : List (List Byte)) : ∃ n, fitting room rs = rs.take n ∧ n ≤ rs.length ∧
    (rs.take n).flatten.length ≤ room ∧ (n < rs.length → room < (rs.take (n + 1)).flatten.length) := by
  induction rs generalizing room with
  | nil => exact ⟨0, by simp [fitting]⟩
  | cons r rs ih =>
    unfold fitting
    split
    · rename_i h
      obtain ⟨n, he, hn, hl, hg⟩ := ih (room - r.length)
      refine ⟨n + 1, by rw [he]; rfl, by simpa using hn, ?_, fun hlt => ?_⟩
      · simp only [List.take_succ_cons, List.flatten_cons, List.length_append]
        omega
      · have := hg (by simpa using hlt)
        simp only [List.take_succ_cons, List.flatten_cons, List.length_append] at this ⊢
        omega
    · rename_i h
      refine ⟨0, rfl, Nat.zero_le _, Nat.zero_le _, fun _ => ?_⟩
      simp only [List.take_succ_cons, List.take_zero, List.flatten_cons, List.flatten_nil, List.append_nil]
      omega

end Lists

/-! ## The bodies field by field (Tables 69, 70, 78, 79, 82) -/

section Bodies

variable {b : List Byte} {i : Nat} {s : State} {st : StationId}

theorem station_byte (st : StationId) : st.val % 256 = st.val := Nat.mod_eq_of_lt (by have := st.isLt; omega)

theorem port_byte (p : PortId) : p.val % 256 = p.val := Nat.mod_eq_of_lt (by have := p.isLt; omega)

theorem disp_code_byte (x : Option Disp) : x.elim 0 (fun d => d.code % 256) = x.elim 0 Disp.code := by
  cases x with
  | none => rfl
  | some d => cases d <;> rfl

theorem outcome_code_byte (x : Option CamOutcome) : x.elim 0 (fun d => d.code % 256) = x.elim 0 CamOutcome.code := by
  cases x with
  | none => rfl
  | some d => cases d <;> rfl

@[simp] theorem length_memberBytes (m : Member) : m.bytes.length = 8 := by
  simp [Member.bytes]

theorem carriesMember {m : Member} (h : Field b i m.bytes) : CarriesMember b i m := by
  simp only [Member.bytes, field_append, field_cons, List.length_append, List.length_cons, List.length_nil, length_optTime,
    Nat.zero_add, Nat.reduceAdd, and_assoc] at h
  obtain ⟨port, disp, ready, prep, outcome⟩ := h
  refine ⟨port.u8_toByte.trans (port_byte _), disp.code.trans (disp_code_byte _), ready.time, prep.u8_toByte.trans ?_,
    outcome.code.trans (outcome_code_byte _)⟩
  cases m.prep <;> rfl

theorem carriesPair {pr : Pair} (h : Field b i (pairBytes pr)) : u8 b i = pr.attr % 256 ∧ b.getD (i + 1) 0#8 = pr.value := by
  unfold pairBytes at h
  rw [field_cons] at h
  exact ⟨h.1.u8_toByte, h.2.byte⟩

@[simp] theorem length_pairBytes (pr : Pair) : (pairBytes pr).length = 2 := rfl

theorem fields_stationGet (h : Field b 0 (0x00#8 :: stationGetBytes st s)) :
    Field b 1 (portSetBytes (s.membersOf st)) ∧ Field b 5 [toByte (s.station st).restState.code] ∧
    Field b 6 (le16 (s.station st).linger) ∧ Field b 8 (le16 (s.station st).dozeLimit) ∧
    Field b 10 (le16 (s.station st).pauseWait) ∧ Field b 12 (le16 (s.station st).guardSlots) ∧
    Field b 14 (le16 (s.station st).prepTime) ∧ Field b 16 (le16 (s.station st).focusLead) ∧
    Field b 18 (le16 (s.station st).strobe) ∧ Field b 20 (le16 (s.station st).press) ∧
    Field b 22 (le16 (s.station st).slack) ∧ Field b 24 (le16 (s.station st).confirm) ∧
    Field b 26 (le16 (s.station st).keepBase) ∧ Field b 28 [toByte (lockCode (s.station st).lockOn)] ∧
    Field b 29 (le16 (s.station st).lockTimeout) ∧ Field b 31 [toByte (s.membersOf st).length] ∧
    Field b 32 (s.countByState st) ∧ Field b 41 [gradeByte (s.highestGrade st)] ∧ Field b 42 (optTime (s.totalRail st)) ∧
    Field b 46 (le16 (s.stationCommitted st)) ∧ Field b 48 [toByte (s.openCues st).length] ∧
    Field b 49 (optTime ((s.openCues st).head?.map (·.time))) ∧ Field b 53 (le16 s.steady) ∧ Field b 55 (le16 s.inrush) ∧
    Field b 57 (le16 s.committed) ∧ Field b 59 (le16 s.highestOccupancy) := by
  have count : (s.countByState st).length = 9 := by simp [State.countByState]
  rw [← List.singleton_append, field_append] at h
  simpa only [stationGetBytes, stationBytes, field_append, field_cons, List.length_append, List.length_cons, List.length_nil,
    length_portSetBytes, length_le16, count, length_optTime, Nat.zero_add, Nat.reduceAdd, and_assoc] using h.2

theorem fields_cueBytes {c : Cue} (h : Field b 0 c.bytes) :
    Field b 0 [toByte c.id] ∧ Field b 1 [toByte c.station.val] ∧ Field b 2 [toByte c.state.code] ∧
    Field b 3 [toByte c.form.code] ∧ Field b 4 (le32 c.time) ∧ Field b 8 (le32 c.posting) ∧
    Field b 12 (optTime (c.grant.map (·.t0))) ∧ Field b 16 (portSetBytes c.confirm) ∧ Field b 20 (optTime c.timer) ∧
    Field b 24 [if c.state == .done then toByte c.outcomeCode else 0#8] ∧
    Field b 25 (optTime (if c.state == .done then c.fireTime? else none)) ∧
    Field b 29 (le16 (if c.state == .done then (c.grant.map (·.delay)).getD 0 else 0)) ∧
    Field b 31 [toByte c.profile.length] ∧ Field b 32 [toByte c.members.length] ∧
    Field b 33 (c.profile.flatMap pairBytes) ∧ Field b (33 + 2 * c.profile.length) (c.members.flatMap Member.bytes) := by
  simpa only [Cue.bytes, field_append, field_cons, List.length_append, List.length_cons, List.length_nil, length_le32,
    length_optTime, length_portSetBytes, length_le16, length_flatMap_const length_pairBytes, Nat.zero_add, Nat.reduceAdd,
    and_assoc] using h

@[simp] theorem length_shadowBytes (ps : List Pair) : (shadowBytes ps).length = 1 + max 16 (2 * ps.length) := by
  simp only [shadowBytes, List.length_append, length_flatMap_const length_pairBytes, List.length_replicate, List.length_singleton]
  omega

theorem fields_idEntryBytes {k : Position} {e : IdEntry} (h : Field b 0 (idEntryBytes s k e)) :
    Field b 0 [toByte k.val] ∧ Field b 1 (identBytes e.ident) ∧ Field b 7 (optIndex e.bound) ∧ Field b 8 [flagByte e.pinned] ∧
    Field b 9 [flagByte e.profile.isSome] ∧ Field b 10 [optCode (fun f => sourceCode f.overridden) e.profile] ∧
    Field b 11 [flagByte ((e.profile.map (·.clamped)).getD false)] ∧
    Field b 12 (profileBytes (e.profile.map (·.figures))) ∧ Field b 22 (shadowBytes e.shadow) ∧
    Field b (22 + (shadowBytes e.shadow).length) (optTime e.unbind) ∧
    Field b (22 + ((shadowBytes e.shadow).length + 4)) (le16 (s.ageOf e)) ∧
    Field b (22 + ((shadowBytes e.shadow).length + 6)) [optCode (fun p => (s.port p).power.code) e.bound] := by
  simpa only [idEntryBytes, field_append, field_cons, List.length_append, List.length_cons, List.length_nil, length_identBytes,
    length_optIndex, length_profileBytes, length_optTime, length_le16, Nat.zero_add, Nat.add_assoc, Nat.reduceAdd,
    and_assoc] using h

theorem fields_shadowBytes {ps : List Pair} (h : Field b i (shadowBytes ps)) : Field b i [toByte ps.length] ∧
    Field b (i + 1) (ps.flatMap pairBytes) ∧ Field b (i + (1 + 2 * ps.length)) (List.replicate (16 - 2 * ps.length) 0#8) := by
  simpa only [shadowBytes, field_append, List.length_append, List.length_cons, List.length_nil,
    length_flatMap_const length_pairBytes, Nat.zero_add, and_assoc] using h

/-- The unused bytes of a field of zeros. -/
theorem Field.zeros {n k : Nat} (h : Field b i (List.replicate n 0#8)) (hk : k < n) : Machine.u8 b (i + k) = 0 := by
  rw [h.read (by simpa using hk)]
  show (List.getD (List.replicate n 0#8) k 0#8).toNat = 0
  rw [List.getD_replicate _ hk]
  rfl

end Bodies

/-! ## The occupancy readout (R126) -/

section Occupancy

theorem highestOccupancy_attained (s : State) : s.highestOccupancy = 0 ∨ ∃ x, 0 ≤ s.offset x ∧ s.occupancy x = s.highestOccupancy := by
  refine (foldl_max_attained s.occupancy s.coveredSlots 0).imp id ?_
  rintro ⟨x, hx, h⟩
  refine ⟨x, ?_, h.symm⟩
  simp only [State.coveredSlots, List.mem_flatMap] at hx
  obtain ⟨p, -, hp⟩ := hx
  cases hr : (s.port p).resv with
  | none => simp [hr] at hp
  | some r =>
    rw [hr] at hp
    simpa using (List.mem_filter.1 hp).2

theorem occupancy_sum (s : State) (x : Nat) : s.occupancy x = (allPorts.map (fun p => ((s.port p).resv.map (fun v =>
    if diffSlot x v.start < v.length then v.current else 0)).getD 0)).sum := by
  rw [occupancy_eq]
  refine congrArg List.sum (List.map_congr_left fun p _ => ?_)
  unfold Port.draw Reservation.covers
  cases (s.port p).resv with
  | none => rfl
  | some r => simp

end Occupancy

/-- Settles O45: the three table reads, and the bytes their replies carry. -/
theorem tablesRead : Obligations.TablesRead := by
  unfold Obligations.TablesRead
  refine ⟨fun st s b f l hb hf hl => ?station, fun s => ⟨fun x hx ho => occupancy_le_highest hx ho, highestOccupancy_attained s,
    occupancy_sum s⟩, fun c b n m hb hn hm => ?cue, fun m => ⟨length_memberBytes m, carriesMember (field_refl _)⟩,
    ⟨fun w => by cases w <;> rfl, ⟨rfl, rfl, rfl, rfl, rfl, rfl, rfl, rfl⟩, ⟨rfl, rfl, rfl, rfl, rfl⟩,
      ⟨rfl, rfl, rfl, rfl, rfl, rfl, rfl, rfl, rfl, rfl, rfl⟩⟩,
    fun s k e b o hb ho => ?entry, fun ps w => ⟨(field_refl _).ports, fun h => if_pos h⟩,
    fun r s ht => ⟨fun st h => ?get, fun h => ?noStation⟩, fun r s ht => ⟨fun h => ?badCue, fun h => ?cues⟩,
    fun r s ht => ⟨fun h => ?badId, fun h => ?ids⟩⟩
  case station =>
    subst hb hf hl
    obtain ⟨members, restState, linger, doze, pause, guard, prep, focus, strobe, press, slack, confirm, keep, lock, timeout,
      count, states, grade, rail, committed, cues, next, steady, inrush, all, highest⟩ :=
      fields_stationGet (field_refl (0x00#8 :: stationGetBytes st s))
    have few : (s.membersOf st).length ≤ 24 := List.length_filter_le _ allPorts
    refine ⟨?_, fun p => mem_membersOf, allPorts_pairwise.filter _, members.ports.congr fun p => mem_membersOf, ?_, linger.u16,
      doze.u16, pause.u16, guard.u16, prep.u16, focus.u16, strobe.u16, press.u16, slack.u16, confirm.u16, keep.u16, ?_,
      timeout.u16, count.u8_toByte.trans (Nat.mod_eq_of_lt (by omega)), fun i hi => ?_, fun h => ?_, fun h => ?_, fun h => ?_,
      fun h => ?_, ?_, cues.u8_toByte, ?_, steady.u16, inrush.u16, ?_, highest.u16⟩
    · simp [stationGetBytes, State.countByState]
    · rw [restState.u8_toByte]
      cases (s.station st).restState <;> rfl
    · rw [lock.u8_toByte]
      cases (s.station st).lockOn <;> rfl
    · rw [states.read (by simpa [State.countByState] using hi)]
      have size := List.length_filter_le (fun p => (s.port p).power.code == i + 1) (s.membersOf st)
      simp only [State.countByState, u8, List.getD_eq_getElem?_getD, List.getElem?_map, List.getElem?_range hi, Option.map_some,
        Option.getD_some, toNat_toByte]
      exact Nat.mod_eq_of_lt (by omega)
    · obtain ⟨p, hp, hg⟩ := h
      rw [field_grade grade, State.highestGrade, combine_void (List.mem_map.2 ⟨p, hp, hg⟩)]
      rfl
    · rw [field_grade grade, State.highestGrade, combine_map max h, foldl_max_eq]
      rfl
    · obtain ⟨p, hp, hg⟩ := h
      rw [rail.time, State.totalRail, combine_void (List.mem_map.2 ⟨p, hp, hg⟩)]
    · rw [rail.time, State.totalRail, combine_map _ h, List.sum_eq_foldl]
    · rw [committed.u16, State.stationCommitted, foldl_add, Nat.zero_add]
    · rw [next.time, State.openCues, List.head?_filter]
    · rw [all.u16, committed_eq]
  case cue =>
    subst hb hn hm
    obtain ⟨id_, station, state, form, time, posting, grant, confirm, timer, outcome, fire, delay, pairs, count, profile,
      members⟩ := fields_cueBytes (field_refl c.bytes)
    refine ⟨?_, id_.u8_toByte, station.u8_toByte.trans (station_byte _), ?_, ?_, time.u32, posting.u32, grant.time, confirm.ports,
      timer.time, fun hs => ?_, fun hs => ⟨fun hg => ?_, fun g hg => ?_⟩, pairs.u8_toByte, count.u8_toByte,
      fun i hi => carriesPair (profile.nth length_pairBytes hi), fun i hi => carriesMember (members.nth length_memberBytes hi)⟩
    · simp [Cue.bytes, length_flatMap_const length_pairBytes, length_flatMap_const length_memberBytes]
      omega
    · rw [state.u8_toByte]
      cases c.state <;> rfl
    · rw [form.u8_toByte]
      cases c.form <;> rfl
    · have open_ : (c.state == .done) = false := by simpa using hs
      simp only [open_] at outcome fire delay
      exact ⟨outcome.u8, fire.time, delay.u16⟩
    · have done_ : (c.state == .done) = true := by simpa using hs
      simp only [done_, if_true, Cue.outcomeCode, Cue.fireTime?, hg] at outcome fire delay
      exact ⟨outcome.u8, fire.time, delay.u16⟩
    · have done_ : (c.state == .done) = true := by simpa using hs
      simp only [done_, if_true, Cue.outcomeCode, Cue.fireTime?, hg] at outcome fire delay
      refine ⟨?_, fire.time, delay.u16⟩
      rw [outcome.u8_toByte]
      split <;> rfl
  case entry =>
    subst hb
    have size : 22 + (shadowBytes e.shadow).length = o := by
      rw [length_shadowBytes]
      omega
    obtain ⟨position, ident, bound, pinned, stored, source, clamped, figures, shadow, unbind, age, power⟩ :=
      fields_idEntryBytes (field_refl (idEntryBytes s k e))
    rw [size] at unbind
    rw [← Nat.add_assoc, size] at age power
    obtain ⟨pairs, shadowed, unused⟩ := fields_shadowBytes shadow
    refine ⟨?_, fun h => by omega, position.u8_toByte.trans (Nat.mod_eq_of_lt (by have := k.isLt; omega)), ident.ident,
      bound.index (by omega), pinned.flag, fun hf => ?_, fun g hf => ?_, figures.profile, pairs.u8_toByte,
      fun i hi => carriesPair (shadowed.nth length_pairBytes hi), fun i hl hi => ?_, unbind.time, fun h => ?_,
      fun t hbd hp hu => ?_, fun hbd => ?_, fun p hbd => ?_⟩
    · simp only [idEntryBytes, List.length_append, List.length_cons, List.length_nil, length_identBytes, length_optIndex,
        length_profileBytes, length_optTime, length_le16]
      omega
    · simp only [hf] at stored source clamped
      exact ⟨stored.u8, source.u8, clamped.u8⟩
    · simp only [hf] at stored source clamped
      refine ⟨stored.u8, source.u8_toByte.trans ?_, clamped.flag⟩
      show sourceCode g.overridden % 256 = _
      cases g.overridden <;> rfl
    · have := unused.zeros (k := i - (23 + 2 * e.shadow.length)) (by omega)
      rwa [show 22 + (1 + 2 * e.shadow.length) + (i - (23 + 2 * e.shadow.length)) = i by omega] at this
    · have none_ : s.ageOf e = 0 := by
        unfold State.ageOf
        cases hu : e.unbind with
        | none => rfl
        | some t =>
          refine if_pos ?_
          simpa [hu] using h
      rw [age.u16, none_]
    · rw [age.u16, State.ageOf, hu]
      simp [hbd, hp]
    · rw [power.code, hbd]
      rfl
    · rw [power.code, hbd]
      show (s.port p).power.code % 256 = _
      cases (s.port p).power <;> rfl
  case get =>
    refine (exec_taken (k := .stationGet) ht).trans ?_
    show (.next (serveStationGet r.tag r.body s) : Result) = _
    unfold serveStationGet
    rw [stationOf?_val h]
    rfl
  case noStation =>
    refine (exec_taken (k := .stationGet) ht).trans ?_
    show (.next (serveStationGet r.tag r.body s) : Result) = _
    unfold serveStationGet
    rw [stationOf?_none h]
    rfl
  case badCue =>
    refine (exec_taken (k := .cueList) ht).trans ?_
    exact congrArg Host.Outcome.next (if_pos h)
  case cues =>
    obtain ⟨n, he, hn, hl, hg⟩ := fitting_eq 505 ((s.cues.drop (u8 r.body 0)).map Cue.bytes)
    simp only [List.length_map, ← List.map_take, ← List.flatMap_def] at he hn hl hg
    refine ⟨n, ?_, hl, hn, hg⟩
    refine (exec_taken (k := .cueList) ht).trans ?_
    refine congrArg Host.Outcome.next ((if_neg (by omega)).trans ?_)
    simp only [he, List.length_map, List.length_take, Nat.min_eq_left hn, ← List.flatMap_def]
    rfl
  case badId =>
    refine (exec_taken (k := .idList) ht).trans ?_
    exact congrArg Host.Outcome.next (if_pos h)
  case ids =>
    have entries : (s.entriesFrom (u8 r.body 0)).map (fun e => idEntryBytes s e.1 e.2) = allPositions.filterMap (fun k =>
        if u8 r.body 0 ≤ k.val then (s.entryAt k).map (idEntryBytes s k) else none) := by
      rw [State.entriesFrom, List.map_filterMap]
      refine List.filterMap_congr fun k _ => ?_
      split <;> simp [Function.comp_def]
    have count : (s.entriesFrom (u8 r.body 0)).length =
        (allPositions.filter (fun k => decide (u8 r.body 0 ≤ k.val) && (s.entryAt k).isSome)).length := by
      rw [State.entriesFrom, List.length_filterMap_eq_countP, List.countP_eq_length_filter]
      congr 1
      refine List.filter_congr fun k _ => ?_
      by_cases hk : u8 r.body 0 ≤ k.val <;> simp [hk]
    refine ⟨match ((s.entriesFrom (u8 r.body 0)).drop 8).head? with
      | some e => toByte e.1.val
      | none => 0xFF#8, (exec_taken (k := .idList) ht).trans (congrArg Host.Outcome.next ((if_neg (by omega)).trans ?_))⟩
    rw [← entries, ← List.map_take, ← List.flatMap_def, ← count, ← List.length_take]
    cases s.walk <;> rfl

end Sys2Proof.Machine

namespace Sys2Proof.Machine

/-! # Proofs: the writes through the part (R31, R48, R49, R50) -/

/-! ## The tables a write changes -/

section Tables

variable {s : State} {p : PortId} {pr : Pair} {l : List Pair}

theorem writeThrough_spec (p : PortId) (pr : Pair) (ok : Bool) (s : State) :
    (writeThrough p pr ok s).adv = s.adv.filter (fun e => !(e.port == p && e.attr == pr.attr)) ∧
    (writeThrough p pr ok s).ports = s.ports ∧ (writeThrough p pr ok s).still = s.still ∧
    (writeThrough p pr ok s).cues = s.cues := by
  unfold writeThrough
  dsimp only
  repeat' split
  all_goals exact ⟨rfl, rfl, rfl, rfl⟩

theorem table_writeThrough {ok : Bool} (h : ok = false ∨ s.boundPos p = none) : (writeThrough p pr ok s).table = s.table := by
  have pos : (dropEntry p pr.attr s).boundPos p = s.boundPos p := rfl
  unfold writeThrough
  dsimp only
  rcases h with rfl | hb
  · rfl
  · rw [pos, hb]
    split <;> rfl

theorem shadow_writeThrough {k : Position} {e : IdEntry} (hb : s.boundPos p = some k) (he : s.entryAt k = some e) :
    (writeThrough p pr true s).entryAt k = some { e with shadow := updateShadow pr e.shadow } ∧
      ∀ j, j ≠ k → (writeThrough p pr true s).entryAt j = s.entryAt j := by
  have set : writeThrough p pr true s =
      (dropEntry p pr.attr s).setEntry k (some { e with shadow := updateShadow pr e.shadow }) := by
    have pos : (dropEntry p pr.attr s).boundPos p = some k := hb
    have entry : (dropEntry p pr.attr s).entryAt k = some e := he
    unfold writeThrough
    dsimp only
    rw [if_pos rfl, pos]
    dsimp only
    rw [entry]
    rfl
  rw [set]
  exact ⟨entryAt_setEntry_self _ _ _, fun j hj => entryAt_setEntry_ne hj.symm _ _⟩

/-- A shadow holds a pair once per number, in the order of the numbers. -/
theorem mem_updateShadow (pr : Pair) (h : l.Pairwise (fun a b => a.attr < b.attr)) (q : Pair) :
    q ∈ updateShadow pr l ↔ q = pr ∨ (q ∈ l ∧ q.attr ≠ pr.attr) := by
  induction l with
  | nil => simp [updateShadow]
  | cons x xs ih =>
    obtain ⟨above, rest⟩ := List.pairwise_cons.1 h
    have apart {n : Nat} (hn : n ≤ x.attr) : ∀ y ∈ xs, y.attr ≠ n := fun y hy => by
      have := above y hy
      omega
    unfold updateShadow
    split
    · rename_i heq
      rw [List.mem_cons, List.mem_cons]
      refine or_congr_right ⟨fun hq => ⟨.inr hq, apart (by omega) q hq⟩, ?_⟩
      rintro ⟨rfl | hq, hne⟩
      · exact absurd heq.symm hne
      · exact hq
    · split
      · rename_i hlt
        rw [List.mem_cons, List.mem_cons]
        refine or_congr_right ⟨fun hq => ⟨hq, ?_⟩, And.left⟩
        rcases hq with rfl | hq
        · omega
        · exact apart (by omega) q hq
      · rename_i hne _
        rw [List.mem_cons, List.mem_cons, ih rest]
        constructor
        · rintro (rfl | rfl | ⟨hq, hn⟩)
          · exact .inr ⟨.inl rfl, Ne.symm hne⟩
          · exact .inl rfl
          · exact .inr ⟨.inr hq, hn⟩
        · rintro (rfl | ⟨rfl | hq, hn⟩)
          · exact .inr (.inl rfl)
          · exact .inl rfl
          · exact .inr (.inr ⟨hq, hn⟩)

theorem pairwise_updateShadow (pr : Pair) (h : l.Pairwise (fun a b => a.attr < b.attr)) :
    (updateShadow pr l).Pairwise (fun a b => a.attr < b.attr) := by
  induction l with
  | nil => simp [updateShadow]
  | cons x xs ih =>
    obtain ⟨above, rest⟩ := List.pairwise_cons.1 h
    unfold updateShadow
    split
    · rename_i heq
      exact List.pairwise_cons.2 ⟨fun y hy => by have := above y hy; omega, rest⟩
    · split
      · rename_i hlt
        refine List.pairwise_cons.2 ⟨fun y hy => ?_, h⟩
        rcases List.mem_cons.1 hy with rfl | hy
        · exact hlt
        · have := above y hy
          omega
      · refine List.pairwise_cons.2 ⟨fun y hy => ?_, ih rest⟩
        rcases (mem_updateShadow pr rest y).1 hy with rfl | ⟨hy, -⟩
        · omega
        · exact above y hy

/-- The entries a new one joins: those of other numbers, without the oldest of a full table. -/
def keptEntries (p : PortId) (attr : Nat) (adv : List AdvEntry) : List AdvEntry :=
  let others := adv.filter (fun e => !(e.port == p && e.attr == attr))
  if others.length < 32 then others else others.drop 1

theorem adv_appendEntry (p : PortId) (pr : Pair) (v : Bool) (life : Nat) (s : State) : (appendEntry p pr v life s).adv =
    keptEntries p pr.attr s.adv ++ [⟨p, pr.attr, pr.value, v, s.clock, addMs s.clock (life * 1000)⟩] := rfl

theorem keptEntries_full {adv : List AdvEntry} {attr : Nat} (h : adv.length ≤ 32)
    (hf : (adv.filter (fun e => !(e.port == p && e.attr == attr))).length = 32) : keptEntries p attr adv = adv.drop 1 := by
  have whole : adv.filter (fun e => !(e.port == p && e.attr == attr)) = adv :=
    List.filter_sublist.eq_of_length_le (by omega)
  unfold keptEntries
  dsimp only
  rw [if_neg (by omega), whole]

end Tables

/-! ## What a write leaves of the job in flight -/

section Writes

variable {s : State} {p : PortId} {e : Exchange} {j : Job} {js : List Job} {pr : Pair} {st d : Byte}

theorem writeThrough_modPort (p : PortId) (pr : Pair) (ok : Bool) (f : Port → Port) (s : State) :
    writeThrough p pr ok (s.modPort p f) = (writeThrough p pr ok s).modPort p f := by
  have pos : (dropEntry p pr.attr (s.modPort p f)).boundPos p = (dropEntry p pr.attr s).boundPos p := rfl
  unfold writeThrough
  dsimp only
  rw [pos]
  cases ok with
  | false => rfl
  | true =>
    rw [if_pos rfl, if_pos rfl]
    cases (dropEntry p pr.attr s).boundPos p <;> rfl

theorem appendEntry_modPort (p : PortId) (pr : Pair) (v : Bool) (life : Nat) (f : Port → Port) (s : State) :
    appendEntry p pr v life (s.modPort p f) = (appendEntry p pr v life s).modPort p f := rfl

/-- A write of a job: through the part, with the advance entry that the job makes of it. -/
def wrote (p : PortId) (pr : Pair) (ok entry : Bool) (life : Nat) (s : State) : State :=
  if entry then appendEntry p pr ok life (writeThrough p pr ok s) else writeThrough p pr ok s

theorem wrote_modPort (p : PortId) (pr : Pair) (ok entry : Bool) (life : Nat) (f : Port → Port) (s : State) :
    wrote p pr ok entry life (s.modPort p f) = (wrote p pr ok entry life s).modPort p f := by
  unfold wrote
  rw [writeThrough_modPort]
  cases entry <;> rfl

theorem wrote_spec (p : PortId) (pr : Pair) (ok entry : Bool) (life : Nat) (s : State) :
    (wrote p pr ok entry life s).ports = s.ports ∧ (wrote p pr ok entry life s).still = s.still ∧
    (wrote p pr ok entry life s).cues = s.cues ∧ (ok = false → (wrote p pr ok entry life s).table = s.table) := by
  obtain ⟨-, ports, still, cues⟩ := writeThrough_spec p pr ok s
  have table (h : ok = false) : (writeThrough p pr ok s).table = s.table := table_writeThrough (.inl h)
  unfold wrote
  split <;> exact ⟨ports, still, cues, table⟩

theorem port_wrote (p q : PortId) (pr : Pair) (ok entry : Bool) (life : Nat) (s : State) :
    (wrote p pr ok entry life s).port q = s.port q := by
  unfold State.port
  rw [(wrote_spec p pr ok entry life s).1]

/-- The two parts of a write of a job, one after the other, are the write. -/
theorem recordWrite_writeThrough (h : (s.port p).power.isLost = false) (ok entry : Bool) (life : Nat) :
    (if entry then recordWrite p pr ok life (writeThrough p pr ok s) else writeThrough p pr ok s) =
      wrote p pr ok entry life s := by
  have lost : ((writeThrough p pr ok s).port p).power.isLost = false := by
    unfold State.port
    rw [(writeThrough_spec p pr ok s).2.1]
    exact h
  unfold wrote recordWrite
  rw [lost]
  rfl

theorem throughPart_iff (he : e.op = .write) : e.throughPart = true ↔ 16 ≤ e.attr ∧ e.attr ≤ 23 := by
  simp [Exchange.throughPart, he, isCapture]

theorem power_handed (s : State) (p : PortId) (a : Bool) : ((s.handed p a).port p).power = (s.port p).power := by
  unfold State.handed
  rw [port_modPort_self]
  unfold Port.runCleared
  split <;> rfl

theorem handed_wrote (pr : Pair) (ok entry : Bool) (life : Nat) (s : State) (a : Bool) :
    wrote p pr ok entry life (s.handed p a) = (wrote p pr ok entry life s).handed p a := wrote_modPort ..

/-- A job in flight goes on with what it has left. -/
theorem handed_head (h : (s.port p).queue = j :: js) (k : JobKind) (a : Bool) :
    setHead p k (s.handed p a) = s.jobDone p a ({ j with kind := k } :: js) := by
  unfold setHead State.handed State.jobDone
  rw [modPort_modPort]
  refine modPort_congr ?_
  have record : ({ s.port p with attention := a, lane := none } : Port).runCleared = { s.port p with
      attention := a, lane := none, run := if (s.port p).power.isFault = true ∧ (s.port p).run = 3 then 3 else 0 } := by
    unfold Port.runCleared
    dsimp only
    by_cases hf : (s.port p).power.isFault = true ∧ (s.port p).run = 3
    · rw [if_pos (by simpa using hf), if_pos hf, ← hf.2]
    · rw [if_neg (by simpa using hf), if_neg hf]
  rw [record]
  simp only [h]

/-- What a job's write does that succeeds, and what is left of it for the job. -/
theorem exec_laneResponse_write (h : JobSucceeds p e j js st d s) (he : e.op = .write) (ha : e.attr = pr.attr)
    (hd : e.data = pr.value) (lo : 16 ≤ pr.attr) (hi : pr.attr ≤ 23) (a : Bool) :
    exec (.laneResponse p st d (responseCheck st d) a) s =
      .next (finish (jobSuccess p j st d (writeThrough p pr true (s.handed p a)))) := by
  rw [exec_laneResponse_job h a, if_pos ((throughPart_iff he).2 (by omega)), ha, hd]

theorem exec_responseLimitExpiry_write (h : JobFails p e j js s) (he : e.op = .write) (ha : e.attr = pr.attr)
    (lo : 16 ≤ pr.attr) (hi : pr.attr ≤ 23) (a : Bool) :
    exec (.responseLimitExpiry p a) s = .next (finish (jobFailure p j (writeThrough p pr false (s.failed p a)))) := by
  rw [exec_responseLimitExpiry_job h a, if_pos ((throughPart_iff he).2 (by omega)), ha]
  rfl

/-- What a write of a job that failed leaves of the machine, once the job has left the queue. -/
theorem wrote_jobFailed (h : (s.port p).run < 2) (pr : Pair) (entry : Bool) (life : Nat) (a : Bool) :
    (wrote p pr false entry life (s.failed p a)).modPort p (fun c => { c with queue := c.queue.tail }) =
        wrote p pr false entry life (s.jobFailed p a) ∧
      (wrote p pr false entry life (s.jobFailed p a)).adv = (wrote p pr false entry life s).adv ∧
      (wrote p pr false entry life (s.jobFailed p a)).cues = s.cues ∧
      (wrote p pr false entry life (s.jobFailed p a)).table = s.table ∧
      (wrote p pr false entry life (s.jobFailed p a)).still = s.still ∧
      ((wrote p pr false entry life (s.jobFailed p a)).port p).power = (s.port p).power ∧
      ((wrote p pr false entry life (s.jobFailed p a)).port p).run = (s.port p).run + 1 ∧
      ((wrote p pr false entry life (s.jobFailed p a)).port p).grade = none ∧
      ((wrote p pr false entry life (s.jobFailed p a)).port p).lane = none ∧
      ∀ q, q ≠ p → (wrote p pr false entry life (s.jobFailed p a)).port q = s.port q := by
  obtain ⟨power, grade, run, lane, adv, cues, table, still, others⟩ := jobFailed_spec h a
  obtain ⟨-, still', cues', table'⟩ := wrote_spec p pr false entry life (s.jobFailed p a)
  have clock : (s.jobFailed p a).clock = s.clock := (congrArg Prod.fst still :)
  have through : (writeThrough p pr false (s.jobFailed p a)).adv = (writeThrough p pr false s).adv := by
    rw [(writeThrough_spec p pr false _).1, (writeThrough_spec p pr false _).1, adv]
  have now (v : State) : (writeThrough p pr false v).clock = v.clock := rfl
  refine ⟨(wrote_modPort ..).symm, ?_, cues'.trans cues, (table' rfl).trans table, still'.trans still, ?_, ?_, ?_, ?_, ?_⟩
  · unfold wrote
    split
    · rw [adv_appendEntry, adv_appendEntry, through, now, now, clock]
    · exact through
  · rw [port_wrote, power]
  · rw [port_wrote, run]
  · rw [port_wrote, grade]
  · rw [port_wrote, lane]
  · intro q hq
    rw [port_wrote, others q hq]

end Writes

end Sys2Proof.Machine

namespace Sys2Proof.Machine

/-! # Proofs: the ends of the jobs that write (R31, R49, R50) -/

section Ends

variable {s : State} {p : PortId} {e : Exchange} {j : Job} {js : List Job} {pr : Pair} {rest : List Pair} {st d : Byte}
  {cue : Nat} {keep : Bool} {life expiry seq : Nat}

theorem jobSuccess_prep (hk : j.kind = .prepWrite cue keep (pr :: rest)) (hl : (s.port p).power.isLost = false) (st d : Byte) :
    jobSuccess p j st d (writeThrough p pr true s) =
      if j.cut then jobEnd p j id (wrote p pr true (keep && !j.noEntry) 60 s)
      else if rest.isEmpty then jobEnd p j (prepEnd cue p true) (wrote p pr true (keep && !j.noEntry) 60 s)
      else setHead p (.prepWrite cue keep rest) (wrote p pr true (keep && !j.noEntry) 60 s) := by
  rw [← recordWrite_writeThrough hl]
  simp only [jobSuccess, hk]

theorem jobFailure_prep (hk : j.kind = .prepWrite cue keep (pr :: rest)) (hl : (s.port p).power.isLost = false) :
    jobFailure p j (writeThrough p pr false s) =
      jobEnd p j (if j.cut then id else prepEnd cue p false) (wrote p pr false (keep && !j.noEntry) 60 s) := by
  rw [← recordWrite_writeThrough hl]
  simp only [jobFailure, hk]

theorem jobSuccess_ahead (hk : j.kind = .aheadWrite (pr :: rest) life expiry seq) (hl : (s.port p).power.isLost = false)
    (st d : Byte) : jobSuccess p j st d (writeThrough p pr true s) =
      if j.cut || rest.isEmpty then jobEnd p j id (wrote p pr true (!j.noEntry) life s)
      else setHead p (.aheadWrite rest life expiry seq) (wrote p pr true (!j.noEntry) life s) := by
  rw [← recordWrite_writeThrough hl]
  simp only [jobSuccess, hk]
  cases j.noEntry <;> rfl

theorem jobFailure_ahead (hk : j.kind = .aheadWrite (pr :: rest) life expiry seq) (hl : (s.port p).power.isLost = false) :
    jobFailure p j (writeThrough p pr false s) =
      if j.cut || rest.isEmpty then jobEnd p j id (wrote p pr false (!j.noEntry) life s)
      else setHead p (.aheadWrite rest life expiry seq) (wrote p pr false (!j.noEntry) life s) := by
  rw [← recordWrite_writeThrough hl]
  simp only [jobFailure, hk]
  cases j.noEntry <;> rfl

/-- The end of a job in flight whose exchange succeeded, by whether it is an event for PAUSING. -/
theorem jobEnd_handed (hq : (s.port p).queue = j :: js) (hj : j.holdsPause = true) (f : State → State) (a : Bool) :
    jobEnd p j f (s.handed p a) = pausingEvent p ((f (s.jobDone p a js)).modPort p Port.serveRoom) := by
  have hh : ((s.handed p a).port p).queue = j :: js := by rw [queue_handed, hq]
  rw [jobEnd_holdsPause hh hj, ← modPort_tail hh, handed_tail hq]

theorem jobEnd_handed_ahead (hq : (s.port p).queue = j :: js) (hk : j.kind = .aheadWrite (pr :: rest) life expiry seq) (a : Bool) :
    jobEnd p j id (s.handed p a) = (s.jobDone p a js).modPort p Port.serveRoom := by
  have hh : ((s.handed p a).port p).queue = j :: js := by rw [queue_handed, hq]
  rw [jobEnd_quiet hh (by simp [Job.holdsPause, Job.isHost, Job.isPrep, hk]) (by simp [Job.isPowerMode, hk])
    (by simp [Job.isPoll, hk]), ← modPort_tail hh, handed_tail hq]
  rfl

theorem prep_holdsPause {pairs : List Pair} (hk : j.kind = .prepWrite cue keep pairs) : j.holdsPause = true := by
  simp [Job.holdsPause, Job.isHost, Job.isPrep, hk]

/-- The end of a preparation is taken by the PREPARING cue whose member is WRITING. -/
theorem prepEnd_complete {c : Cue} {m : Member} (hc : s.cue? cue = some c) (hs : c.state = .preparing)
    (hm : c.members.find? (fun m => m.port == p) = some m) (hw : m.prep = .writing) :
    prepEnd cue p true s = { s with cues := s.cues.map (fun x : Cue =>
      if x.id = cue then x.modMember p ({ · with prep := .complete }) else x) } := by
  simp [prepEnd, hc, Cue.member?, hm, hs, hw, setPrep, modCue]

/-- The jobs behind one that has failed stay in front of those that its failure owes. -/
theorem failed_rest (h : (s.port p).run < 2) (hq : (s.port p).queue = j :: js) (a : Bool) :
    ∃ ts, ((s.failed p a).port p).queue = j :: js ++ ts := by
  have hr : ((s.modPort p ({ · with attention := a })).port p).run < 2 := by rwa [port_modPort_self]
  obtain ⟨ts, ht⟩ := countFailure_queue hr
  refine ⟨ts, ?_⟩
  rw [State.failed, setLane, port_modPort_self, ← hq]
  rw [port_modPort_self] at ht
  exact ht.symm

theorem line_writeThrough (p : PortId) (pr : Pair) (ok : Bool) (s : State) : (writeThrough p pr ok s).line = s.line := by
  unfold writeThrough
  dsimp only
  repeat' split
  all_goals rfl

theorem entry_ite {b c : Bool} {x y : State} : (if b = true ∧ c = false then x else y) = if b && !c then x else y :=
  if_congr (by simp) rfl rfl

end Ends

/-- Settles O50: the tables that a write through the part changes, and the ends of the jobs that write. -/
theorem writeThrough_settled : Obligations.WriteThrough := by
  unfold Obligations.WriteThrough
  refine ⟨⟨fun p pr ok s => ?tables, fun pr l h => ⟨pairwise_updateShadow pr h, mem_updateShadow pr h⟩, fun p pr v life s h => ?append⟩,
    fun p s e j js t n x st d a h he hk ha hd => ?host, fun p s w e j js cue keep pr rest st d a h he hk ha hd lo hi hl hw => ?prep,
    fun p s e j js cue keep pr rest c m a h he hk ha lo hi hl hcut hc hs hm hw => ?prepFails,
    fun p s w e j js pr rest life expiry seq st d a h he hk ha hd lo hi hl hw => ?ahead,
    fun p s e j js pr rest life expiry seq a h he hk ha lo hi hl => ?aheadFails, fun p s => pausingEvent_other,
    fun p s e st d ch a hl hr hlo hhi hv => ?retry⟩
  case tables =>
    obtain ⟨adv, ports, still, -⟩ := writeThrough_spec p pr ok s
    refine ⟨adv, ports, still, table_writeThrough, fun k e hok hb he => ?_⟩
    subst hok
    exact shadow_writeThrough hb he
  case append =>
    exact ⟨_, adv_appendEntry p pr v life s, fun hs => if_pos hs, keptEntries_full h⟩
  case host =>
    have ⟨_, _, _, _, hq, _⟩ := h
    have handed : (if e.throughPart then writeThrough p ⟨e.attr, e.data⟩ true (s.handed p a) else s.handed p a) =
        (if 16 ≤ n ∧ n ≤ 23 then writeThrough p ⟨n, x⟩ true s else s).handed p a := by
      rw [ha, hd]
      by_cases hn : 16 ≤ n ∧ n ≤ 23
      · rw [if_pos ((throughPart_iff he).2 (ha ▸ hn)), if_pos hn]
        exact writeThrough_modPort ..
      · rw [if_neg (mt (throughPart_iff he).1 (ha ▸ hn)), if_neg hn]
    have queue : ((if 16 ≤ n ∧ n ≤ 23 then writeThrough p ⟨n, x⟩ true s else s).port p).queue = j :: js := by
      split
      · unfold State.port
        rw [(writeThrough_spec p ⟨n, x⟩ true s).2.1]
        exact hq
      · exact hq
    have line : (if 16 ≤ n ∧ n ≤ 23 then writeThrough p ⟨n, x⟩ true s else s).line = s.line := by
      split
      · exact line_writeThrough p _ true s
      · rfl
    generalize (if 16 ≤ n ∧ n ≤ 23 then writeThrough p ⟨n, x⟩ true s else s) = w at handed queue line ⊢
    rw [exec_laneResponse_job h a, handed]
    simp only [jobSuccess, hk]
    rw [jobEnd_handed queue (by simp [Job.holdsPause, Job.isHost, hk]), giveAnswer,
      show (w.jobDone p a js).line = s.line from line]
    rfl
  case prep =>
    have ⟨_, _, _, _, hq, _⟩ := h
    have hw' : w = wrote p pr true (keep && !j.noEntry) 60 s := hw.trans entry_ite
    have queue : (w.port p).queue = j :: js := by rw [hw', port_wrote, hq]
    have run : exec (.laneResponse p st d (responseCheck st d) a) s = .next (finish (
        if j.cut then jobEnd p j id (w.handed p a) else if rest.isEmpty then jobEnd p j (prepEnd cue p true) (w.handed p a)
        else setHead p (.prepWrite cue keep rest) (w.handed p a))) := by
      rw [exec_laneResponse_write h he ha hd lo hi, jobSuccess_prep hk (by rw [power_handed, hl]), handed_wrote, ← hw']
    rw [run]
    refine ⟨fun hr hc => ?_, fun hc => ?_, fun c m hr hc hcue hs hm hwr => ?_⟩
    · rw [if_neg (by simp [hc]), if_neg (by simpa using hr), handed_head queue]
    · rw [if_pos hc, jobEnd_handed queue (prep_holdsPause hk)]
      rfl
    · have cues : (w.jobDone p a js).cues = s.cues := by rw [hw']; exact (wrote_spec p pr true _ 60 s).2.2.1
      have found : (w.jobDone p a js).cue? cue = some c := by rw [State.cue?, cues]; exact hcue
      rw [if_neg (by simp [hc]), if_pos (by simp [hr]), jobEnd_handed queue (prep_holdsPause hk),
        prepEnd_complete found hs hm hwr, cues]
  case prepFails =>
    have ⟨_, _, _, _, hq, _, hrun⟩ := h
    let w : State := wrote p pr false (keep && !j.noEntry) 60 (s.jobFailed p a)
    obtain ⟨tail, adv, cues, table, still, power, run, grade, lane, others⟩ :=
      wrote_jobFailed hrun pr (keep && !j.noEntry) 60 a
    obtain ⟨ks, hks⟩ := failed_queue hrun hq a
    have queue : ((wrote p pr false (keep && !j.noEntry) 60 (s.failed p a)).port p).queue = j :: ks := by rw [port_wrote, hks]
    have lost : ((s.failed p a).port p).power.isLost = false := by
      have kept : ((s.failed p a).port p).power = (s.port p).power := failed_record Port.power hrun a
      rw [kept, hl]
    have found : w.cue? cue = some c := by rw [State.cue?, cues]; exact hc
    have ended := prepEnd_writing found hs hm hw
    rw [cues] at ended
    refine ⟨prepEnd cue p false w, ?_, ?_⟩
    · rw [exec_responseLimitExpiry_write h he ha lo hi, jobFailure_prep hk lost, hcut,
        jobEnd_holdsPause queue (prep_holdsPause hk), ← modPort_tail queue, tail]
      rfl
    · rw [ended]
      refine ⟨rfl, ?_, table, still, power, run, grade, lane, others⟩
      rw [entry_ite]
      exact adv
  case ahead =>
    have ⟨_, _, _, _, hq, _⟩ := h
    have hw' : w = wrote p pr true (!j.noEntry) life s := hw.trans (if_congr (by simp) rfl rfl)
    have queue : (w.port p).queue = j :: js := by rw [hw', port_wrote, hq]
    have run : exec (.laneResponse p st d (responseCheck st d) a) s = .next (finish (
        if j.cut || rest.isEmpty then jobEnd p j id (w.handed p a)
        else setHead p (.aheadWrite rest life expiry seq) (w.handed p a))) := by
      rw [exec_laneResponse_write h he ha hd lo hi, jobSuccess_ahead hk (by rw [power_handed, hl]), handed_wrote, ← hw']
    rw [run]
    refine ⟨fun hr hc => ?_, fun hrc => ?_⟩
    · rw [if_neg (by simp [hc, hr]), handed_head queue]
    · rw [if_pos (by rcases hrc with hr | hc <;> simp [*]), jobEnd_handed_ahead queue hk]
  case aheadFails =>
    have ⟨_, _, _, _, hq, _, hrun⟩ := h
    have entry (v : State) : (if j.noEntry = false then appendEntry p pr false life (writeThrough p pr false v)
        else writeThrough p pr false v) = wrote p pr false (!j.noEntry) life v := if_congr (by simp) rfl rfl
    obtain ⟨tail, adv, cues, table, still, power, run, grade, lane, others⟩ := wrote_jobFailed hrun pr (!j.noEntry) life a
    obtain ⟨ts, hts⟩ := failed_rest hrun hq a
    let v : State := wrote p pr false (!j.noEntry) life (s.failed p a)
    have queue : (v.port p).queue = j :: (js ++ ts) := by rw [port_wrote, hts]; rfl
    have lost : ((s.failed p a).port p).power.isLost = false := by
      have kept : ((s.failed p a).port p).power = (s.port p).power := failed_record Port.power hrun a
      rw [kept, hl]
    have expiry_ : exec (.responseLimitExpiry p a) s = .next (finish (if j.cut || rest.isEmpty then jobEnd p j id v
        else setHead p (.aheadWrite rest life expiry seq) v)) := by
      rw [exec_responseLimitExpiry_write h he ha lo hi, jobFailure_ahead hk lost]
    by_cases hgo : rest ≠ [] ∧ j.cut = false
    · obtain ⟨hr, hc⟩ := hgo
      have head : setHead p (.aheadWrite rest life expiry seq) v = v.modPort p (fun c => { c with
          queue := { j with kind := .aheadWrite rest life expiry seq } :: (js ++ ts) }) := modPort_congr (by simp only [queue])
      refine ⟨setHead p (.aheadWrite rest life expiry seq) v, ?_, fun _ _ => ?_, fun h => ?_, ?_⟩
      · rw [expiry_, if_neg (by simp [hc, hr]), if_pos ⟨hr, hc⟩]
      · rw [head, port_modPort_self]
        rfl
      · rcases h with h | h
        · exact absurd h hr
        · exact absurd hc (by simp [h])
      · rw [head, entry]
        rw [← tail] at adv cues table still power run grade lane others
        rw [port_modPort_self] at power run grade lane
        rw [port_modPort_self]
        refine ⟨adv, cues, table, still, power, run, grade, lane, fun q hq => ?_⟩
        have := others q hq
        rw [port_modPort_ne hq.symm] at this ⊢
        exact this
    · have ends : (j.cut || rest.isEmpty) = true := by
        by_contra hne
        exact hgo (by simpa [and_comm] using hne)
      refine ⟨wrote p pr false (!j.noEntry) life (s.jobFailed p a), ?_, fun hr hc => absurd ⟨hr, hc⟩ hgo, fun _ => ?_, ?_⟩
      · rw [expiry_, if_pos ends, if_neg hgo, jobEnd_quiet queue (by simp [Job.holdsPause, Job.isHost, Job.isPrep, hk])
          (by simp [Job.isPowerMode, hk]) (by simp [Job.isPoll, hk]), ← modPort_tail queue, tail]
        rfl
      · rw [port_wrote]
        unfold State.jobFailed
        rw [port_modPort_self, hts]
        simp
      · refine ⟨?_, cues, table, still, power, run, grade, lane, others⟩
        rw [entry]
        exact adv
  case retry =>
    have limit : s.limitMayBeReached p = true := by simp [State.limitMayBeReached, hl, hlo]
    have expiry : exec (.responseLimitExpiry p a) s =
        .next (finish (attemptFailed p e (s.modPort p ({ · with attention := a })))) := by
      show execResponseLimitExpiry p a s = _
      simp only [execResponseLimitExpiry, hl, limit, if_true]
    rw [exec_laneResponse hl hhi, judgeResponse, hv, if_neg Bool.false_ne_true, expiry]

end Sys2Proof.Machine

namespace Sys2Proof.Machine

/-! # Proofs: the removal of the AHEAD writes of a port (R151, R155, R157) -/

/-! ## The jobs of a kind that are removed, the one in flight cut -/

section Cut

variable {c d e : Port} {j : Job} {js : List Job} {n : Nat} {f : Job → Bool}

/-- Room was served: jobs of the line, and jobs that the port owes itself, have joined the tail of the queue. -/
structure Port.Served (c d : Port) : Prop where
  queue : ∃ ts, d.queue = c.queue ++ ts ∧ ∀ j ∈ ts, j ∈ c.waitLine ∨ j.dropped = false
  line : d.waitLine <:+ c.waitLine

namespace Port.Served

theorem trans (h : c.Served d) (g : d.Served e) : c.Served e := by
  obtain ⟨ts, hq, ht⟩ := h.queue
  obtain ⟨us, gq, gt⟩ := g.queue
  refine ⟨⟨ts ++ us, by rw [gq, hq, List.append_assoc], fun j hj => ?_⟩, g.line.trans h.line⟩
  rcases List.mem_append.1 hj with hj | hj
  · exact ht j hj
  · exact (gt j hj).imp_left fun hw => h.line.subset hw

theorem of_owed {k : JobKind} (hk : (Job.mk' k).dropped = false) (b : Bool) (m : Nat)
    (hq : d.queue = c.queue ++ (if b then [Job.mk' k] else []).take m) (hw : d.waitLine = c.waitLine) : c.Served d := by
  refine ⟨⟨_, hq, fun j hj => .inr ?_⟩, hw ▸ List.suffix_rfl⟩
  have := List.mem_of_mem_take hj
  cases b with
  | false => simp at this
  | true => rw [List.mem_singleton.1 this, hk]

theorem serveUpTo (n : Nat) (c : Port) : c.Served (c.serveUpTo n) := by
  have poll : c.Served (c.servePoll n) := of_owed (k := .poll) rfl _ _ (by rw [servePoll_eq]; rfl) (by rw [servePoll_eq])
  have thermal (c : Port) : c.Served (c.serveThermal n) :=
    of_owed (k := .thermalRead) rfl _ _ (by rw [serveThermal_eq]; rfl) (by rw [serveThermal_eq])
  have ping (c : Port) : c.Served (c.servePing n) :=
    of_owed (k := .ping) rfl _ _ (by rw [servePing_eq]; rfl) (by rw [servePing_eq])
  have line (c : Port) : c.Served (c.serveLine n) :=
    ⟨⟨_, rfl, fun j hj => .inl (List.mem_of_mem_take hj)⟩, List.drop_suffix _ _⟩
  exact ((poll.trans (thermal _)).trans (ping _)).trans (line _)

end Port.Served

/-- The jobs of a kind of a port are removed, and the one in flight is cut (R52, R155). -/
def Port.cutJobs (f : Job → Bool) (c : Port) : Port := (c.removeJobs f).cutFlight f true

theorem body_cutJobs (f : Job → Bool) (c : Port) : (c.cutJobs f).body = c.body := by
  rw [Port.cutJobs, body_cutFlight, body_removeJobs]

variable (hf : ∀ j : Job, f j = true → j.dropped = true)
include hf

/-- What joins the queue where room is served is of none of the kinds removed. -/
theorem served_other {ts : List Job} (h : ∀ j ∈ ts, j ∈ (c.without f).waitLine ∨ j.dropped = false) : ∀ j ∈ ts, f j = false := by
  intro j hj
  rcases h j hj with hw | hd
  · simpa using (List.mem_filter.1 hw).2
  · cases h : f j
    · rfl
    · rw [hf j h] at hd
      exact absurd hd (by decide)

/-- The queue once the jobs of a kind are removed and the one in flight is cut: none was in flight; or it stays, cut; or it has
left. What has joined the queue is of another kind. -/
theorem queue_cutJobs (c : Port) : ∃ ts : List Job,
    (∀ j ∈ ts, f j = false) ∧ (c.cutJobs f).waitLine <:+ (c.without f).waitLine ∧
    (((c.cutJobs f).queue = (c.without f).queue ++ ts ∧
        ∀ j js, (c.without f).queue = j :: js → j.started = true → f j = false) ∨
      ∃ j js, (c.without f).queue = j :: js ∧ j.started = true ∧ f j = true ∧
        (c.laneHasJob = true ∧ (c.cutJobs f).queue = { j with cut := true, noEntry := true } :: js ++ ts ∨
          c.laneHasJob = false ∧ (c.cutJobs f).queue = js ++ ts)) := by
  have served : (c.without f).Served (c.removeJobs f) := Port.Served.serveUpTo _ _
  obtain ⟨ts, hq, ht⟩ := served.queue
  have other := served_other hf ht
  have lane : (c.removeJobs f).laneHasJob = c.laneHasJob := field_of_body (body_removeJobs c f) Port.laneHasJob
  rcases cutFlight_cases f true (c.removeJobs f) with ⟨he, hn⟩ | ⟨j, is, hi, hs, hj, hcut⟩
  · refine ⟨ts, other, by rw [Port.cutJobs, he]; exact served.line, .inl ⟨by rw [Port.cutJobs, he, hq], fun j js hc hs => ?_⟩⟩
    exact hn j (js ++ ts) (by rw [hq, hc]; rfl) hs
  · obtain ⟨js, hc, his⟩ : ∃ js, (c.without f).queue = j :: js ∧ is = js ++ ts := by
      rw [hi] at hq
      cases hw : (c.without f).queue with
      | nil =>
        rw [hw, List.nil_append] at hq
        have := other j (hq ▸ List.mem_cons_self)
        exact absurd hj (by simp [this])
      | cons x xs =>
        rw [hw] at hq
        obtain ⟨rfl, rfl⟩ := List.cons.inj hq
        exact ⟨xs, rfl, rfl⟩
    rcases hcut with ⟨hl, he⟩ | ⟨hl, he⟩
    · refine ⟨ts, other, by rw [Port.cutJobs, he]; exact served.line,
        .inr ⟨j, js, hc, hs, hj, .inl ⟨lane ▸ hl, ?_⟩⟩⟩
      rw [Port.cutJobs, he, his, Bool.or_true]
      rfl
    · have again := Port.Served.serveUpTo (c.removeJobs f).queue.length { c.removeJobs f with queue := is }
      obtain ⟨us, hu, hus⟩ := again.queue
      refine ⟨ts ++ us, fun j hj => ?_, ?_, .inr ⟨j, js, hc, hs, hj, .inr ⟨lane ▸ hl, ?_⟩⟩⟩
      · rcases List.mem_append.1 hj with hj | hj
        · exact other j hj
        · exact served_other hf (c := c) (fun j hj => (hus j hj).imp_left fun hw => served.line.subset hw) j hj
      · rw [Port.cutJobs, he]
        exact again.line.trans served.line
      · rw [Port.cutJobs, he, hu, his, List.append_assoc]

/-- Of the kind removed a job is left only in flight, and none waits. -/
theorem cutJobs_started (hfc : ∀ (j : Job) b b', f { j with cut := b, noEntry := b' } = f j) (hj : j ∈ (c.cutJobs f).queue)
    (h : f j = true) : j.started = true := by
  obtain ⟨ts, other, -, hcut⟩ := queue_cutJobs hf c
  have joined : j ∉ ts := fun hm => absurd h (by simp [other j hm])
  have kept : j ∈ (c.without f).queue → j.started = true := fun hm => by
    have := (List.mem_filter.1 hm).2
    simpa [h] using this
  rcases hcut with ⟨hq, -⟩ | ⟨i, js, hw, hs, -, ⟨-, hq⟩ | ⟨-, hq⟩⟩ <;> rw [hq] at hj
  · rcases List.mem_append.1 hj with hj | hj
    · exact kept hj
    · exact absurd hj joined
  · rcases List.mem_append.1 hj with hj | hj
    · rcases List.mem_cons.1 hj with rfl | hj
      · exact hs
      · exact kept (hw ▸ List.mem_cons_of_mem _ hj)
    · exact absurd hj joined
  · rcases List.mem_append.1 hj with hj | hj
    · exact kept (hw ▸ List.mem_cons_of_mem _ hj)
    · exact absurd hj joined

theorem cutJobs_waitLine (hj : j ∈ (c.cutJobs f).waitLine) : f j = false := by
  obtain ⟨ts, -, hw, -⟩ := queue_cutJobs hf c
  simpa using (List.mem_filter.1 (hw.subset hj)).2

section Flight

variable (hq : c.queue = j :: js) (hs : j.started = true)
include hq hs

omit hf in
theorem without_head : (c.without f).queue = j :: js.filter (fun j => !f j || j.started) := by
  unfold Port.without
  rw [hq]
  exact List.filter_cons_of_pos (p := fun j => !f j || j.started) (by simp [hs])

/-- The job in flight is cut where its exchange is on the lane. -/
theorem cutJobs_flight (h : f j = true) (hl : c.laneHasJob = true) :
    (c.cutJobs f).queue.head? = some { j with cut := true, noEntry := true } := by
  have head := without_head (f := f) hq hs
  obtain ⟨ts, -, -, hcut⟩ := queue_cutJobs hf c
  rcases hcut with ⟨-, hn⟩ | ⟨i, is, hw, -, -, ⟨-, hc⟩ | ⟨hl', -⟩⟩
  · exact absurd h (by simp [hn j _ head hs])
  · obtain ⟨rfl, -⟩ := List.cons.inj (hw.symm.trans head)
    rw [hc]
    rfl
  · exact absurd hl (by simp [hl'])

/-- It leaves the queue at once where it is not, and no other is left. -/
theorem cutJobs_idle (h : f j = true) (hl : c.laneHasJob = false) (only : c.OnlyHeadStarted) :
    ∀ i ∈ (c.cutJobs f).queue, f i = false := by
  have head := without_head (f := f) hq hs
  obtain ⟨ts, other, -, hcut⟩ := queue_cutJobs hf c
  rcases hcut with ⟨-, hn⟩ | ⟨i, is, hw, -, -, ⟨hl', -⟩ | ⟨-, hc⟩⟩
  · exact absurd h (by simp [hn j _ head hs])
  · exact absurd hl' (by simp [hl])
  · obtain ⟨-, rfl⟩ := List.cons.inj (hw.symm.trans head)
    intro i hi
    rw [hc] at hi
    rcases List.mem_append.1 hi with hi | hi
    · obtain ⟨hm, hk⟩ := List.mem_filter.1 hi
      have idle := only i (List.mem_append_left _ (by rw [hq]; exact hm))
      simpa [idle] using hk
    · exact other i hi

end Flight

/-- The jobs of other kinds keep their order in the queue. -/
theorem cutJobs_order (hfc : ∀ (j : Job) b b', f { j with cut := b, noEntry := b' } = f j) :
    c.queue.filter (fun j => !f j) <+: (c.cutJobs f).queue.filter (fun j => !f j) := by
  have same : (c.without f).queue.filter (fun j => !f j) = c.queue.filter (fun j => !f j) := by
    unfold Port.without
    rw [List.filter_filter]
    exact List.filter_congr fun j _ => by cases f j <;> simp
  obtain ⟨ts, -, -, hcut⟩ := queue_cutJobs hf c
  rcases hcut with ⟨hq, -⟩ | ⟨j, js, hw, -, hj, ⟨-, hq⟩ | ⟨-, hq⟩⟩
  · rw [hq, List.filter_append, same]
    exact List.prefix_append _ _
  · rw [hw, List.filter_cons_of_neg (by simp [hj])] at same
    rw [hq, List.cons_append, List.filter_cons_of_neg (by simp [hfc, hj]), List.filter_append, same]
    exact List.prefix_append _ _
  · rw [hw, List.filter_cons_of_neg (by simp [hj])] at same
    rw [hq, List.filter_append, same]
    exact List.prefix_append _ _

omit hf in
/-- None of them is lost. -/
theorem cutJobs_kept (hj : j ∈ c.jobs) (h : f j = false) : j ∈ (c.cutJobs f).jobs := by
  have removed : j ∈ (c.removeJobs f).jobs := (gains_removeJobs f c).kept j (mem_without.2 ⟨hj, by simp [h]⟩)
  rcases cutFlight_cases f true (c.removeJobs f) with ⟨he, -⟩ | ⟨i, is, hq, hs, hi, hcut⟩
  · rwa [Port.cutJobs, he]
  · have rest : j ∈ is ++ (c.removeJobs f).waitLine := by
      have apart : j ≠ i := by
        rintro rfl
        exact absurd hi (by simp [h])
      simpa [Port.jobs, hq, apart] using removed
    rcases hcut with ⟨-, he⟩ | ⟨-, he⟩ <;> rw [Port.cutJobs, he]
    · exact List.mem_cons_of_mem _ rest
    · exact (Port.Gains.refl _).serveUpTo.kept j rest

end Cut
/-! ## The requests and timers of R151–R157 -/

section Removal

variable {s : State} {p : PortId} {j : Job} {o : Order} {r : Request}

theorem ahead_dropped (j : Job) (h : j.isAhead = true) : j.dropped = true := by simp [Job.dropped, h]

theorem port_dropAhead (p : PortId) (s : State) :
    (dropAhead p s).port p = ({ s.port p with order := none } : Port).cutJobs Job.isAhead := port_modPort_self p _ s

/-- A named port after its AHEAD writes are dropped. -/
theorem dropAhead_forEach (ps : List PortId) (hn : ps.Nodup) (s : State) :
    (∀ p ∈ ps, (forEach ps dropAhead s).port p = ({ s.port p with order := none } : Port).cutJobs Job.isAhead) ∧
      ∀ p ∉ ps, (forEach ps dropAhead s).port p = s.port p := by
  have only (p : PortId) (u : State) : OnPort p u (dropAhead p u) := (OnPort.refl p u).modPort _ fun c hc =>
    (field_of_body (body_cutJobs Job.isAhead { c with order := none }) Port.camMark).trans hc
  obtain ⟨-, hout, hin⟩ := forEach_ports (s := s) (P := fun _ => True) dropAhead only (fun _ _ _ _ => trivial) ps hn s trivial
    (fun _ _ => rfl)
  refine ⟨fun p hp => ?_, hout⟩
  obtain ⟨w, -, hw, h⟩ := hin p hp
  rw [h, port_dropAhead, hw]

theorem nodup_portsOf (n : Nat) : (portsOf n).Nodup := nodup_allPorts.filter _

theorem contains_portsOf (n : Nat) (p : PortId) : (portsOf n).contains p = n.testBit p.val := by
  rw [Bool.eq_iff_iff, List.contains_iff_mem, mem_portsOf]

theorem returnOrder_kept (h : reachedMs s.clock o.expiry = true ∨ ∃ x, (s.port p).order = some x ∧ o.seq < x.seq) :
    returnOrder p o s = s := by
  refine if_neg ?_
  rcases h with h | ⟨x, hx, hlt⟩
  · simp [h]
  · simp [hx, Nat.not_le.2 hlt]

theorem returnOrder_back (h : reachedMs s.clock o.expiry = false) (hx : ∀ x, (s.port p).order = some x → x.seq ≤ o.seq) :
    returnOrder p o s = s.modPort p (fun c => { c with order := some o }) := by
  refine if_pos ?_
  cases ho : (s.port p).order with
  | none => simp [h]
  | some x => simp [h, hx x ho]

end Removal

/-- Settles O49: AHEAD_DROP, the two expiries, and the start check that returns the pairs of an order. -/
theorem aheadRemoval : Obligations.AheadRemoval := by
  unfold Obligations.AheadRemoval
  refine ⟨fun r s ht => ⟨fun h => ?bad, fun h => ?drop⟩, fun p s => ⟨fun o ho he => ?order, fun a e he hx => ?entry⟩,
    fun p j o s hk => ⟨?start, fun h => ?expired, fun x hx hlt => ?newer, fun h hx => ?back⟩⟩
  case bad =>
    refine (exec_taken (k := .aheadDrop) ht).trans ?_
    exact congrArg Host.Outcome.next (if_pos (badPortSet_iff.2 h))
  case drop =>
    let v : State := { s with adv := s.adv.filter (fun e => !(portsOf (u32 r.body 0)).contains e.port) }
    let u : State := forEach (portsOf (u32 r.body 0)) dropAhead v
    have around : u.around = v.around := forEach_field State.around dropAhead around_dropAhead _ v
    obtain ⟨outer, cues, adv, -⟩ := around_parts around
    obtain ⟨still, table, -⟩ := outer_parts outer
    obtain ⟨named, others⟩ := dropAhead_forEach (portsOf (u32 r.body 0)) (nodup_portsOf _) v
    have cut (p : PortId) (hp : (u32 r.body 0).testBit p.val = true) :
        u.port p = ({ s.port p with order := none } : Port).cutJobs Job.isAhead := named p (mem_portsOf.2 hp)
    have kind : ∀ (j : Job) b b', Job.isAhead { j with cut := b, noEntry := b' } = j.isAhead := fun _ _ _ => rfl
    refine ⟨u, ?_, adv.trans ?_, fun p hp => ⟨?_, fun j hj ha => ?_⟩, fun p hp => ⟨fun j hj => ?_, fun j js hq ha hs => ⟨fun hl => ?_,
      fun hl only => ?_⟩, ?_, fun j hj ha => ?_, ?_, ?_, ?_, ?_⟩, fun p hp => others p (by simp [mem_portsOf, hp]), table, cues, still⟩
    · refine (exec_taken (k := .aheadDrop) ht).trans (congrArg Host.Outcome.next ((if_neg (mt badPortSet_iff.1 (by omega))).trans ?_))
      have gone : s.adv.filter (fun e => (portsOf (u32 r.body 0)).contains e.port) =
          s.adv.filter (fun e => (u32 r.body 0).testBit e.port.val) := by simp only [contains_portsOf]
      rw [gone]
      rfl
    · simp only [v, contains_portsOf]
    · rw [cut p hp]
      exact field_of_body (body_cutJobs _ _) Port.order
    · rw [cut p hp] at hj
      exact cutJobs_started ahead_dropped kind hj ha
    · rw [cut p hp] at hj
      exact cutJobs_waitLine ahead_dropped hj
    · rw [cut p hp]
      exact cutJobs_flight ahead_dropped (c := { s.port p with order := none }) hq hs ha hl
    · rw [cut p hp]
      exact cutJobs_idle ahead_dropped (c := { s.port p with order := none }) hq hs ha hl only
    · rw [cut p hp]
      exact cutJobs_order ahead_dropped (c := { s.port p with order := none }) kind
    · rw [cut p hp]
      exact cutJobs_kept (c := { s.port p with order := none }) hj ha
    · rw [cut p hp]
      exact field_of_body (body_cutJobs _ _) Port.power
    · rw [cut p hp]
      exact field_of_body (body_cutJobs _ _) Port.resv
    · rw [cut p hp]
      exact field_of_body (body_cutJobs _ _) Port.commitment
    · rw [cut p hp]
      exact field_of_body (body_cutJobs _ _) Port.lane
  case order =>
    show execOrderExpiry p s = _
    exact next_of_due (orderDue_iff.2 ⟨o, ho, he⟩)
  case entry =>
    show execAdvanceEntryExpiry p a s = _
    exact next_of_due (entryDue_iff.2 ⟨e, he, hx⟩)
  case start =>
    simp [Job.mayStart, hk]
  all_goals simp only [startCheckFailed, hk]
  case expired => exact returnOrder_kept (.inl h)
  case newer => exact returnOrder_kept (.inr ⟨x, hx, hlt⟩)
  case back => exact returnOrder_back h hx

end Sys2Proof.Machine

namespace Sys2Proof.Machine

/-! # Proofs: the cues that no planning touches

A cue that is not planned keeps its record through planning, pausing and preparing: these write the entries of planned cues
only. `Fixes i` says so of the cues of an id. -/

section Fixes

variable {s t u : State} {i j : Nat} {p : PortId}

/-- The cues of an id. -/
def State.named (s : State) (i : Nat) : List Cue := s.cues.filter (fun c => c.id == i)

def State.Unplanned (s : State) (i : Nat) : Prop := ∀ c ∈ s.cues, c.id = i → c.state.planned? = false

/-- A step that leaves the cues of an id where none of them is planned. -/
structure Fixes (i : Nat) (s t : State) : Prop where
  named : s.Unplanned i → t.named i = s.named i

theorem unplanned_iff : s.Unplanned i ↔ ∀ c ∈ s.named i, c.state.planned? = false := by
  simp [State.Unplanned, State.named]

theorem cue?_named (s : State) (i : Nat) : s.cue? i = (s.named i).head? := by
  unfold State.cue? State.named
  rw [List.head?_filter]

theorem mem_named {c : Cue} : c ∈ s.named i ↔ c ∈ s.cues ∧ c.id = i := by simp [State.named]

theorem named_modCue (h : j ≠ i) {f : Cue → Cue} (hf : ∀ c, (f c).id = c.id) (s : State) : (modCue j f s).named i = s.named i := by
  unfold State.named modCue
  dsimp only
  induction s.cues with
  | nil => rfl
  | cons c cs ih =>
    have id_ : (if c.id = j then f c else c).id = c.id := by
      split
      · exact hf c
      · rfl
    rw [List.map_cons, List.filter_cons, List.filter_cons, id_, ih]
    split
    · rename_i hc
      rw [if_neg (fun e => h (e.symm.trans (by simpa using hc)))]
    · rfl

namespace Fixes

theorem refl (i : Nat) (s : State) : Fixes i s s := ⟨fun _ => rfl⟩

theorem trans (h : Fixes i s t) (g : Fixes i t u) : Fixes i s u := ⟨fun hs => by
  have ht := h.named hs
  exact (g.named (unplanned_iff.2 (ht ▸ unplanned_iff.1 hs))).trans ht⟩

theorem of_cues (h : t.cues = s.cues) : Fixes i s t := ⟨fun _ => by
  unfold State.named
  rw [h]⟩

theorem modPort (p : PortId) (f : Port → Port) (s : State) : Fixes i s (s.modPort p f) := of_cues rfl

theorem of_around (h : t.around = s.around) : Fixes i s t := of_cues (around_parts h).2.1

theorem modCue (h : j ≠ i) {f : Cue → Cue} (hf : ∀ c, (f c).id = c.id) (s : State) : Fixes i s (modCue j f s) :=
  ⟨fun _ => named_modCue h hf s⟩

theorem setDisp (h : j ≠ i) (p : PortId) (d : Option Disp) (r : Option Nat) (s : State) : Fixes i s (setDisp j p d r s) :=
  modCue h (f := Cue.modMember p ({ · with disp := d, ready := r })) (fun _ => rfl) s

theorem setPrep (h : j ≠ i) (p : PortId) (v : Prep) (s : State) : Fixes i s (setPrep j p v s) :=
  modCue h (f := Cue.modMember p ({ · with prep := v })) (fun _ => rfl) s

theorem forEach {α : Type} {xs : List α} {g : α → State → State} (h : s.Unplanned i → ∀ x ∈ xs, ∀ u, Fixes i u (g x u)) :
    Fixes i s (forEach xs g s) := by
  refine ⟨fun hs => ?_⟩
  have steps := h hs
  clear h
  induction xs generalizing s with
  | nil => rfl
  | cons x xs ih =>
    have head := (steps x List.mem_cons_self s).named hs
    exact (ih (unplanned_iff.2 (head ▸ unplanned_iff.1 hs)) fun y hy => steps y (List.mem_cons_of_mem _ hy)).trans head

/-- A planned cue is of another id. -/
theorem planned_ne {c : Cue} (h : s.Unplanned i) (hc : c ∈ s.cues) (hp : c.state.planned? = true) : c.id ≠ i := fun e => by
  rw [h c hc e] at hp
  exact absurd hp (by decide)

theorem setPower (p : PortId) (new : Power) (s : State) : Fixes i s (setPower p new s) := of_around (around_setPower p new s)

theorem loseSettings (p : PortId) (s : State) : Fixes i s (loseSettings p s) := by
  refine forEach fun hs c hc u => ?_
  obtain ⟨hm, -⟩ := List.mem_filter.1 hc
  cases h : c.state with
  | preparing =>
    have ne : c.id ≠ i := planned_ne hs hm (by rw [h]; rfl)
    exact (of_cues (s := u) (t := u.modPort p _) rfl).trans (setPrep ne p _ _)
  | fireWait => exact setPrep (planned_ne hs hm (by rw [h]; rfl)) p _ _
  | _ => exact refl i u

theorem enterDeep (p : PortId) (s : State) : Fixes i s (enterDeep p s) := by
  have entered : Fixes i s (clearEntries p (setOffload p false (Machine.setPower p .deep s))) :=
    (setPower p .deep s).trans ((of_around (around_setOffload p false _)).trans (of_cues rfl))
  exact entered.trans (loseSettings p _)

theorem pauseAction (p : PortId) (x : Target) (s : State) : Fixes i s (pauseAction p x s) := by
  cases x with
  | doze => exact of_around (around_enterDoze p s)
  | keepwarm => exact of_around (around_enterKeepwarm p s)
  | deep => exact enterDeep p s

theorem pauseReady (p : PortId) (ps : Pause) (s : State) : Fixes i s (pauseReady p ps s) := by
  unfold Machine.pauseReady
  split
  · exact setPower p _ s
  · exact pauseAction p _ s

theorem pausingEvent (p : PortId) (s : State) : Fixes i s (pausingEvent p s) := by
  unfold Machine.pausingEvent
  repeat' split
  · exact refl i s
  · exact pauseAction p _ s
  · exact refl i s

theorem prepareMember {c : Cue} (h : c.id ≠ i) (p : PortId) (s : State) : Fixes i s (prepareMember c p s) := by
  have checked : Fixes i s (checkEntries p c.form c.profile s) := of_cues (by unfold checkEntries; split <;> rfl)
  unfold Machine.prepareMember
  dsimp only
  split
  · exact checked.trans (setPrep h p _ _)
  · exact checked.trans ((modPort p _ _).trans (setPrep h p _ _))

theorem checkOnReady (p : PortId) (s : State) : Fixes i s (checkOnReady p s) := by
  refine forEach fun hs c hc u => ?_
  obtain ⟨hm, hp⟩ := List.mem_filter.1 hc
  have preparing : c.state = .preparing := by
    simp only [Bool.and_eq_true, beq_iff_eq] at hp
    exact hp.1
  exact prepareMember (planned_ne hs hm (by rw [preparing]; rfl)) p u

theorem enterReady (p : PortId) (rest : Bool) (s : State) : Fixes i s (enterReady p rest s) := by
  unfold Machine.enterReady
  dsimp only
  refine trans ?_ (of_around (around_handOver p _))
  split
  · exact (setPower p _ s).trans (pauseReady p _ _)
  · refine ((setPower p (.ready none none) s).trans ?_).trans (checkOnReady p _)
    split
    · exact of_around (around_startRest p _)
    · exact refl i _

theorem placeFor (h : j ≠ i) (p : PortId) (req : Nat) (s : State) : Fixes i s (placeFor p j req s) := by
  unfold Machine.placeFor
  repeat' split
  · exact (of_cues (s := s) (t := setResv p _ s) rfl).trans (setDisp h p _ _ _)
  · exact refl i s
  · exact refl i s

theorem rewriteEntries (p : PortId) (x old : Nat) (s : State) : Fixes i s (rewriteEntries p x old s) := by
  unfold Machine.rewriteEntries
  split
  · refine forEach fun hs c hc u => ?_
    obtain ⟨hm, hp⟩ := List.mem_filter.1 hc
    have planned : c.state.planned? = true := by
      simp only [Bool.and_eq_true] at hp
      exact hp.1.2
    exact setDisp (planned_ne hs hm planned) p _ _ u
  · exact refl i s

theorem coverBy (h : j ≠ i) (p : PortId) (req ready : Nat) (s : State) : Fixes i s (coverBy p j req ready s) := setDisp h ..

theorem planPaused (h : j ≠ i) (p : PortId) (req : Nat) (s : State) : Fixes i s (planPaused p j req s) := by
  unfold Machine.planPaused
  repeat' split
  · exact coverBy h ..
  · exact setDisp h ..
  · have withdrawn : Fixes i s (withdraw p s) := of_cues rfl
    exact (withdrawn.trans ((placeFor h p req _).trans (rewriteEntries p j _ _))).trans (of_around (around_settleCommitment p _))
  · exact setDisp h ..
  · exact placeFor h ..
  · exact (of_cues (s := s) (t := Machine.commit p s) rfl).trans (placeFor h p req _)
  · exact setDisp h ..

theorem planOne (h : j ≠ i) (p : PortId) (s : State) : Fixes i s (planOne p j s) := by
  unfold Machine.planOne
  dsimp only
  repeat' split
  all_goals first
    | exact refl i s
    | exact setDisp h ..
    | exact coverBy h ..
    | exact planPaused h ..
    | exact (setDisp h ..).trans (enterReady p false _)

theorem replan (p : PortId) (s : State) : Fixes i s (replan p s) := by
  refine forEach fun hs k hk u => planOne ?_ p u
  obtain ⟨c, hc, rfl⟩ := List.mem_map.1 hk
  obtain ⟨hm, hp⟩ := List.mem_filter.1 hc
  exact planned_ne hs hm (by simp only [Bool.and_eq_true] at hp; exact hp.1)

theorem reneed (k : Nat) (p : PortId) (s : State) : Fixes i s (reneed k p s) := by
  unfold Machine.reneed
  repeat' split
  · exact refl i s
  · exact (of_cues (s := s) (t := setResv p _ s) rfl).trans (replan p _)
  · exact of_around (around_releaseResv p s)
  · exact refl i s

theorem lossOfNeed (k : Nat) (s : State) : Fixes i s (lossOfNeed k s) := forEach fun _ p _ u => reneed k p u

theorem endPreps (k : Nat) (p : PortId) (s : State) : Fixes i s (endPreps k p s) := by
  unfold Machine.endPreps
  dsimp only
  split
  · exact (of_cues (s := s) (t := s.modPort p _) rfl).trans (pausingEvent p _)
  · exact of_cues rfl

theorem restAfter (k : Nat) (p : PortId) (s : State) : Fixes i s (restAfter k p s) := by
  unfold Machine.restAfter
  repeat' split
  · exact of_around (around_startRest p s)
  · exact of_around ((around_startRest p _).trans (around_dropHold k p s))
  · exact refl i s
  · exact refl i s

end Fixes

end Fixes

end Sys2Proof.Machine

namespace Sys2Proof.Machine

/-! # Proofs: the grant of a fire request (R97, R104, R106, R107) -/

/-! ## The first of the eligible requests -/

section First

variable {s : State} {l : List FireReq}

/-- A request that comes no later than another: by cue time, then by station. -/
def State.noLater (s : State) (r x : FireReq) : Prop :=
  s.timeOffset r.time < s.timeOffset x.time ∨ (s.timeOffset r.time = s.timeOffset x.time ∧ r.station ≤ x.station)

theorem noLater_trans {a b c : FireReq} (h : s.noLater a b) (g : s.noLater b c) : s.noLater a c := by
  unfold State.noLater at *
  rcases h with h | ⟨h, h'⟩ <;> rcases g with g | ⟨g, g'⟩
  · exact .inl (h.trans g)
  · exact .inl (g ▸ h)
  · exact .inl (h ▸ g)
  · exact .inr ⟨h.trans g, h'.trans g'⟩

theorem noLater_of_before {a b : FireReq} (h : s.before a b = true) : s.noLater a b := by
  simp only [State.before, Bool.or_eq_true, decide_eq_true_eq, Bool.and_eq_true] at h
  exact h.imp_right fun ⟨e, l⟩ => ⟨e, l.le⟩

theorem noLater_of_not_before {a b : FireReq} (h : s.before a b = false) : s.noLater b a := by
  simp only [State.before, Bool.or_eq_false_iff, decide_eq_false_iff_not, Bool.and_eq_false_iff] at h
  obtain ⟨h1, h2⟩ := h
  rcases lt_or_eq_of_le (not_lt.1 h1) with hlt | heq
  · exact .inl hlt
  · refine .inr ⟨heq, ?_⟩
    rcases h2 with h2 | h2
    · exact absurd heq.symm h2
    · exact not_lt.1 h2

theorem firstReq_nil (h : s.firstReq l = none) : l = [] := by
  cases l with
  | nil => rfl
  | cons r rs =>
    unfold State.firstReq at h
    split at h
    · split at h <;> exact nomatch h
    · exact nomatch h

theorem firstReq_first {r : FireReq} (h : s.firstReq l = some r) : r ∈ l ∧ ∀ x ∈ l, s.noLater r x := by
  have self (x : FireReq) : s.noLater x x := .inr ⟨rfl, le_rfl⟩
  induction l generalizing r with
  | nil => exact nomatch h
  | cons a as ih =>
    unfold State.firstReq at h
    cases hq : s.firstReq as with
    | none =>
      rw [hq] at h
      obtain rfl := Option.some.inj h
      rw [firstReq_nil hq]
      exact ⟨List.mem_singleton_self _, fun x hx => List.mem_singleton.1 hx ▸ self x⟩
    | some q =>
      rw [hq] at h
      obtain ⟨hm, hmin⟩ := ih hq
      dsimp only at h
      cases hb : s.before q a with
      | true =>
        rw [hb, if_pos rfl] at h
        obtain rfl := Option.some.inj h
        refine ⟨List.mem_cons_of_mem _ hm, fun x hx => ?_⟩
        rcases List.mem_cons.1 hx with rfl | hx
        · exact noLater_of_before hb
        · exact hmin x hx
      | false =>
        rw [hb, if_neg Bool.false_ne_true] at h
        obtain rfl := Option.some.inj h
        refine ⟨List.mem_cons_self, fun x hx => ?_⟩
        rcases List.mem_cons.1 hx with rfl | hx
        · exact self _
        · exact noLater_trans (noLater_of_not_before hb) (hmin x hx)

theorem grantRule_idle (h : ∀ q ∈ s.waiting, s.eligible q = false) : grantRule s = s := by
  have none_ : s.waiting.filter s.eligible = [] := List.filter_eq_nil_iff.2 fun q hq => by simp [h q hq]
  unfold grantRule
  rw [none_]
  rfl

theorem grantRule_grants {q : FireReq} (hq : q ∈ s.waiting) (he : s.eligible q = true) : ∃ r ∈ s.waiting,
    s.eligible r = true ∧ grantRule s = grantReq r s ∧ ∀ x ∈ s.waiting, s.eligible x = true → s.noLater r x := by
  cases hf : s.firstReq (s.waiting.filter s.eligible) with
  | none =>
    have := firstReq_nil hf
    exact absurd (List.mem_filter.2 ⟨hq, he⟩) (by simp [this])
  | some r =>
    obtain ⟨hm, hmin⟩ := firstReq_first hf
    obtain ⟨hw, hr⟩ := List.mem_filter.1 hm
    refine ⟨r, hw, hr, ?_, fun x hx hxe => hmin x (List.mem_filter.2 ⟨hx, hxe⟩)⟩
    unfold grantRule
    rw [hf]

theorem eligible_owned (h : s.owner.isSome = true) (q : FireReq) : s.eligible q = false := by
  unfold State.eligible
  cases ho : s.owner <;> simp [ho] at h ⊢

theorem eligible_locked {l : Lock} {q : FireReq} (ho : s.owner = none) (hl : s.lock = some l) :
    s.eligible q = true ↔ l.station = q.station := by
  simp [State.eligible, ho, hl]

theorem eligible_free (ho : s.owner = none) (hl : s.lock = none) (q : FireReq) : s.eligible q = true := by
  simp [State.eligible, ho, hl]

end First

/-! ## The grant -/

section Grant

variable {s u : State} {r : FireReq} {c : Cue} {p : PortId}

/-- A need that is lost leaves the state of a camera that is not in PAUSING. -/
theorem planless_lossOfNeed (h : (s.port p).power.isPausing = false) (k : Nat) :
    ((lossOfNeed k s).port p).planless = (s.port p).planless := by
  have own (v : State) (hv : (v.port p).power.isPausing = false) : Plans p v (reneed k p v) := by
    unfold reneed
    repeat' split
    · exact .refl p v
    · exact ((Plans.refl p v).setResv _).trans ((Plans.refl p _).replan (by rw [setResv, port_modPort_self]; exact hv))
    · exact ((Plans.refl p v).setResv none).settleCommitment
    · exact .refl p v
  have all (ps : List PortId) (v : State) (hv : (v.port p).power.isPausing = false) :
      ((forEach ps (reneed k) v).port p).planless = (v.port p).planless := by
    induction ps generalizing v with
    | nil => rfl
    | cons q qs ih =>
      have step : ((reneed k q v).port p).planless = (v.port p).planless := by
        by_cases hq : p = q
        · exact hq ▸ (own v hv).record
        · rw [((OnPort.refl q v).reneed k).others p hq]
      exact (ih _ (by rw [field_of_planless step Port.power]; exact hv)).trans step
  exact all allPorts s h

theorem power_lossOfNeed (h : (s.port p).power.isPausing = false) (k : Nat) :
    ((lossOfNeed k s).port p).power = (s.port p).power := field_of_planless (planless_lossOfNeed h k) Port.power

/-- The ports of a list take a state, and the others keep theirs. -/
theorem forEach_setPower (ps : List PortId) (w : Power) (s : State) :
    (∀ p ∈ ps, ((forEach ps (fun p => setPower p w) s).port p).power = w) ∧
      ∀ p ∉ ps, (forEach ps (fun p => setPower p w) s).port p = s.port p := by
  have kept (p : PortId) (qs : List PortId) (v : State) (hv : (v.port p).power = w) :
      ((forEach qs (fun p => setPower p w) v).port p).power = w := by
    induction qs generalizing v with
    | nil => exact hv
    | cons q qs ih =>
      refine ih _ ?_
      by_cases hq : p = q
      · exact hq ▸ power_setPower p w v
      · rw [((OnPort.refl q v).setPower w).others p hq, hv]
  induction ps generalizing s with
  | nil => exact ⟨by simp, fun _ _ => rfl⟩
  | cons q qs ih =>
    obtain ⟨inside, outside⟩ := ih (setPower q w s)
    refine ⟨fun p hp => ?_, fun p hp => ?_⟩
    · rcases List.mem_cons.1 hp with rfl | hp
      · exact kept p qs _ (power_setPower p w s)
      · exact inside p hp
    · obtain ⟨hq, hp⟩ := not_or.1 (mt List.mem_cons.2 hp)
      exact (outside p hp).trans (((OnPort.refl q s).setPower w).others p hq)

/-- The ports that a grant arms: those of the READY, prepared members that are not media-full (R97). -/
def State.armedPorts (s : State) (c : Cue) : List PortId := (c.members.filter s.arms).map (·.port)

/-- What a grant writes into the cue of its request. -/
def State.grantInto (s : State) (r : FireReq) (c x : Cue) : Cue := { x with
  state := .firing
  grant := some ⟨s.clock, diffMs s.clock r.reqTime, addMs s.clock (s.station r.station).focusLead⟩
  confirm := s.armedPorts c
  members := c.members.map (fun m => if s.arms m then m else { m with outcome := some (unarmedOutcome (s.port m.port) m) }) }

/-- The cue of a request as the grant leaves it. -/
def State.granted (s : State) (r : FireReq) (c : Cue) : Cue := s.grantInto r c c

/-- The fire unit as a grant leaves it: owned by the cue, with the station's values, and unlocked (R104). -/
def unitGranted (r : FireReq) (s : State) : State := { s with
  waiting := s.waiting.filter (fun q => q.cue != r.cue)
  lock := none
  owner := some ⟨r.cue, r.station, s.clock, (s.station r.station).focusLead, (s.station r.station).strobe,
    (s.station r.station).press, (s.station r.station).lockOn, (s.station r.station).lockTimeout, false, false, false⟩ }

/-- The machine with the unit granted, the members armed and the cue FIRING, before its needs are lost. -/
def armedFor (r : FireReq) (c : Cue) (s : State) : State :=
  modCue r.cue (s.grantInto r c) (forEach (s.armedPorts c) (fun p => setPower p (.armed none false)) (unitGranted r s))

theorem grantReq_eq (h : s.cue? r.cue = some c) : grantReq r s = lossOfNeed r.cue (armedFor r c s) := by
  unfold grantReq
  rw [h]
  rfl

theorem HasCue.of_cues {t : State} (h : HasCue s c) (e : t.cues = s.cues) : HasCue t c := by
  unfold HasCue
  rw [e]
  exact h

/-- A cue that is not planned is still the list's one of its id. -/
theorem HasCue.fixes {t : State} (h : HasCue s c) (hp : c.state.planned? = false) (f : Fixes c.id s t) : HasCue t c := by
  have named := f.named fun x hx e => by rw [h.2 x hx e]; exact hp
  refine ⟨(mem_named.1 (named ▸ mem_named.2 ⟨h.1, rfl⟩)).1, fun y hy e => ?_⟩
  obtain ⟨hm, he⟩ := mem_named.1 (named ▸ mem_named.2 ⟨hy, e⟩ : y ∈ s.named c.id)
  exact h.2 y hm he

theorem hasCue_of_named {i : Nat} (h : s.cue? i = some c) (hu : ∀ d ∈ s.cues, d.id = i → d = c) : HasCue s c ∧ c.id = i := by
  obtain ⟨hm, hi⟩ := cue?_id h
  exact ⟨⟨hm, fun y hy e => hu y hy (e.trans hi)⟩, hi⟩

theorem cues_armed (ps : List PortId) (w : Power) (s : State) : (forEach ps (fun p => setPower p w) s).cues = s.cues :=
  forEach_field State.cues _ (fun p u => (around_parts (around_setPower p w u)).2.1) ps s

theorem outer_armed (ps : List PortId) (w : Power) (s : State) : (forEach ps (fun p => setPower p w) s).outer = s.outer :=
  outer_forEach _ (fun p u => outer_setPower p w u) ps s

theorem hasCue_armedFor (h : HasCue s c) (hr : c.id = r.cue) : HasCue (armedFor r c s) (s.granted r c) := by
  have armed : HasCue (forEach (s.armedPorts c) (fun p => setPower p (.armed none false)) (unitGranted r s)) c :=
    h.of_cues (cues_armed _ _ _)
  unfold armedFor
  rw [← hr]
  exact armed.modCue (f := s.grantInto r c) fun _ => rfl

/-- The granted cue in the list after its grant. -/
theorem hasCue_grantReq (h : HasCue s c) (hr : c.id = r.cue) : HasCue (grantReq r s) (s.granted r c) := by
  rw [grantReq_eq (hr ▸ h.named)]
  exact (hasCue_armedFor h hr).fixes rfl (Fixes.lossOfNeed _ _)

/-- What a grant leaves of the machine around the unit. -/
theorem outer_grantReq (h : s.cue? r.cue = some c) : (grantReq r s).outer = (unitGranted r s).outer := by
  rw [grantReq_eq h, outer_lossOfNeed]
  exact outer_armed _ _ _

theorem power_grantReq (h : s.cue? r.cue = some c) :
    (∀ p ∈ s.armedPorts c, ((grantReq r s).port p).power = .armed none false) ∧
      ∀ p, p ∉ s.armedPorts c → (s.port p).power.isPausing = false → ((grantReq r s).port p).power = (s.port p).power := by
  obtain ⟨inside, outside⟩ := forEach_setPower (s.armedPorts c) (.armed none false) (unitGranted r s)
  rw [grantReq_eq h]
  refine ⟨fun p hp => ?_, fun p hp hq => ?_⟩
  · have armed : ((armedFor r c s).port p).power = .armed none false := inside p hp
    rw [power_lossOfNeed (by rw [armed]; rfl), armed]
  · have kept : (armedFor r c s).port p = s.port p := outside p hp
    rw [power_lossOfNeed (by rw [kept]; exact hq), kept]

theorem arms_iff {m : Member} : s.arms m = true ↔
    (s.port m.port).power.isReady = true ∧ m.prep = .complete ∧ (s.port m.port).mediaFull = false := by
  simp [State.arms, and_assoc]

/-- A member that a grant does not arm takes the outcome of R97, once the preparation is closed. -/
theorem unarmedOutcome_eq {m : Member} (h : s.arms m = false) (hw : m.prep ≠ .writing) :
    unarmedOutcome (s.port m.port) m = outcomeIfUnarmed (s.port m.port) m := by
  have full : (s.port m.port).power.isReady = true → m.prep = .complete → (s.port m.port).mediaFull = true := by
    intro hr hc
    by_contra hn
    rw [Bool.not_eq_true] at hn
    rw [arms_iff.2 ⟨hr, hc, hn⟩] at h
    exact absurd h (by decide)
  unfold unarmedOutcome outcomeIfUnarmed
  cases hp : (s.port m.port).power with
  | ready rest hold =>
    rw [hp] at full
    cases hm : m.prep with
    | complete => simp [Power.isVacant, Power.isFault, Power.isReady, full rfl hm]
    | writing => exact absurd hm hw
    | _ => simp [Power.isVacant, Power.isFault, Power.isReady]
  | vacant => rfl
  | fault cause => rfl
  | _ =>
    simp only [Power.isVacant, Power.isFault, Power.isReady]
    cases m.disp with
    | none => rfl
    | some d => cases d <;> rfl

end Grant

/-! ## The requests and timers of the unit -/

section Unit

variable {s : State} {o : Owner} {l : Lock} {r : Request}

theorem exec_freeing (ho : s.owner = some o) (hr : o.released = true)
    (hd : reachedMs s.clock (addMs o.t0 (o.focus + o.press + 20)) = true) : exec .freeing s = .next (finish (freeUnit o s)) := by
  have due : s.freeDue = some o := by simp [State.freeDue, ho, hr, Owner.freeAt, hd]
  show execFreeing s = _
  unfold execFreeing
  rw [due]

theorem exec_lockExpiry (hl : s.lock = some l) (hd : reachedMs s.clock l.expiry = true) :
    exec .lockExpiry s = .next (finish (grantRule { s with lock := none })) := by
  show execLockExpiry s = _
  exact next_of_due (lockDue_iff.2 ⟨l, hl, hd⟩)

theorem exec_fireUnlock {st : StationId} (ht : Taken .fireUnlock r s) (hs : u8 r.body 0 = st.val) :
    exec (.fireUnlock r) s = .next (if s.lockedTo st && s.owner.isNone then
        finish ((grantRule { s with lock := none }).replied 0x93#8 r.tag (0x00#8 :: fireUnitBytes (grantRule { s with lock := none })))
      else s.replied 0x93#8 r.tag (0x05#8 :: fireUnitBytes s)) := by
  refine (exec_taken (k := .fireUnlock) ht).trans ?_
  show (.next (serveFireUnlock r.tag r.body s) : Result) = _
  unfold serveFireUnlock
  rw [stationOf?_val hs]
  rfl

theorem lockedTo_iff {st : StationId} : s.lockedTo st = true ↔ ∃ l, s.lock = some l ∧ l.station = st := by
  unfold State.lockedTo
  cases s.lock <;> simp

end Unit

/-- Settles O40: the freeing of the unit, the end of a lock, and the grant rule. -/
theorem freeingAndLock : Obligations.FreeingAndLock := by
  unfold Obligations.FreeingAndLock
  refine ⟨fun s o ho hr hd => exec_freeing ho hr hd, fun s l hl => ⟨exec_lockExpiry hl, fun r v ht hs ho hv => ?unlock⟩,
    fun s u r c hu hc huniq => ?grant, fun s o ho hr hd hw => ?freeIdle,
    ⟨fun r s ht => ⟨fun h => ?noStation, fun h hbad => ?refused⟩, fun s l hl hw => ⟨fun hd => ?expiryIdle, fun r ht hs ho => ?unlockIdle,
      fun r ht h hne => ?otherStation⟩⟩,
    fun s => ⟨grantRule_idle, eligible_owned, fun l q => eligible_locked, fun q => grantRule_grants⟩⟩
  case unlock =>
    rw [exec_fireUnlock ht hs, if_pos (by simp [lockedTo_iff.2 ⟨l, hl, rfl⟩, ho]), hv]
  case grant =>
    obtain ⟨has, hr⟩ := hasCue_of_named hc huniq
    have cue := (hasCue_grantReq has hr).named
    obtain ⟨still, table, owner, lock, waiting, -, line, -⟩ := outer_parts (outer_grantReq hc)
    subst hu
    refine ⟨s.granted r c, by rw [← hr]; exact cue, rfl, rfl, rfl, ?_, fun m hm hready hprep hfull => ?_, fun m hm hun hw => ?_,
      owner, lock, waiting, line, table, still⟩
    · simp only [State.granted, State.grantInto, List.map_map]
      refine List.map_congr_left fun m _ => ?_
      simp only [Function.comp]
      split <;> rfl
    · have arms : s.arms m = true := arms_iff.2 ⟨hready, hprep, hfull⟩
      refine ⟨List.mem_map.2 ⟨m, hm, if_pos arms⟩, (power_grantReq hc).1 _ ?_⟩
      exact List.mem_map.2 ⟨m, List.mem_filter.2 ⟨hm, arms⟩, rfl⟩
    · have arms : s.arms m = false := by
        rw [Bool.eq_false_iff, ne_eq, arms_iff]
        rintro ⟨h1, h2, h3⟩
        rcases hun with h | h | h
        · exact absurd h1 (by simp [h])
        · exact h h2
        · exact absurd h3 (by simp [h])
      refine List.mem_map.2 ⟨m, hm, ?_⟩
      rw [arms, if_neg Bool.false_ne_true, unarmedOutcome_eq arms hw]
  case freeIdle =>
    rw [exec_freeing ho hr hd]
    unfold freeUnit
    rw [grantRule_idle (by simp [hw])]
  case noStation =>
    refine (exec_taken (k := .fireUnlock) ht).trans ?_
    show (.next (serveFireUnlock r.tag r.body s) : Result) = _
    unfold serveFireUnlock
    rw [stationOf?_none h]
    rfl
  case refused =>
    rw [exec_fireUnlock (st := ⟨u8 r.body 0, h⟩) ht rfl, if_neg]
    rcases hbad with hl | ho
    · simp [State.lockedTo, hl]
    · cases hs : s.owner <;> simp [hs] at ho ⊢
  case expiryIdle =>
    rw [exec_lockExpiry hl hd, grantRule_idle (by simp [hw])]
  case unlockIdle =>
    rw [exec_fireUnlock ht hs, if_pos (by simp [lockedTo_iff.2 ⟨l, hl, rfl⟩, ho]), grantRule_idle (by simp [hw])]
  case otherStation =>
    rw [exec_fireUnlock (st := ⟨u8 r.body 0, h⟩) ht rfl, if_neg]
    have held : s.lockedTo ⟨u8 r.body 0, h⟩ = false := by
      rw [Bool.eq_false_iff, ne_eq, lockedTo_iff]
      rintro ⟨x, hx, hst⟩
      obtain rfl := Option.some.inj (hl.symm.trans hx)
      exact hne (congrArg Fin.val hst).symm
    simp [held]

end Sys2Proof.Machine

namespace Sys2Proof.Machine

/-! # Proofs: the fire request of a cue, and its end by the slack (R94–R98) -/

section Closing

variable {s t u : State} {c : Cue} {i : Nat} {p : PortId}

/-- The status of a member once the preparation is closed (R94). -/
def Member.closed (m : Member) : Member := { m with prep := if m.prep = .writing ∨ m.prep = .notStarted then .late else m.prep }

/-- The machine when the preparation of a cue has closed. -/
def closed (i : Nat) (s : State) : State := modCue i (fun c => { c with state := .fireWait, members := c.members.map Member.closed }) s

theorem closePreparation_eq (h : HasCue s c) : closePreparation c.id s =
    requestArrives (s.fireReq c) (forEach c.ports (endPreps c.id) (closed c.id s)) := by
  have has := h.modCue (f := fun c => { c with state := .fireWait, members := c.members.map Member.closed }) fun _ => rfl
  have ports : ({ c with state := .fireWait, members := c.members.map Member.closed } : Cue).ports = c.ports := by
    simp [Cue.ports, Member.closed, Function.comp_def]
  have by_rule (f : Member → Member) (hf : ∀ m, f m = m.closed) :
      (match (modCue c.id (fun c => { c with state := .fireWait, members := c.members.map f }) s).cue? c.id with
        | some d => requestArrives ((modCue c.id (fun c => { c with state := .fireWait, members := c.members.map f }) s).fireReq d)
            (forEach d.ports (endPreps c.id) (modCue c.id (fun c => { c with state := .fireWait, members := c.members.map f }) s))
        | none => modCue c.id (fun c => { c with state := .fireWait, members := c.members.map f }) s) =
      requestArrives (s.fireReq c) (forEach c.ports (endPreps c.id) (closed c.id s)) := by
    obtain rfl : f = Member.closed := funext hf
    rw [show (modCue c.id _ s).cue? c.id = _ from has.named]
    dsimp only
    rw [ports]
    rfl
  exact by_rule _ fun m => by
    obtain ⟨_, _, _, prep, _⟩ := m
    cases prep <;> rfl

/-- The cue when its preparation has closed. -/
def Cue.closed (c : Cue) : Cue := { c with state := .fireWait, members := c.members.map Member.closed }

theorem hasCue_closed (h : HasCue s c) : HasCue (Machine.closed c.id s) c.closed :=
  h.modCue (f := fun c => { c with state := .fireWait, members := c.members.map Member.closed }) fun _ => rfl

theorem arms_closed (m : Member) : (Machine.closed i s).arms m.closed =
    ((s.port m.port).power.isReady && m.prep == .complete && !(s.port m.port).mediaFull) := by
  obtain ⟨q, _, _, prep, _⟩ := m
  cases prep <;> rfl

theorem outcomeIfUnarmed_closed (d : Port) (m : Member) : outcomeIfUnarmed d m.closed = outcomeIfUnarmed d m := by
  obtain ⟨q, _, _, prep, _⟩ := m
  cases prep <;> rfl

theorem armedPorts_closed (s : State) (c : Cue) : (Machine.closed i s).armedPorts c.closed =
    (c.members.filter (fun m => (s.port m.port).power.isReady && m.prep == .complete && !(s.port m.port).mediaFull)).map (·.port) := by
  have ports (l : List Member) : ((l.map Member.closed).filter (Machine.closed i s).arms).map (·.port) = (l.filter (fun m =>
      (s.port m.port).power.isReady && m.prep == .complete && !(s.port m.port).mediaFull)).map (·.port) := by
    induction l with
    | nil => rfl
    | cons m l ih =>
      rw [List.map_cons, List.filter_cons, List.filter_cons, arms_closed]
      split
      · exact congrArg (m.port :: ·) ih
      · exact ih
  exact ports c.members

/-- What a grant at the arrival makes of the members. -/
theorem members_closed (s : State) (c : Cue) (r : FireReq) : ((Machine.closed i s).granted r c.closed).members =
    c.members.map (fun m =>
      if (s.port m.port).power.isReady && m.prep == .complete && !(s.port m.port).mediaFull then m
      else { m with
        prep := if m.prep = .writing ∨ m.prep = .notStarted then .late else m.prep
        outcome := some (outcomeIfUnarmed (s.port m.port) m) }) := by
  refine (List.map_map ..).trans (List.map_congr_left fun m _ => ?_)
  have late : m.closed.prep ≠ .writing := by
    obtain ⟨q, _, _, prep, _⟩ := m
    cases prep <;> exact Prep.noConfusion
  simp only [Function.comp]
  rw [arms_closed]
  split
  · rename_i ha
    obtain ⟨q, _, _, prep, _⟩ := m
    cases prep <;> simp_all [Member.closed]
  · rename_i ha
    rw [unarmedOutcome_eq (by rw [arms_closed]; exact Bool.eq_false_iff.2 ha) late, outcomeIfUnarmed_closed]
    rfl

/-! ### The preparation stays closed -/

/-- Every cue of an id waits for its fire, its preparation closed. -/
def PrepClosed (i : Nat) (s : State) : Prop :=
  ∀ d ∈ s.cues, d.id = i → d.state = .fireWait ∧ ∀ m ∈ d.members, m.prep ≠ .writing ∧ m.prep ≠ .notStarted

theorem PrepClosed.of_cues (h : PrepClosed i s) (e : t.cues = s.cues) : PrepClosed i t := by
  unfold PrepClosed
  rw [e]
  exact h

theorem PrepClosed.of_around (h : PrepClosed i s) (e : t.around = s.around) : PrepClosed i t := h.of_cues (around_parts e).2.1

theorem PrepClosed.setPrep {j : Nat} {v : Prep} (h : PrepClosed i s) (hv : j ≠ i ∨ (v ≠ .writing ∧ v ≠ .notStarted))
    (p : PortId) : PrepClosed i (setPrep j p v s) := by
  intro d hd hi
  obtain ⟨x, hx, rfl⟩ := List.mem_map.1 hd
  by_cases hj : x.id = j
  · rw [if_pos hj] at hi ⊢
    have hxi : x.id = i := hi
    obtain ⟨state, members⟩ := h x hx hxi
    refine ⟨state, fun m hm => ?_⟩
    obtain ⟨n, hn, rfl⟩ := List.mem_map.1 hm
    split
    · rcases hv with hne | hv
      · exact absurd (hj.symm.trans hxi) hne
      · exact hv
    · exact members n hn
  · rw [if_neg hj] at hi ⊢
    exact h x hx hi

theorem PrepClosed.forEach {α : Type} {xs : List α} {g : α → State → State} (h : PrepClosed i s)
    (hg : ∀ x ∈ xs, ∀ u, PrepClosed i u → PrepClosed i (g x u)) : PrepClosed i (forEach xs g s) := by
  induction xs generalizing s with
  | nil => exact h
  | cons x xs ih => exact ih (hg x List.mem_cons_self s h) fun y hy => hg y (List.mem_cons_of_mem _ hy)

theorem PrepClosed.loseSettings (h : PrepClosed i s) (p : PortId) : PrepClosed i (loseSettings p s) := by
  refine h.forEach fun c hc u hu => ?_
  obtain ⟨hm, -⟩ := List.mem_filter.1 hc
  cases hs : c.state with
  | preparing =>
    refine (hu.of_cues (t := u.modPort p _) rfl).setPrep (.inl fun e => ?_) p
    exact absurd ((h c hm e).1.symm.trans hs) (by decide)
  | fireWait => exact hu.setPrep (.inr ⟨by decide, by decide⟩) p
  | _ => exact hu

theorem PrepClosed.pausingEvent (h : PrepClosed i s) (p : PortId) : PrepClosed i (pausingEvent p s) := by
  unfold Machine.pausingEvent
  split
  · split
    · exact h
    · rename_i ps _ _ _
      cases ps.target with
      | doze => exact h.of_around (around_enterDoze p s)
      | keepwarm => exact h.of_around (around_enterKeepwarm p s)
      | deep =>
        have entered : PrepClosed i (clearEntries p (setOffload p false (setPower p .deep s))) :=
          ((h.of_around (around_setPower p _ s)).of_around (around_setOffload p false _)).of_cues rfl
        exact entered.loseSettings p
  · exact h

theorem PrepClosed.endPreps (h : PrepClosed i s) (j : Nat) (p : PortId) : PrepClosed i (endPreps j p s) := by
  have cut := h.of_cues (t := s.modPort p (fun c => (c.removeJobs (Job.isPrepOf j)).cutFlight (Job.isPrepOf j) false)) rfl
  unfold Machine.endPreps
  dsimp only
  split
  · exact cut.pausingEvent p
  · exact cut

theorem prepClosed_closed (h : HasCue s c) : PrepClosed c.id (closed c.id s) := by
  intro d hd hi
  have has := h.modCue (f := fun c => { c with state := .fireWait, members := c.members.map Member.closed }) fun _ => rfl
  rw [has.2 d hd hi]
  refine ⟨rfl, fun m hm => ?_⟩
  obtain ⟨n, -, rfl⟩ := List.mem_map.1 hm
  unfold Member.closed
  dsimp only
  split
  · exact ⟨by decide, by decide⟩
  · rename_i hn
    exact not_or.1 hn

/-! ### A request at its arrival -/

theorem Port.Empty.serves {c : Port} (h : c.Empty) (n : Nat) : c.serveUpTo n = c := by
  obtain ⟨hq, hw, hp, ht, hg⟩ := h
  have poll : c.servePoll n = c := by simp [Port.servePoll, hp]
  have thermal : c.serveThermal n = c := by simp [Port.serveThermal, ht]
  have ping : c.servePing n = c := by simp [Port.servePing, hg]
  unfold Port.serveUpTo
  rw [poll, thermal, ping]
  simp only [Port.serveLine, hw, List.take_nil, List.drop_nil, List.append_nil]
  cases c
  simp_all

theorem Port.Empty.removeJobs {c : Port} (h : c.Empty) (f : Job → Bool) : c.removeJobs f = c := by
  have bare : c.without f = c := by
    obtain ⟨hq, hw, -, -, -⟩ := h
    unfold Port.without
    rw [hq, hw]
    cases c
    simp_all
  show (c.without f).serveUpTo _ = c
  rw [bare]
  exact h.serves _

/-- A member whose port has no job has none to take back. -/
theorem endPreps_idle (h : (s.port p).Empty) (i : Nat) : endPreps i p s = s := by
  have same : s.modPort p (fun c => (c.removeJobs (Job.isPrepOf i)).cutFlight (Job.isPrepOf i) false) = s := by
    refine modPort_same ?_
    rw [h.removeJobs]
    unfold Port.cutFlight
    rw [h.queue]
  unfold endPreps
  rw [same, h.queue]
  rfl

theorem forEach_endPreps_idle {ps : List PortId} (h : ∀ p ∈ ps, (s.port p).Empty) (i : Nat) : forEach ps (endPreps i) s = s := by
  induction ps with
  | nil => rfl
  | cons p ps ih =>
    show forEach ps (endPreps i) (endPreps i p s) = s
    rw [endPreps_idle (h p List.mem_cons_self)]
    exact ih fun q hq => h q (List.mem_cons_of_mem _ hq)

theorem exec_fireRequestTime (h : HasCue s c) (hs : c.state = .preparing) (hd : reachedMs s.clock (s.fireReqTime c) = true) :
    exec (.fireRequestTime c.id) s =
      .next (finish (requestArrives (s.fireReq c) (forEach c.ports (endPreps c.id) (closed c.id s)))) := by
  rw [← closePreparation_eq h]
  show execFireRequestTime c.id s = _
  exact next_of_due (cueIn_iff.2 ⟨c, h.named, hs, hd⟩)

theorem outer_requestClosed (ps : List PortId) (i : Nat) (s : State) : (forEach ps (endPreps i) (closed i s)).outer = s.outer :=
  outer_forEach _ (fun p u => outer_endPreps i p u) ps _

theorem prepClosed_forEach_endPreps (h : HasCue s c) (ps : List PortId) :
    PrepClosed c.id (forEach ps (endPreps c.id) (closed c.id s)) :=
  (prepClosed_closed h).forEach fun p _ _ hu => hu.endPreps c.id p

/-- The cue of a request while the request waits. -/
theorem cue?_requestClosed (h : HasCue s c) (ps : List PortId) : ∃ d,
    (forEach ps (endPreps c.id) (closed c.id s)).cue? c.id = some d ∧ d.state = .fireWait ∧
      ∀ m ∈ d.members, m.prep ≠ .writing ∧ m.prep ≠ .notStarted := by
  have outlines : (forEach ps (endPreps c.id) (closed c.id s)).outlines = (closed c.id s).outlines :=
    outlines_forEach _ (fun p u => outlines_endPreps c.id p u) ps _
  have has := h.modCue (f := fun c => { c with state := .fireWait, members := c.members.map Member.closed }) fun _ => rfl
  obtain ⟨d, hd, -⟩ := cue?_outline outlines has.named
  obtain ⟨hm, hi⟩ := cue?_id hd
  exact ⟨d, hd, prepClosed_forEach_endPreps h ps d hm hi⟩

end Closing

/-! ## The slack of a request -/

section Slack

variable {s : State} {c : Cue} {q : FireReq}

/-- The cue of a missed request. -/
def State.missedOf (s : State) (c : Cue) : Cue := { c with
  state := .done, members := c.members.map (fun m => { m with outcome := some (missedOutcome (s.port m.port) m) }) }

/-- The machine with the request withdrawn and the cue MISSED, before the members are freed. -/
def missedIn (c : Cue) (s : State) : State :=
  modCue c.id (fun x => { x with state := .done, members := (s.missedOf c).members })
    { s with waiting := s.waiting.filter (fun q => q.cue != c.id) }

theorem missCue_eq (h : s.cue? c.id = some c) :
    missCue c.id s = finishCue c.id (lossOfNeed c.id (forEach c.ports (restAfter c.id) (missedIn c s))) := by
  unfold missCue
  dsimp only
  rw [show State.cue? { s with waiting := s.waiting.filter (fun q => q.cue != c.id) } c.id = some c from h]
  rfl

theorem missedOutcome_eq (d : Port) (m : Member) : missedOutcome d m = outcomeIfMissed d m := by
  unfold missedOutcome outcomeIfMissed
  cases d.power with
  | vacant => rfl
  | fault cause => rfl
  | _ =>
    cases m.disp with
    | none => rfl
    | some x => cases x <;> rfl

/-- The CUE_DONE body of a missed cue (R98, R101). -/
theorem doneBody_missed (h : c.grant = none) : (s.missedOf c).doneBody =
    [toByte c.id, toByte c.station.val] ++ le32 c.time ++ [0x03#8] ++ le32 0xFFFFFFFF ++ le16 0 ++
      [toByte c.members.length] ++
      c.members.flatMap (fun m => [toByte m.port.val, toByte (outcomeIfMissed (s.port m.port) m).code]) := by
  have members : (s.missedOf c).members.flatMap (fun m => [toByte m.port.val, optCode CamOutcome.code m.outcome]) =
      c.members.flatMap (fun m => [toByte m.port.val, toByte (outcomeIfMissed (s.port m.port) m).code]) := by
    rw [State.missedOf, List.flatMap_map]
    refine List.flatMap_congr fun m _ => ?_
    rw [← missedOutcome_eq] <;> rfl
  unfold Cue.doneBody
  rw [members]
  simp only [State.missedOf, Cue.outcomeCode, Cue.fireTime?, h, Option.map_none, Option.getD_none, List.length_map, optTime]

theorem exec_slackExpiry (h : s.cue? c.id = some c) (hq : q ∈ s.waiting) (hi : q.cue = c.id) (hd : reachedMs s.clock q.slackAt = true) :
    exec (.slackExpiry c.id) s =
      .next (finish (finishCue c.id (lossOfNeed c.id (forEach c.ports (restAfter c.id) (missedIn c s))))) := by
  rw [← missCue_eq h]
  show execSlackExpiry c.id s = _
  exact next_of_due (slackDue_iff.2 ⟨q, hq, hi, hd⟩)

theorem hasCue_missed (h : HasCue s c) :
    HasCue (lossOfNeed c.id (forEach c.ports (restAfter c.id) (missedIn c s))) (s.missedOf c) := by
  have marked : HasCue (missedIn c s) (s.missedOf c) :=
    HasCue.modCue (s := { s with waiting := s.waiting.filter (fun q => q.cue != c.id) })
      (f := fun x => { x with state := .done, members := (s.missedOf c).members }) h fun _ => rfl
  exact (marked.fixes rfl (.forEach fun _ p _ u => .restAfter c.id p u)).fixes rfl (Fixes.lossOfNeed _ _)

end Slack

/-- Settles O37: a request at its time, held back or granted, and its end by the slack. -/
theorem fireRequest : Obligations.FireRequest := by
  unfold Obligations.FireRequest
  refine ⟨fun s c hc hu hs hd hheld => ?waits, fun s c hc hu hs hd ho hl hw hidle hn => ?granted,
    fun s c q hc hu hq hi hd hg => ?missed⟩
  case waits =>
    obtain ⟨has, -⟩ := hasCue_of_named hc hu
    obtain ⟨still, -, owner, lock, waiting, -⟩ := outer_parts (outer_requestClosed c.ports c.id s)
    have held : (forEach c.ports (endPreps c.id) (closed c.id s)).eligible (s.fireReq c) = false := by
      rcases hheld with ho | ⟨l, hl, hne⟩
      · exact eligible_owned (by rw [owner]; exact ho) _
      · cases ho : s.owner with
        | some o => exact eligible_owned (by rw [owner, ho]; rfl) _
        | none => exact Bool.eq_false_iff.2 fun e => hne ((eligible_locked (owner.trans ho) (lock.trans hl)).1 e)
    refine ⟨_, exec_fireRequestTime has hs hd, ?_⟩
    rw [requestArrives, held, if_neg Bool.false_ne_true]
    exact ⟨congrArg (· ++ [s.fireReq c]) waiting, owner, lock, still, cue?_requestClosed has c.ports⟩
  case granted =>
    obtain ⟨has, -⟩ := hasCue_of_named hc hu
    have closed_ := hasCue_closed has
    have idle : forEach c.ports (endPreps c.id) (closed c.id s) = closed c.id s := forEach_endPreps_idle (fun p hp => by
      obtain ⟨m, hm, rfl⟩ := List.mem_map.1 hp
      obtain ⟨hq, hl, h1, h2, h3⟩ := hidle m hm
      exact ⟨hq, hl, h1, h2, h3⟩) c.id
    obtain ⟨still, -, owner, lock, waiting, -⟩ := outer_parts (outer_grantReq (r := s.fireReq c) closed_.named)
    refine ⟨_, (closed c.id s).granted (s.fireReq c) c.closed, ?_, (hasCue_grantReq closed_ rfl).named, rfl, rfl,
      armedPorts_closed s c, members_closed s c _, (power_grantReq (r := s.fireReq c) closed_.named).1, owner, lock, ?_, still⟩
    · rw [exec_fireRequestTime has hs hd, idle, requestArrives, if_pos (eligible_free (s := closed c.id s) ho hl _)]
    · rw [waiting]
      show s.waiting.filter _ = []
      rw [hw]
      rfl
  case missed =>
    obtain ⟨has, -⟩ := hasCue_of_named hc hu
    have gone := (hasCue_missed has).finish
    obtain ⟨still, -, owner, lock, waiting, -⟩ : _ ∧ _ := outer_parts (t := finishCue c.id (lossOfNeed c.id (forEach c.ports (restAfter c.id) (missedIn c s)))) (s := missedIn c s) (by
      rw [outer_finishCue, outer_lossOfNeed]
      exact outer_forEach _ (fun p u => outer_restAfter c.id p u) _ _)
    refine ⟨_, (s.missedOf c).doneBody, exec_slackExpiry hc hq hi hd, ?_, waiting, owner, lock, still, ?_⟩
    · rw [doneBody_missed hg]
    · rcases gone with ⟨absent, posted⟩ | kept
      · exact .inl ⟨absent, posted⟩
      · exact .inr ⟨_, kept.1, rfl, rfl, rfl, rfl⟩

end Sys2Proof.Machine

namespace Sys2Proof.Machine

/-! # Proofs: the release of the unit and the confirm timer (R99–R101) -/

section Ports

variable {s : State} {p : PortId} {g : PortId → State → State} {ps : List PortId}

/-- A port out of the list is left as it is. -/
theorem forEach_others (on : ∀ q u, OnPort q u (g q u)) (h : p ∉ ps) (s : State) : (forEach ps g s).port p = s.port p := by
  induction ps generalizing s with
  | nil => rfl
  | cons q qs ih =>
    obtain ⟨hq, hp⟩ := not_or.1 (mt List.mem_cons.2 h)
    exact (ih hp (g q s)).trans ((on q s).others p hq)

/-- What the first operation on a port reaches, and each later one keeps, holds of the port in the end. -/
theorem forEach_reaches (on : ∀ q u, OnPort q u (g q u)) (out : ∀ q u, (g q u).outer = u.outer) {R : Port → Prop}
    (first : ∀ u : State, u.outer = s.outer → u.port p = s.port p → R ((g p u).port p))
    (again : ∀ u : State, u.outer = s.outer → R (u.port p) → R ((g p u).port p)) (h : p ∈ ps) : R ((forEach ps g s).port p) := by
  have reaches (l : List PortId) (v : State) (hv : v.outer = s.outer) (hp : (p ∈ l ∧ v.port p = s.port p) ∨ R (v.port p)) :
      R ((forEach l g v).port p) := by
    induction l generalizing v with
    | nil => exact hp.elim (fun ⟨hm, _⟩ => nomatch hm) id
    | cons q qs ih =>
      refine ih (g q v) ((out q v).trans hv) ?_
      by_cases hq : p = q
      · exact .inr (hp.elim (fun ⟨_, e⟩ => hq ▸ first v hv e) fun hr => hq ▸ again v hv hr)
      · rw [(on q v).others p hq]
        exact hp.imp_left fun ⟨hm, e⟩ => ⟨(List.mem_cons.1 hm).resolve_left hq, e⟩
  exact reaches ps s rfl (.inl ⟨h, rfl⟩)

end Ports

section Back

variable {s u : State} {p : PortId} {ps : List PortId} {pause : Pause} {full : Bool} {cue : Nat}
  {rest hold r k : Option Nat}

/-- A camera that takes a pause is neither READY nor ARMED. -/
theorem PauseTaken.away (h : PauseTaken p pause s u) : (u.port p).power.isReady = false ∧ (u.port p).power.isArmed = false := by
  obtain ⟨held, taken⟩ := h
  by_cases hh : (s.port p).offload = true ∨ (s.port p).pauseHeldByJob = true
  · rw [held hh]
    exact ⟨rfl, rfl⟩
  · rw [not_or, Bool.not_eq_true, Bool.not_eq_true] at hh
    obtain ⟨doze, deep, warm, hot⟩ := taken hh.1 hh.2
    cases ht : pause.target with
    | doze => exact (doze ht).1 ▸ ⟨rfl, rfl⟩
    | deep => exact (deep ht).1 ▸ ⟨rfl, rfl⟩
    | keepwarm =>
      by_cases hg : (s.port p).grade = some 7
      · exact hot ht hg ▸ ⟨rfl, rfl⟩
      · exact warm ht hg ▸ ⟨rfl, rfl⟩

/-- An ARMED camera returns to READY at the release; any other keeps its state. -/
def disarm (p : PortId) (s : State) : State := if (s.port p).power.isArmed then enterReady p false s else s

theorem onPort_disarm (p : PortId) (s : State) : OnPort p s (disarm p s) := by
  unfold disarm
  split
  · exact (OnPort.refl p s).enterReady false
  · exact .refl p s

theorem outer_disarm (p : PortId) (s : State) : (disarm p s).outer = s.outer := by
  unfold disarm
  split
  · exact outer_enterReady p false s
  · rfl

theorem station_disarm (p : PortId) (s : State) : ((disarm p s).port p).station = (s.port p).station := by
  unfold disarm
  split
  · exact field_of_core (core_enterReady p false s) Port.station
  · rfl

/-- What the release makes of the state of a member (R99). -/
def Power.Disarmed (w new : Power) : Prop :=
  (∀ full, w = .armed none full → new = .ready none none) ∧
  (∀ ps full, w = .armed (some ps) full → new.isReady = false) ∧ (w.isArmed = false → new = w)

theorem disarm_armed {pend : Option Pause} (h : (s.port p).power = .armed pend full) : disarm p s = enterReady p false s :=
  if_pos (by rw [h]; rfl)

theorem disarm_other (h : (s.port p).power.isArmed = false) : disarm p s = s := if_neg (by simp [h])

theorem Power.Disarmed.same {w : Power} (h : w.isArmed = false) : w.Disarmed w :=
  ⟨fun _ e => (nomatch e ▸ h), fun _ _ e => (nomatch e ▸ h), fun _ => rfl⟩

theorem disarmed_disarm (p : PortId) (s : State) :
    (s.port p).power.Disarmed ((disarm p s).port p).power ∧ ((disarm p s).port p).power.isArmed = false := by
  by_cases hi : (s.port p).power.isArmed = true
  · obtain ⟨pend, full, hw⟩ : ∃ pend full, (s.port p).power = .armed pend full := by
      cases hw : (s.port p).power <;> simp [hw, Power.isArmed] at hi ⊢
    rw [disarm_armed hw, hw]
    cases pend with
    | none =>
      rw [enterReady_free (p := p) (s := s) (by rw [hw]; rfl) false]
      exact ⟨⟨fun _ _ => rfl, fun _ _ e => Power.noConfusion e nofun, nofun⟩, rfl⟩
    | some ps =>
      obtain ⟨ready, armed⟩ := (enterReady_pending (p := p) (s := s) (ps := ps) (by rw [hw]; rfl) false).away
      exact ⟨⟨fun _ e => Power.noConfusion e nofun, fun _ _ _ => ready, nofun⟩, armed⟩
  · rw [Bool.not_eq_true] at hi
    rw [disarm_other hi]
    exact ⟨.same hi, hi⟩

theorem disarm_all (h : p ∈ ps) (s : State) :
    (s.port p).power.Disarmed ((forEach ps disarm s).port p).power ∧ ((forEach ps disarm s).port p).station = (s.port p).station := by
  refine (forEach_reaches (R := fun d => ((s.port p).power.Disarmed d.power ∧ d.power.isArmed = false) ∧
    d.station = (s.port p).station) onPort_disarm outer_disarm (fun u _ e => ?_) (fun u _ hr => ?_) h).imp_left And.left
  · rw [← e]
    exact ⟨disarmed_disarm p u, station_disarm p u⟩
  · rw [disarm_other hr.1.2]
    exact hr

/-- A member that is READY is no longer held for the cue, and its rest timer starts (R17, R100). -/
def unhold (cue : Nat) (p : PortId) (s : State) : State := startRest p (dropHold cue p s)

theorem onPort_unhold (cue : Nat) (p : PortId) (s : State) : OnPort p s (unhold cue p s) := ((OnPort.refl p s).dropHold cue).startRest

theorem outer_unhold (cue : Nat) (p : PortId) (s : State) : (unhold cue p s).outer = s.outer := by
  rw [unhold, outer_startRest, outer_dropHold]

theorem dropHold_other (h : (s.port p).power.isReady = false) : dropHold cue p s = s := by
  unfold dropHold
  split
  · rename_i e
    rw [e] at h
    cases h
  · rfl

theorem dropHold_ready (h : (s.port p).power = .ready rest hold) :
    dropHold cue p s = s.modPort p ({ · with power := .ready rest (if hold = some cue then none else hold) }) := by
  unfold dropHold
  rw [h]
  dsimp only
  split
  · rfl
  · exact (modPort_same (by rw [← h])).symm

theorem unhold_other (h : (s.port p).power.isReady = false) : unhold cue p s = s := by
  rw [unhold, dropHold_other h, startRest_other h]

/-- The READY state of a member after the end of the hold. -/
def State.unheld (s : State) (cue : Nat) (p : PortId) (rest hold : Option Nat) : Power :=
  .ready ((s.stationOf p).elim rest (fun f => some (addMs s.clock (f.linger * 1000)))) (if hold = some cue then none else hold)

theorem unheld_unheld (h : s.unheld cue p rest hold = .ready r k) : s.unheld cue p r k = .ready r k := by
  cases h
  unfold State.unheld
  cases s.stationOf p <;> by_cases hk : hold = some cue <;> simp [hk]

theorem unheld_congr (h : u.outer = s.outer) (hs : (u.port p).station = (s.port p).station) :
    u.unheld cue p rest hold = s.unheld cue p rest hold := by
  unfold State.unheld
  rw [stationOf_congr (stations_of_outer h) hs, clock_of_outer h]

theorem unhold_ready (h : (s.port p).power = .ready rest hold) :
    (unhold cue p s).port p = { s.port p with power := s.unheld cue p rest hold } := by
  have dropped : ((dropHold cue p s).port p) = { s.port p with power := .ready rest (if hold = some cue then none else hold) } := by
    rw [dropHold_ready h, port_modPort_self]
  have station : (dropHold cue p s).stationOf p = s.stationOf p :=
    stationOf_congr (stations_of_outer (outer_dropHold cue p s)) (by rw [dropped])
  rw [unhold, startRest_ready (rest := rest) (by rw [dropped]), port_modPort_self, dropped, station,
    clock_of_outer (outer_dropHold cue p s)] <;> rfl

/-- What the end of the hold makes of the state of a member. -/
def State.Unheld (s : State) (cue : Nat) (p : PortId) (w new : Power) : Prop :=
  (∀ rest hold, w = .ready rest hold → new = s.unheld cue p rest hold) ∧
  (w.isReady = false → new = w)

theorem unhold_all (h : p ∈ ps) (cue : Nat) (s : State) :
    s.Unheld cue p (s.port p).power ((forEach ps (unhold cue) s).port p).power := by
  cases hr : (s.port p).power.isReady with
  | false =>
    refine ⟨fun rest hold e => Bool.noConfusion (hr.symm.trans (congrArg Power.isReady e)), fun _ => ?_⟩
    exact forEach_reaches (R := fun d => d.power = (s.port p).power) (onPort_unhold cue) (outer_unhold cue)
      (fun u _ e => by rw [unhold_other (by rw [e]; exact hr), e])
      (fun u _ e => by rw [unhold_other (by rw [e]; exact hr), e]) h
  | true =>
    obtain ⟨rest, hold, hw⟩ : ∃ rest hold, (s.port p).power = .ready rest hold := by
      cases hw : (s.port p).power <;> simp [hw, Power.isReady] at hr ⊢
    have new : ((forEach ps (unhold cue) s).port p).power = s.unheld cue p rest hold ∧
        ((forEach ps (unhold cue) s).port p).station = (s.port p).station := by
      refine forEach_reaches (R := fun d => d.power = s.unheld cue p rest hold ∧ d.station = (s.port p).station)
        (onPort_unhold cue) (outer_unhold cue) (fun u ho e => ?_) (fun u ho hr => ?_) h
      · rw [unhold_ready (by rw [e, hw]), e]
        exact ⟨unheld_congr ho (by rw [e]), rfl⟩
      · obtain ⟨hp, hst⟩ := hr
        obtain ⟨r, k, hrk⟩ : ∃ r k, s.unheld cue p rest hold = .ready r k := ⟨_, _, rfl⟩
        rw [unhold_ready (hp.trans hrk)]
        exact ⟨(unheld_congr ho hst).trans ((unheld_unheld hrk).trans hrk.symm), hst⟩
    refine ⟨fun r k e => ?_, fun g => Bool.noConfusion (hr.symm.trans g)⟩
    obtain ⟨rfl, rfl⟩ := Power.ready.inj (hw.symm.trans e)
    exact new.1

end Back

/-! ## The release -/

section Release

variable {s : State} {o : Owner} {c : Cue} {p : PortId}

/-- The machine with the members disarmed. -/
def disarmed (o : Owner) (c : Cue) (s : State) : State := forEach c.ports disarm { s with owner := some { o with released := true } }

/-- The cue of the release while it waits for the confirmations. -/
def State.confirmingCue (s : State) (o : Owner) (c : Cue) : Cue := { c with
  state := .confirming, timer := some (addMs s.clock (s.station o.station).confirm) }

/-- The machine with the members disarmed and freed and the cue CONFIRMING, before it is looked at whether it has ended. -/
def freed (o : Owner) (c : Cue) (s : State) : State :=
  forEach c.ports (unhold c.id) (modCue c.id (s.confirmingCue o) (disarmed o c s))

theorem releaseSequence_eq (h : s.cue? c.id = some c) (hi : c.id = o.cue) : releaseSequence o s = confirmEnd c.id (freed o c s) := by
  have ports : s.ownerPorts o = c.ports := by
    unfold State.ownerPorts
    rw [← hi, h]
  have outer : (disarmed o c s).outer = ({ s with owner := some { o with released := true } } : State).outer :=
    outer_forEach _ (fun p u => outer_disarm p u) _ _
  have timer : addMs (disarmed o c s).clock ((disarmed o c s).station o.station).confirm =
      addMs s.clock (s.station o.station).confirm := by
    rw [clock_of_outer outer]
    unfold State.station
    rw [stations_of_outer outer]
  unfold releaseSequence
  dsimp only
  rw [ports]
  show confirmEnd o.cue (forEach c.ports (unhold o.cue) (modCue o.cue (fun x => { x with
    state := .confirming, timer := some (addMs (disarmed o c s).clock ((disarmed o c s).station o.station).confirm) })
      (disarmed o c s))) = _
  rw [timer, ← hi]
  rfl

theorem exec_release (ho : s.owner = some o) (hs : o.synced = true) (hr : o.released = false)
    (hd : reachedMs s.clock (addMs o.t0 (o.focus + o.press)) = true) :
    exec .release s = .next (finish (releaseSequence o s)) := by
  have due : s.releaseDue = some o := by simp [State.releaseDue, ho, hs, hr, Owner.releaseAt, hd]
  show execRelease s = _
  unfold execRelease
  rw [due]

theorem outer_freed (o : Owner) (c : Cue) (s : State) :
    (freed o c s).outer = ({ s with owner := some { o with released := true } } : State).outer :=
  (outer_forEach _ (fun p u => outer_unhold c.id p u) _ _).trans
    (outer_forEach (s := { s with owner := some { o with released := true } }) _ (fun p u => outer_disarm p u) c.ports)

theorem hasCue_freed (h : HasCue s c) (hf : c.state = .firing) (o : Owner) : HasCue (freed o c s) (s.confirmingCue o c) := by
  have firing : HasCue (disarmed o c s) c := HasCue.fixes (s := { s with owner := some { o with released := true } }) h
    (by rw [hf]; rfl) (.forEach fun _ p _ u => by
      unfold disarm
      split
      · exact .enterReady p false u
      · exact .refl _ u)
  have confirming : HasCue (modCue c.id (s.confirmingCue o) (disarmed o c s)) (s.confirmingCue o c) :=
    firing.modCue (f := s.confirmingCue o) fun _ => rfl
  exact confirming.of_cues (forEach_field State.cues _ (fun p u =>
    (around_parts ((around_startRest p _).trans (around_dropHold c.id p u))).2.1) _ _)

/-- The state of a port after the release (R99, R100). -/
theorem power_freed_member (h : p ∈ c.ports) (o : Owner) : ∃ w, (s.port p).power.Disarmed w ∧
    s.Unheld c.id p w ((freed o c s).port p).power := by
  obtain ⟨back, station⟩ := disarm_all h { s with owner := some { o with released := true } }
  have outer : (disarmed o c s).outer = ({ s with owner := some { o with released := true } } : State).outer :=
    outer_forEach _ (fun p u => outer_disarm p u) _ _
  have unheld (rest hold : Option Nat) : (modCue c.id (s.confirmingCue o) (disarmed o c s)).unheld c.id p rest hold =
      s.unheld c.id p rest hold :=
    unheld_congr (s := { s with owner := some { o with released := true } }) outer station
  obtain ⟨ready, other⟩ := unhold_all h c.id (modCue c.id (s.confirmingCue o) (disarmed o c s))
  exact ⟨_, back, fun rest hold e => (ready rest hold e).trans (unheld rest hold), other⟩

theorem power_freed_other (h : p ∉ c.ports) (o : Owner) : (freed o c s).port p = s.port p :=
  (forEach_others (onPort_unhold c.id) h _).trans (forEach_others onPort_disarm h _)

end Release

/-! ## The confirm timer -/

section Confirm

variable {s : State} {c : Cue}

/-- A cue whose confirmations did not come: the ports still listed take NO_CONFIRM. -/
def Cue.unconfirmed (c : Cue) : Cue := { c with members := c.members.map (fun m =>
  if c.confirm.contains m.port then { m with outcome := some .noConfirm } else m) }

theorem exec_confirmTimeout {t : Nat} (h : HasCue s c) (hs : c.state = .confirming) (ht : c.timer = some t)
    (hd : reachedMs s.clock t = true) :
    exec (.confirmTimeout c.id) s = .next (finishCue c.unconfirmed.id (modCue c.id Cue.unconfirmed s)) := by
  show execConfirmTimeout c.id s = _
  have expired : s.expired c.timer = true := by
    rw [ht]
    exact hd
  exact next_of_due (cueIn_iff.2 ⟨c, h.named, hs, expired⟩)

end Confirm

/-- Settles O39: the release of the unit, and the confirm timer. -/
theorem releaseAndConfirm : Obligations.ReleaseAndConfirm := by
  unfold Obligations.ReleaseAndConfirm
  refine ⟨fun s o c ho hs hr hd hc hf hu => ?release, fun s c t hc hu hs ht hd => ?timeout⟩
  case release =>
    obtain ⟨has, hi⟩ := hasCue_of_named hc hu
    have eq := releaseSequence_eq has.named hi
    obtain ⟨still, -, owner, -⟩ := outer_parts (outer_freed o c s)
    have confirming := hasCue_freed has hf o
    have ports (p : PortId) : (confirmEnd c.id (freed o c s)).port p = (freed o c s).port p := by
      unfold State.port
      rw [ports_confirmEnd]
    have outer := outer_confirmEnd c.id (freed o c s)
    obtain ⟨still', -, owner', -⟩ := outer_parts outer
    have armed {p : PortId} (hp : p ∈ c.ports) (full : Bool) (hw : (s.port p).power = .armed none full) :
        ((confirmEnd c.id (freed o c s)).port p).power =
          .ready ((s.stationOf p).map (fun f => addMs s.clock (f.linger * 1000))) none := by
      obtain ⟨w, ⟨back, -, -⟩, ready, -⟩ := power_freed_member (s := s) hp o
      rw [ports, ready _ _ (back full hw)]
      unfold State.unheld
      cases s.stationOf p <;> rfl
    refine ⟨_, eq ▸ exec_release ho hs hr hd, owner'.trans owner, still'.trans still,
      fun p hp full hw => by rw [armed hp full hw]; rfl,
      fun p hp => ⟨armed hp, fun ps full hw => ?pending, fun rest hold hw => ?ready, fun ha hn => ?other⟩,
      fun p hp => by rw [ports, power_freed_other hp], fun hne => ?awaits, fun he => ?ended⟩
    case pending =>
      obtain ⟨w, ⟨-, away, -⟩, -, same⟩ := power_freed_member (s := s) hp o
      rw [ports, same (away ps full hw)]
      exact away ps full hw
    case ready =>
      obtain ⟨w, ⟨-, -, back⟩, ready, -⟩ := power_freed_member (s := s) hp o
      have new := ready rest hold ((back (by rw [hw]; rfl)).trans hw)
      rw [← hi]
      refine ⟨_, _, (congrArg Port.power (ports p)).trans new, ?_, fun e => if_pos e, fun f e => by rw [e]; rfl,
        fun e => by rw [e]; rfl⟩
      split
      · exact nofun
      · assumption
    case other =>
      obtain ⟨w, ⟨-, -, back⟩, -, same⟩ := power_freed_member (s := s) hp o
      have eqw := back ha
      rw [ports, same (eqw ▸ hn), eqw]
    case awaits =>
      have stays : confirmEnd c.id (freed o c s) = freed o c s := confirmEnd_other fun x hx =>
        .inr (by rw [Option.some.inj (hx.symm.trans confirming.named)]; exact hne)
      rw [stays, ← hi]
      exact ⟨_, confirming.named, rfl, rfl, rfl, rfl⟩
    case ended =>
      have ends : confirmEnd c.id (freed o c s) = finishCue c.id (freed o c s) := by
        unfold confirmEnd
        rw [show (freed o c s).cue? c.id = _ from confirming.named]
        exact if_pos ⟨rfl, he⟩
      rw [ends, ← hi]
      rcases confirming.finish with ⟨absent, posted⟩ | kept
      · exact .inl ⟨absent, posted⟩
      · exact .inr ⟨_, kept.1, rfl, rfl, rfl, rfl⟩
  case timeout =>
    obtain ⟨has, -⟩ := hasCue_of_named hc hu
    have marked := has.modCue (f := Cue.unconfirmed) fun _ => rfl
    obtain ⟨room, full⟩ := finishCue_unique marked.named marked.2
    have run := exec_confirmTimeout has hs ht hd
    refine ⟨fun h => ?_, fun h => ?_⟩
    · rw [run, room h]
      have cues : (modCue c.id Cue.unconfirmed s).cues.filter (fun x => x.id != c.id) = s.cues.filter (fun x => x.id != c.id) :=
        congrArg State.cues (removeCue_modCue (f := Cue.unconfirmed) (fun _ => rfl) c.id s)
      exact congrArg (fun l => (.next { s with
        cues := l, reports := s.reports ++ [.cueDone c.unconfirmed.doneBody] } : Result)) cues
    · rw [run, full h]
      have cues : (modCue c.id Cue.unconfirmed s).cues.map (fun x => if x.id = c.id then c.unconfirmed.ended else x) =
          s.cues.map (fun x => if x.id = c.id then c.unconfirmed.ended else x) :=
        congrArg State.cues (modCue_modCue (f := Cue.unconfirmed) (g := fun _ => c.unconfirmed.ended) (fun _ => rfl) c.id s)
      exact congrArg (fun l => (.next { s with cues := l } : Result)) cues

end Sys2Proof.Machine

namespace Sys2Proof.Machine

/-! # Proofs: the jobs of a port through plans and pauses (R17, R21, R94, R123) -/

section Frame

variable {i : Nat} {Q : Port → Prop} {s : State} {p : PortId} {c d : Port}

/-- What a property of a record's jobs needs to be kept by every operation that creates no preparation job of cue i. -/
structure JobsFrame (i : Nat) (Q : Port → Prop) : Prop where
  same : ∀ {c d : Port}, Q c → d.queue = c.queue → d.waitLine = c.waitLine → Q d
  removes : ∀ {c : Port} (f : Job → Bool), Q c → Q (c.removeJobs f)
  cuts : ∀ {c : Port} (f : Job → Bool) (b : Bool), Q c → Q (c.cutFlight f b)
  joins : ∀ {c : Port} {k : JobKind}, Q c → (Job.mk' k).isPrepOf i = false → Q (c.enqueue k)

namespace JobsFrame

variable (F : JobsFrame i Q)
include F

theorem enter (h : Q c) (now : Nat) (new : Power) : Q (Port.enter now new c) := by
  have rail (x : Port) (old : Power) (hx : Q x) : Q (x.railChange now old) := by
    unfold Port.railChange
    repeat' split
    · exact hx
    · exact F.same hx rfl rfl
    · exact F.same hx rfl rfl
  have wait (x : Port) (hx : Q x) : Q x.dropResumeWait := by
    unfold Port.dropResumeWait
    repeat' split
    · exact hx
    · exact hx
    · exact F.same hx rfl rfl
  have changed := wait _ (rail { c with power := new } c.power (F.same h rfl rfl))
  unfold Port.enter
  dsimp only
  split
  · exact F.removes _ (F.same changed rfl rfl)
  · exact changed

theorem setPower (h : Q (s.port p)) (new : Power) : Q ((setPower p new s).port p) := by
  rw [port_setPower_eq]
  exact F.same (F.enter h s.clock new) rfl rfl

theorem enqueueJob (h : Q (s.port p)) {k : JobKind} (hk : (Job.mk' k).isPrepOf i = false) : Q ((enqueueJob p k s).port p) := by
  unfold Machine.enqueueJob
  rw [port_modPort_self]
  exact F.joins h hk

theorem modPort (h : Q (s.port p)) {f : Port → Port} (hq : (f (s.port p)).queue = (s.port p).queue)
    (hw : (f (s.port p)).waitLine = (s.port p).waitLine) : Q ((s.modPort p f).port p) := by
  rw [port_modPort_self]
  exact F.same h hq hw

theorem setOffload (h : Q (s.port p)) (v : Bool) : Q ((setOffload p v s).port p) := by
  rw [port_setOffload_eq]
  exact F.same h rfl rfl

theorem forEach {α : Type} {xs : List α} {g : α → State → State} (hg : ∀ x ∈ xs, ∀ u : State, Q (u.port p) → Q ((g x u).port p))
    (h : Q (s.port p)) : Q ((forEach xs g s).port p) := by
  induction xs generalizing s with
  | nil => exact h
  | cons x xs ih => exact ih (fun y hy => hg y (List.mem_cons_of_mem _ hy)) (hg x List.mem_cons_self s h)

theorem loseSettings (h : Q (s.port p)) : Q ((loseSettings p s).port p) := by
  refine F.forEach (fun c _ u hu => ?_) h
  cases c.state with
  | preparing =>
    show Q ((u.modPort p (fun q => (q.removeJobs (Job.isPrepOf c.id)).cutFlight (Job.isPrepOf c.id) false)).port p)
    rw [port_modPort_self]
    exact F.cuts _ _ (F.removes _ hu)
  | _ => exact hu

theorem enterDoze (h : Q (s.port p)) : Q ((enterDoze p s).port p) := F.enqueueJob (F.setPower h _) rfl

theorem enterDeep (h : Q (s.port p)) : Q ((enterDeep p s).port p) := by
  unfold Machine.enterDeep
  exact F.loseSettings (s := clearEntries p _) (F.setOffload (F.setPower h .deep) false)

theorem startKeepwarm (h : Q (s.port p)) : Q ((startKeepwarm p s).port p) := by
  unfold Machine.startKeepwarm
  split
  · exact F.modPort h rfl rfl
  · exact F.enterDoze h

theorem pauseAction (h : Q (s.port p)) (x : Target) : Q ((pauseAction p x s).port p) := by
  cases x with
  | doze => exact F.enterDoze h
  | keepwarm => exact F.startKeepwarm (F.enqueueJob (F.setPower h _) rfl)
  | deep => exact F.enterDeep h

theorem pauseReady (h : Q (s.port p)) (ps : Pause) : Q ((pauseReady p ps s).port p) := by
  unfold Machine.pauseReady
  split
  · exact F.setPower h _
  · exact F.pauseAction h _

theorem pausingEvent (h : Q (s.port p)) : Q ((pausingEvent p s).port p) := by
  unfold Machine.pausingEvent
  repeat' split
  · exact h
  · exact F.pauseAction h _
  · exact h

theorem startRest (h : Q (s.port p)) : Q ((startRest p s).port p) := by
  unfold Machine.startRest
  split
  · exact F.modPort h rfl rfl
  · exact h

theorem dropHold (h : Q (s.port p)) (k : Nat) : Q ((dropHold k p s).port p) := by
  unfold Machine.dropHold
  repeat' split
  · exact F.modPort h rfl rfl
  · exact h
  · exact h

theorem restAfter (h : Q (s.port p)) (k : Nat) : Q ((restAfter k p s).port p) := by
  unfold Machine.restAfter
  repeat' split
  · exact F.startRest h
  · exact F.startRest (F.dropHold h k)
  · exact h
  · exact h

theorem prepareMember {c : Cue} (hc : c.id ≠ i) (h : Q (s.port p)) : Q ((prepareMember c p s).port p) := by
  have checked : Q ((checkEntries p c.form c.profile s).port p) := by
    unfold checkEntries
    split <;> exact h
  unfold Machine.prepareMember
  dsimp only
  split
  · exact checked
  · show Q ((State.modPort _ p _).port p)
    rw [port_modPort_self]
    exact F.joins checked (by simp [Job.isPrepOf, Job.mk', hc])

theorem checkOnReady (hc : ∀ c ∈ s.cues, c.id ≠ i) (h : Q (s.port p)) : Q ((checkOnReady p s).port p) :=
  F.forEach (fun c hm u hu => F.prepareMember (hc c (List.mem_of_mem_filter hm)) hu) h

theorem handOver (h : Q (s.port p)) : Q ((handOver p s).port p) := by
  unfold Machine.handOver
  repeat' split
  · rw [port_modPort_self]
    exact F.joins (F.same h rfl rfl) rfl
  · exact h
  · exact h

theorem enterReady (hc : ∀ c ∈ s.cues, c.id ≠ i) (h : Q (s.port p)) (rest : Bool) : Q ((enterReady p rest s).port p) := by
  have entered := F.setPower h (.ready none none)
  have cues : (Machine.setPower p (.ready none none) s).cues = s.cues := (around_parts (around_setPower p _ s)).2.1
  unfold Machine.enterReady
  dsimp only
  refine F.handOver ?_
  split
  · exact F.pauseReady entered _
  · split
    · refine F.checkOnReady ?_ (F.startRest entered)
      rw [(around_parts (around_startRest p _)).2.1, cues]
      exact hc
    · refine F.checkOnReady ?_ entered
      rw [cues]
      exact hc

theorem of_plans {t : State} (h : Q (s.port p)) (g : Plans p s t) : Q (t.port p) :=
  F.same h (field_of_planless g.record Port.queue) (field_of_planless g.record Port.waitLine)

theorem of_onPort {t : State} {q : PortId} (h : Q (s.port p)) (g : OnPort q s t) (hp : p = q → Q (t.port p)) : Q (t.port p) := by
  by_cases hq : p = q
  · exact hp hq
  · rw [g.others p hq]
    exact h

end JobsFrame

end Frame

/-! ## A cue that is out of the list -/

section Gone

variable {i k : Nat} {Q : Port → Prop} {s t : State} {p q : PortId}

/-- No cue of the list has an id. -/
def State.NoCue (s : State) (i : Nat) : Prop := ∀ c ∈ s.cues, c.id ≠ i

/-- The ids of the cues of the list, in its order. -/
def State.ids (s : State) : List Nat := s.cues.map (·.id)

theorem ids_of_outlines (e : t.outlines = s.outlines) : t.ids = s.ids := by
  have named (u : State) : u.ids = u.outlines.map (·.id) := by
    rw [State.ids, State.outlines, List.map_map] <;> rfl
  rw [named, named, e]

theorem ids_modCue {f : Cue → Cue} (hf : ∀ c, (f c).id = c.id) (k : Nat) (s : State) : (modCue k f s).ids = s.ids := by
  refine (List.map_map ..).trans (List.map_congr_left fun c _ => ?_)
  simp only [Function.comp]
  split
  · exact hf c
  · rfl

theorem ids_armedFor (r : FireReq) (c : Cue) (s : State) : (armedFor r c s).ids = s.ids := by
  refine (ids_modCue (f := s.grantInto r c) (fun _ => rfl) ..).trans ?_
  exact congrArg (List.map Cue.id) (cues_armed (s.armedPorts c) (.armed none false) (unitGranted r s))

theorem ids_grantReq (r : FireReq) (s : State) : (grantReq r s).ids = s.ids := by
  cases hc : s.cue? r.cue with
  | none =>
    unfold grantReq
    rw [hc] <;> rfl
  | some c => rw [grantReq_eq hc, ids_of_outlines (outlines_lossOfNeed ..), ids_armedFor]

theorem State.NoCue.of_ids (h : s.NoCue i) (e : t.ids = s.ids) : t.NoCue i := by
  intro c hc hi
  have hm : i ∈ t.ids := List.mem_map.2 ⟨c, hc, hi⟩
  rw [e] at hm
  obtain ⟨d, hd, e⟩ := List.mem_map.1 hm
  exact h d hd e

theorem State.NoCue.of_outlines (h : s.NoCue i) (e : t.outlines = s.outlines) : t.NoCue i := h.of_ids (ids_of_outlines e)

theorem JobsFrame.planOne (F : JobsFrame i Q) (hn : s.NoCue i) (h : Q (s.port p)) (k : Nat) : Q ((planOne p k s).port p) := by
  by_cases hp : (s.port p).power.isPausing = true
  · obtain ⟨ps, w, hw⟩ : ∃ ps w, (s.port p).power = .pausing ps w := by
      cases hw : (s.port p).power <;> simp [hw, Power.isPausing] at hp ⊢
    unfold Machine.planOne
    split
    · exact h
    · dsimp only
      rw [hw, if_neg (show ¬ (Power.pausing ps w).isFault = true from Bool.false_ne_true),
        if_neg (show ¬ (Power.pausing ps w).isVacant = true from Bool.false_ne_true)]
      split
      · exact h
      split
      · exact h
      dsimp only
      split
      · exact F.enterReady (hn.of_outlines (outlines_setDisp ..)) h false
      · exact h
  · exact F.of_plans h ((Plans.refl p s).planOne (Bool.eq_false_iff.2 hp) k)

theorem JobsFrame.replan (F : JobsFrame i Q) (hn : s.NoCue i) (h : Q (s.port p)) : Q ((replan p s).port p) := by
  have all (l : List Nat) (u : State) (hu : u.NoCue i) (hq : Q (u.port p)) : Q ((Machine.forEach l (Machine.planOne p) u).port p) := by
    induction l generalizing u with
    | nil => exact hq
    | cons k l ih => exact ih _ (hu.of_outlines (outlines_planOne p k u)) (F.planOne hu hq k)
  exact all _ s hn h

theorem JobsFrame.reneed (F : JobsFrame i Q) (hn : s.NoCue i) (h : Q (s.port p)) (k : Nat) : Q ((reneed k p s).port p) := by
  unfold Machine.reneed
  repeat' split
  · exact h
  · exact F.replan (hn.of_outlines (outlines_setResv ..)) (F.modPort h rfl rfl)
  · exact F.of_plans (F.modPort (f := ({ · with resv := none })) h rfl rfl) (.settleCommitment (.refl p _))
  · exact h

theorem JobsFrame.lossOfNeed (F : JobsFrame i Q) (hn : s.NoCue i) (h : Q (s.port p)) (k : Nat) : Q ((lossOfNeed k s).port p) := by
  have all (l : List PortId) (u : State) (hu : u.NoCue i) (hq : Q (u.port p)) : Q ((Machine.forEach l (Machine.reneed k) u).port p) := by
    induction l generalizing u with
    | nil => exact hq
    | cons q l ih =>
      exact ih _ (hu.of_outlines (outlines_reneed k q u)) (F.of_onPort hq ((OnPort.refl q u).reneed k) fun e => e ▸ F.reneed hu (e ▸ hq) k)
  exact all _ s hn h

theorem JobsFrame.endPreps (F : JobsFrame i Q) (h : Q (s.port p)) (k : Nat) : Q ((endPreps k p s).port p) := by
  have cut : Q ((s.modPort p (fun c => (c.removeJobs (Job.isPrepOf k)).cutFlight (Job.isPrepOf k) false)).port p) := by
    rw [port_modPort_self]
    exact F.cuts _ _ (F.removes _ h)
  unfold Machine.endPreps
  dsimp only
  split
  · exact F.pausingEvent cut
  · exact cut

theorem JobsFrame.grantReq (F : JobsFrame i Q) (hn : s.NoCue i) (h : Q (s.port p)) (r : FireReq) : Q ((grantReq r s).port p) := by
  cases hc : s.cue? r.cue with
  | none =>
    unfold Machine.grantReq
    rw [hc]
    exact h
  | some c =>
    have armed : Q ((armedFor r c s).port p) := by
      refine F.forEach (s := unitGranted r s) (fun q _ u hu => ?_) h
      exact F.of_onPort hu ((OnPort.refl q u).setPower _) fun e => e ▸ F.setPower (e ▸ hu) _
    rw [grantReq_eq hc]
    exact F.lossOfNeed (hn.of_ids (ids_armedFor r c s)) armed r.cue

theorem grantRule_cases (s : State) : grantRule s = s ∨ ∃ r ∈ s.waiting, grantRule s = grantReq r s := by
  unfold grantRule
  split
  · rename_i r hr
    exact .inr ⟨r, (List.mem_filter.1 (firstReq_first hr).1).1, rfl⟩
  · exact .inl rfl

theorem JobsFrame.grantRule (F : JobsFrame i Q) (hn : s.NoCue i) (h : Q (s.port p)) : Q ((grantRule s).port p) := by
  rcases grantRule_cases s with e | ⟨r, -, e⟩
  · rwa [e]
  · rw [e]
    exact F.grantReq hn h r

theorem ids_grantRule (s : State) : (grantRule s).ids = s.ids := by
  rcases grantRule_cases s with e | ⟨r, -, e⟩
  · rw [e]
  · rw [e, ids_grantReq]

end Gone

end Sys2Proof.Machine

namespace Sys2Proof.Machine

/-! # Proofs: the preparation jobs of a cancelled cue, and the jobs behind the head of a queue (R94, R102) -/

section Instances

variable {i : Nat} {c d : Port} {f : Job → Bool}

namespace Port.OnlyHeadStarted

theorem same (h : c.OnlyHeadStarted) (hq : d.queue = c.queue) (hw : d.waitLine = c.waitLine) : d.OnlyHeadStarted := by
  unfold Port.OnlyHeadStarted at h ⊢
  rwa [hq, hw]

/-- A job that has not been started joins the queue. -/
theorem push (h : c.OnlyHeadStarted) (k : JobKind) : (pushJob k c).OnlyHeadStarted := h.of_mem fun j hj => by
  rcases List.mem_append.1 hj with hj | hj
  · rcases mem_tail_append hj with hj | hj
    · exact .inr (List.mem_append_left _ hj)
    · exact .inl (by rw [List.mem_singleton.1 hj]; rfl)
  · exact .inr (List.mem_append_right _ hj)

theorem enqueue (h : c.OnlyHeadStarted) (k : JobKind) : (c.enqueue k).OnlyHeadStarted := by
  unfold Port.enqueue
  split
  · exact h.push k
  · refine h.of_mem fun j hj => ?_
    simp only [List.mem_append, List.mem_singleton] at hj
    rcases hj with hj | hj | hj
    · exact .inr (List.mem_append_left _ hj)
    · exact .inr (List.mem_append_right _ hj)
    · exact .inl (by rw [hj]; rfl)

theorem serveUpTo (h : c.OnlyHeadStarted) (n : Nat) : (c.serveUpTo n).OnlyHeadStarted := by
  have poll (x : Port) (h : x.OnlyHeadStarted) : (x.servePoll n).OnlyHeadStarted := by
    have cleared : ({ x with markPoll := false } : Port).OnlyHeadStarted := h.same rfl rfl
    unfold Port.servePoll
    dsimp only
    repeat' split
    · exact cleared.push _
    · exact cleared
    · exact h
  have thermal (x : Port) (h : x.OnlyHeadStarted) : (x.serveThermal n).OnlyHeadStarted := by
    have cleared : ({ x with markThermal := false } : Port).OnlyHeadStarted := h.same rfl rfl
    unfold Port.serveThermal
    dsimp only
    repeat' split
    · exact cleared
    · exact cleared.push _
    · exact h
  have ping (x : Port) (h : x.OnlyHeadStarted) : (x.servePing n).OnlyHeadStarted := by
    have cleared : ({ x with markPing := false } : Port).OnlyHeadStarted := h.same rfl rfl
    unfold Port.servePing
    dsimp only
    repeat' split
    · exact cleared.push _
    · exact cleared
    · exact h
  refine (ping _ (thermal _ (poll c h))).of_mem fun j hj => .inr ?_
  rcases List.mem_append.1 hj with hj | hj
  · exact List.mem_append.2 ((mem_tail_append hj).imp_right List.mem_of_mem_take)
  · exact List.mem_append_right _ (List.mem_of_mem_drop hj)

theorem removeJobs (h : c.OnlyHeadStarted) (f : Job → Bool) : (c.removeJobs f).OnlyHeadStarted := by
  refine serveUpTo (c := c.without f) (h.of_mem fun j hj => .inr ?_) _
  exact List.mem_append.2 ((List.mem_append.1 hj).imp mem_tail_filter List.mem_of_mem_filter)

theorem cutFlight (h : c.OnlyHeadStarted) (f : Job → Bool) (b : Bool) : (c.cutFlight f b).OnlyHeadStarted := by
  rcases cutFlight_cases f b c with ⟨e, -⟩ | ⟨j, js, hq, -, -, ⟨-, e⟩ | ⟨-, e⟩⟩ <;> rw [e]
  · exact h
  · exact h.of_mem fun x hx => .inr (by rwa [hq])
  · refine serveUpTo (c := { c with queue := js }) (h.of_mem fun x hx => .inr ?_) _
    rw [hq]
    exact List.mem_append.2 ((List.mem_append.1 hx).imp_left List.mem_of_mem_tail)

end Port.OnlyHeadStarted

theorem onlyHeadFrame (i : Nat) : JobsFrame i Port.OnlyHeadStarted where
  same h hq hw := h.same hq hw
  removes f h := h.removeJobs f
  cuts f b h := h.cutFlight f b
  joins h _ := h.enqueue _

/-- A preparation job of a cue is left only in flight, and cut. -/
def Job.prepOnlyCut (i : Nat) (j : Job) : Prop := j.isPrepOf i = true → j.started = true ∧ j.cut = true

theorem owed_prepOnlyCut (i : Nat) : OwedJobs (Job.prepOnlyCut i) := ⟨nofun, nofun, nofun⟩

theorem prepCutFrame (i : Nat) : JobsFrame i (Port.JobsOnly (Job.prepOnlyCut i)) where
  same h hq hw := h.of_eq hq hw
  removes f h := Port.JobsOnly.removeJobs (owed_prepOnlyCut i) h f
  cuts {c} f b h := by
    rcases cutFlight_cases f b c with ⟨e, -⟩ | ⟨j, js, hq, hs, -, ⟨-, e⟩ | ⟨-, e⟩⟩ <;> rw [e]
    · exact h
    · intro x hx
      rcases List.mem_append.1 hx with hx | hx
      · rcases List.mem_cons.1 hx with rfl | hx
        · exact fun _ => ⟨hs, rfl⟩
        · exact h x (List.mem_append_left _ (hq ▸ List.mem_cons_of_mem _ hx))
      · exact h x (List.mem_append_right _ hx)
    · refine Port.JobsOnly.serveUpTo (c := { c with queue := js }) (owed_prepOnlyCut i) fun x hx => h x ?_
      exact List.mem_append.2 ((List.mem_append.1 hx).imp_left fun hx => hq ▸ List.mem_cons_of_mem _ hx)
  joins {c k} h hk := by
    unfold Port.enqueue
    split
    · exact h.push fun e => absurd e (by simp [hk])
    · intro x hx
      simp only [Port.jobs, List.mem_append, List.mem_singleton] at hx
      rcases hx with hx | hx | rfl
      · exact h x (List.mem_append_left _ hx)
      · exact h x (List.mem_append_right _ hx)
      · exact fun e => absurd e (by simp [hk])

/-- Where the preparation jobs of a cue are taken back, the one in flight is cut and no other is left. -/
theorem prepOnlyCut_cut (h : c.OnlyHeadStarted) (i : Nat) :
    ((c.removeJobs (Job.isPrepOf i)).cutFlight (Job.isPrepOf i) false).JobsOnly (Job.prepOnlyCut i) := by
  have only := h.removeJobs (Job.isPrepOf i)
  have flying : (c.removeJobs (Job.isPrepOf i)).JobsOnly (fun j => j.isPrepOf i = true → j.started = true) :=
    Port.JobsOnly.serveUpTo (c := c.without (Job.isPrepOf i)) ⟨nofun, nofun, nofun⟩ fun _ hj hm => ((mem_without.1 hj).2 hm).2
  generalize c.removeJobs (Job.isPrepOf i) = d at only flying
  have behind (x : Job) (hx : x ∈ d.queue.tail ++ d.waitLine) : x.isPrepOf i = true → x.started = true ∧ x.cut = true := fun e => by
    have started := flying x (List.mem_append.2 ((List.mem_append.1 hx).imp_left List.mem_of_mem_tail)) e
    exact absurd started (by simp [only x hx])
  rcases cutFlight_cases (Job.isPrepOf i) false d with ⟨e, none_⟩ | ⟨j, js, hq, hs, -, ⟨-, e⟩ | ⟨-, e⟩⟩ <;> rw [e]
  · intro x hx he
    rcases List.mem_append.1 hx with hm | hm
    · cases hq : d.queue with
      | nil => rw [hq] at hm; cases hm
      | cons j js =>
        rw [hq] at hm
        rcases List.mem_cons.1 hm with rfl | hm
        · exact absurd he (by simp [none_ _ js hq (flying _ hx he)])
        · exact behind x (List.mem_append_left _ (by rwa [hq])) he
    · exact behind x (List.mem_append_right _ hm) he
  · intro x hx
    rcases List.mem_append.1 hx with hx | hx
    · rcases List.mem_cons.1 hx with rfl | hx
      · exact fun _ => ⟨hs, rfl⟩
      · exact behind x (List.mem_append_left _ (by rwa [hq]))
    · exact behind x (List.mem_append_right _ hx)
  · refine Port.JobsOnly.serveUpTo (c := { d with queue := js }) (owed_prepOnlyCut i) fun x hx => behind x ?_
    rw [hq]
    exact hx

theorem prepOnlyCut_endPreps {s : State} {p : PortId} (h : (s.port p).OnlyHeadStarted) (i : Nat) :
    ((endPreps i p s).port p).JobsOnly (Job.prepOnlyCut i) := by
  have cut : ((s.modPort p (fun c => (c.removeJobs (Job.isPrepOf i)).cutFlight (Job.isPrepOf i) false)).port p).JobsOnly
      (Job.prepOnlyCut i) := by
    rw [port_modPort_self]
    exact prepOnlyCut_cut h i
  unfold endPreps
  dsimp only
  split
  · exact (prepCutFrame i).pausingEvent cut
  · exact cut

end Instances

end Sys2Proof.Machine

namespace Sys2Proof.Machine

/-! # Proofs: planning does not look at the jobs of a port (R110–R115) -/

section Alike

variable {s t u v : State} {p : PortId}

theorem needs_of_outlines (h : t.outlines = s.outlines) (p : PortId) : t.needs p = s.needs p := by
  have named (u : State) : u.needs p = (u.outlines.filter (fun c => c.state.planned? && c.includes p)).map (·.id) := by
    unfold State.needs State.outlines
    rw [List.filter_map, List.map_map]
    refine congrArg (List.map Cue.id) (List.filter_congr fun c _ => ?_)
    simp [Cue.includes, Cue.outline, List.any_map, Function.comp_def, Member.seat]
  rw [named, named, h]

/-- Two machines that differ at most in the jobs of their ports, the entries that the cues hold of their members, the advance
table and the reports. -/
structure Alike (s t : State) : Prop where
  outer : t.outer = s.outer
  outlines : t.outlines = s.outlines
  body : ∀ q, (t.port q).body = (s.port q).body

namespace Alike

theorem refl (s : State) : Alike s s := ⟨rfl, rfl, fun _ => rfl⟩

theorem symm (h : Alike s t) : Alike t s := ⟨h.outer.symm, h.outlines.symm, fun q => (h.body q).symm⟩

theorem trans (h : Alike s t) (g : Alike t u) : Alike s u :=
  ⟨g.outer.trans h.outer, g.outlines.trans h.outlines, fun q => (g.body q).trans (h.body q)⟩

theorem field {α : Type} (h : Alike s t) (q : PortId) (f : Port → α) (hf : ∀ c : Port, f c.body = f c := by exact fun _ => rfl) :
    f (t.port q) = f (s.port q) := (hf _).symm.trans ((congrArg f (h.body q)).trans (hf _))

theorem clock (h : Alike s t) : t.clock = s.clock := clock_of_outer h.outer

theorem steady (h : Alike s t) : t.steady = s.steady := congrArg (·.2.2.1) (outer_parts h.outer).1

theorem inrush (h : Alike s t) : t.inrush = s.inrush := congrArg (·.2.2.2.1) (outer_parts h.outer).1

/-- Entries of the cues are of no account. -/
theorem setDisp (i : Nat) (p : PortId) (d : Option Disp) (r : Option Nat) (s : State) : Alike s (setDisp i p d r s) :=
  ⟨rfl, outlines_setDisp .., fun _ => rfl⟩

theorem rewriteEntries (p : PortId) (x old : Nat) (s : State) : Alike s (rewriteEntries p x old s) := by
  refine ⟨outer_rewriteEntries .., outlines_rewriteEntries .., fun q => ?_⟩
  have ports : (Machine.rewriteEntries p x old s).ports = s.ports := by
    unfold Machine.rewriteEntries
    split
    · exact forEach_field State.ports _ (fun c u => by rfl) _ s
    · rfl
  unfold State.port
  rw [ports]

theorem modPort (h : Alike s t) {f g : Port → Port} (hf : (g (t.port p)).body = (f (s.port p)).body) :
    Alike (s.modPort p f) (t.modPort p g) := by
  refine ⟨h.outer, h.outlines, fun q => ?_⟩
  by_cases hq : q = p
  · subst hq
    rw [port_modPort_self, port_modPort_self]
    exact hf
  · rw [port_modPort_ne (Ne.symm hq), port_modPort_ne (Ne.symm hq)]
    exact h.body q

theorem setResv (h : Alike s t) (r : Option Reservation) : Alike (setResv p r s) (setResv p r t) :=
  h.modPort (congrArg (fun c : Port => { c with resv := r }) (h.body p))

theorem commit (h : Alike s t) : Alike (commit p s) (commit p t) :=
  h.modPort (congrArg (fun c : Port => { c with commitment := some c.awakeCurrent }) (h.body p))

theorem settleCommitment (h : Alike s t) : Alike (settleCommitment p s) (settleCommitment p t) := by
  refine ⟨by rw [outer_settleCommitment, outer_settleCommitment, h.outer],
    by rw [outlines_settleCommitment, outlines_settleCommitment, h.outlines], fun q => ?_⟩
  by_cases hq : q = p
  · subst hq
    rw [port_settleCommitment_eq, port_settleCommitment_eq]
    exact congrArg (fun c : Port => { c with
      commitment := if c.power.awakeState = false ∧ c.resv = none then none else c.commitment }) (h.body q)
  · rw [(OnPort.refl p t).settleCommitment.others q hq, (OnPort.refl p s).settleCommitment.others q hq]
    exact h.body q

theorem releaseResv (h : Alike s t) : Alike (releaseResv p s) (releaseResv p t) := (h.setResv none).settleCommitment

theorem fits (h : Alike s t) (r : Reservation) (k : Nat) : t.fits r k = s.fits r k := by
  have iff : t.fits r k = true ↔ s.fits r k = true := by
    rw [fits_iff, fits_iff]
    exact fits_congr (fun q => h.field q Port.resv) h.clock h.inrush
  exact Bool.eq_iff_iff.2 iff

theorem findStart (h : Alike s t) (r : Reservation) (req : Nat) : t.findStart r req = s.findStart r req := by
  have down (n : Nat) : t.searchDown r n = s.searchDown r n := by
    induction n with
    | zero => rfl
    | succ n ih => simp only [State.searchDown, h.fits, ih]
  have up (n k : Nat) : t.searchUp r n k = s.searchUp r n k := by
    induction n generalizing k with
    | zero => rfl
    | succ n ih => simp only [State.searchUp, h.fits, ih]
  unfold State.findStart State.offset State.nowSlot
  rw [down, up, h.clock]

theorem placement (h : Alike s t) (p : PortId) : t.placement p = s.placement p := by
  have shadow : t.shadowOf p = s.shadowOf p := by
    unfold State.shadowOf State.boundEntry State.boundPos State.entryAt
    rw [table_of_outer h.outer]
  unfold State.placement State.latency
  rw [h.field p Port.power, h.field p Port.profile, shadow]

theorem placeFor (h : Alike s t) (i req : Nat) : Alike (placeFor p i req s) (placeFor p i req t) := by
  unfold Machine.placeFor
  rw [h.placement]
  cases s.placement p with
  | none => exact h
  | some r =>
    dsimp only
    rw [h.findStart]
    cases s.findStart r req with
    | none => exact h
    | some kd =>
      have start : t.startAt r kd.1 (some i) = s.startAt r kd.1 (some i) := by
        unfold State.startAt State.slotAt State.nowSlot
        rw [h.clock]
      dsimp only
      rw [start]
      exact (setDisp ..).symm.trans ((h.setResv _).trans (setDisp ..))

theorem offset (h : Alike s t) (x : Nat) : t.offset x = s.offset x := by
  unfold State.offset State.nowSlot
  rw [h.clock]

theorem admits (h : Alike s t) (p : PortId) (n : Nat) : t.admits p n = s.admits p n := by
  have committed : t.committed = s.committed := by
    unfold State.committed
    exact congrArg (fun f => allPorts.foldl f 0) (funext fun acc => funext fun q => by rw [h.field q Port.commitment])
  unfold State.admits
  rw [committed, h.field p Port.awakeCurrent, h.steady]

theorem planPaused (h : Alike s t) (i req : Nat) : Alike (planPaused p i req s) (planPaused p i req t) := by
  have disp (d d' : Option Disp) (r r' : Option Nat) {u v : State} (h : Alike u v) :
      Alike (Machine.setDisp i p d r u) (Machine.setDisp i p d' r' v) := (setDisp ..).symm.trans (h.trans (setDisp ..))
  unfold Machine.planPaused
  rw [h.field p Port.resv]
  cases (s.port p).resv with
  | some r =>
    dsimp only
    rw [h.offset, h.offset]
    split
    · exact disp _ _ _ _ h
    split
    · exact disp _ _ _ _ h
    · exact settleCommitment ((rewriteEntries ..).symm.trans (((h.setResv none).placeFor i req).trans (rewriteEntries ..)))
  | none =>
    dsimp only
    rw [h.field p Port.profile, h.field p Port.commitment, h.admits]
    split
    · exact disp _ _ _ _ h
    split
    · exact h.placeFor i req
    split
    · exact h.commit.placeFor i req
    · exact disp _ _ _ _ h

theorem planOne (h : Alike s t) (hp : (s.port p).power.isPausing = false) (i : Nat) : Alike (planOne p i s) (planOne p i t) := by
  have disp (d d' : Option Disp) (r r' : Option Nat) : Alike (Machine.setDisp i p d r s) (Machine.setDisp i p d' r' t) :=
    (setDisp ..).symm.trans (h.trans (setDisp ..))
  have found := find_outlines t i
  rw [h.outlines, find_outlines] at found
  unfold Machine.planOne
  cases hc : s.cue? i with
  | none =>
    rw [hc] at found
    cases hd : t.cue? i with
    | none => exact h
    | some d => rw [hd] at found; cases found
  | some c =>
    obtain ⟨d, hd, outline⟩ := cue?_outline h.outlines hc
    have req : t.requiredReady d = s.requiredReady c := by
      unfold State.requiredReady State.cueStation State.station Cue.slot
      rw [field_of_outline outline Cue.station, field_of_outline outline Cue.time, stations_of_outer h.outer]
    rw [hd]
    dsimp only
    rw [h.field p Port.power, h.field p Port.hostPause, h.field p Port.grade, req]
    split
    · exact disp ..
    split
    · exact disp ..
    split
    · exact disp ..
    split
    · exact disp ..
    cases hw : (s.port p).power with
    | pausing ps w => rw [hw] at hp; cases hp
    | ready | armed | waking => exact disp ..
    | deep | doze | keepwarm => exact h.planPaused ..
    | vacant | fault => exact h

theorem needs (h : Alike s t) (p : PortId) : t.needs p = s.needs p := needs_of_outlines h.outlines p

theorem replan (h : Alike s t) (hp : (s.port p).power.isPausing = false) : Alike (replan p s) (replan p t) := by
  have all (l : List Nat) (u v : State) (huv : Alike u v) (hu : (u.port p).power.isPausing = false) :
      Alike (Machine.forEach l (Machine.planOne p) u) (Machine.forEach l (Machine.planOne p) v) := by
    induction l generalizing u v with
    | nil => exact huv
    | cons i l ih => exact ih _ _ (huv.planOne hu i) (by rw [((Plans.refl p u).planOne hu i).power]; exact hu)
  unfold Machine.replan
  rw [h.needs]
  exact all _ s t h hp

theorem reneed (h : Alike s t) (hp : (s.port p).power.isPausing = false) (i : Nat) : Alike (reneed i p s) (reneed i p t) := by
  unfold Machine.reneed
  rw [h.field p Port.resv, h.needs]
  cases (s.port p).resv with
  | none => exact h
  | some r =>
    dsimp only
    split
    · exact h
    · cases (s.needs p).filter (· != i) with
      | nil => exact h.releaseResv
      | cons first rest =>
        exact (h.setResv _).replan (by unfold Machine.setResv; rw [port_modPort_self]; exact hp)

end Alike

end Alike

end Sys2Proof.Machine

namespace Sys2Proof.Machine

/-! # Proofs: the cancel of a cue (R102) -/

/-! ## Loops over ports -/

section Loops

variable {s : State} {p : PortId} {g : PortId → State → State} {ps : List PortId}

/-- What each operation on a port keeps holds of the port in the end. -/
theorem forEach_keeps (on : ∀ q u, OnPort q u (g q u)) {R : Port → Prop} (step : ∀ u : State, R (u.port p) → R ((g p u).port p))
    (h : R (s.port p)) : R ((forEach ps g s).port p) := by
  induction ps generalizing s with
  | nil => exact h
  | cons q ps ih =>
    refine ih ?_
    by_cases hq : p = q
    · exact hq ▸ step s h
    · rw [(on q s).others p hq]
      exact h

/-- Where every other port is left as it is, one operation is all. -/
theorem forEach_single (on : ∀ q u, OnPort q u (g q u)) (idle : ∀ q ≠ p, ∀ u : State, u.port q = s.port q → g q u = u)
    (hn : ps.Nodup) (hp : p ∈ ps) : forEach ps g s = g p s := by
  have rest (l : List PortId) (u : State) (hl : p ∉ l) (hu : ∀ q ≠ p, u.port q = s.port q) : forEach l g u = u := by
    induction l generalizing u with
    | nil => rfl
    | cons q l ih =>
      obtain ⟨hq, hl⟩ := not_or.1 (mt List.mem_cons.2 hl)
      show forEach l g (g q u) = u
      rw [idle q (Ne.symm hq) u (hu q (Ne.symm hq))]
      exact ih u hl hu
  have run (l : List PortId) (u : State) (hl : l.Nodup) (hp : p ∈ l) (hu : u = s) : forEach l g u = g p s := by
    induction l generalizing u with
    | nil => cases hp
    | cons q l ih =>
      obtain ⟨hq, hl⟩ := List.nodup_cons.1 hl
      subst hu
      rcases List.mem_cons.1 hp with rfl | hp
      · exact rest l _ hq fun q hq => (on p u).others q hq
      · have ne : q ≠ p := fun e => hq (e ▸ hp)
        show forEach l g (g q u) = g p u
        rw [idle q ne u rfl]
        exact ih u hl hp rfl
  exact run ps s hn hp rfl

end Loops

/-! ## The steps of the cancel -/

section Steps

variable {s u : State} {i : Nat} {p : PortId} {c : Cue} {rest hold : Option Nat}

/-- A member whose cue is gone is no longer held for it. -/
def letGo (i : Nat) (p : PortId) (s : State) : State := restAfter i p (dropHold i p s)

theorem onPort_letGo (i : Nat) (p : PortId) (s : State) : OnPort p s (letGo i p s) := ((OnPort.refl p s).dropHold i).restAfter i

theorem around_letGo (i : Nat) (p : PortId) (s : State) : (letGo i p s).around = s.around := by
  unfold letGo restAfter
  repeat' split
  · rw [around_startRest, around_dropHold]
  · rw [around_startRest, around_dropHold, around_dropHold]
  · exact around_dropHold i p s
  · exact around_dropHold i p s

theorem restAfter_other (h : (s.port p).power.isReady = false) : restAfter i p s = s := by
  unfold restAfter
  cases hw : (s.port p).power <;> simp [hw, Power.isReady] at h ⊢

theorem letGo_other (h : (s.port p).power.isReady = false) : letGo i p s = s := by
  rw [letGo, dropHold_other h, restAfter_other h]

/-- The READY state of a member that is let go. -/
def State.lettingGo (s : State) (i : Nat) (p : PortId) (rest hold : Option Nat) : Power :=
  .ready (if rest = none ∧ (hold = none ∨ hold = some i) then
      (s.stationOf p).elim none (fun f => some (addMs s.clock (f.linger * 1000))) else rest)
    (if hold = some i then none else hold)

theorem restAfter_held (h : (s.port p).power = .ready rest hold) (hh : rest ≠ none ∨ ∃ k ≠ i, hold = some k) : restAfter i p s = s := by
  unfold restAfter
  rw [h]
  cases rest with
  | some t => rfl
  | none =>
    obtain ⟨k, hk, rfl⟩ := hh.resolve_left (· rfl)
    exact if_neg hk

theorem letGo_ready (h : (s.port p).power = .ready rest hold) :
    (letGo i p s).port p = { s.port p with power := s.lettingGo i p rest hold } := by
  have dropped : (dropHold i p s).port p = { s.port p with power := .ready rest (if hold = some i then none else hold) } := by
    rw [dropHold_ready h, port_modPort_self]
  have power : ((dropHold i p s).port p).power = .ready rest (if hold = some i then none else hold) := by rw [dropped]
  have station : (dropHold i p s).stationOf p = s.stationOf p :=
    stationOf_congr (stations_of_outer (outer_dropHold i p s)) (by rw [dropped])
  by_cases hr : rest = none ∧ (hold = none ∨ hold = some i)
  · obtain ⟨rfl, hh⟩ := hr
    have free : (if hold = some i then none else hold) = none := by rcases hh with rfl | rfl <;> simp
    have starts : restAfter i p (dropHold i p s) = startRest p (dropHold i p s) := by
      unfold restAfter
      rw [power, free]
    rw [letGo, starts, startRest_ready power, port_modPort_self, dropped, station, clock_of_outer (outer_dropHold i p s),
      State.lettingGo,
      if_pos (show (none : Option Nat) = none ∧ (hold = none ∨ hold = some i) from ⟨rfl, hh⟩), free]
  · have stays : rest ≠ none ∨ ∃ k ≠ i, (if hold = some i then none else hold) = some k := by
      by_cases hn : rest = none
      · obtain ⟨h1, h2⟩ := not_or.1 fun hh => hr ⟨hn, hh⟩
        obtain ⟨k, rfl⟩ := Option.ne_none_iff_exists'.1 h1
        exact .inr ⟨k, fun e => h2 (congrArg some e), if_neg h2⟩
      · exact .inl hn
    rw [letGo, restAfter_held power stays, dropped, State.lettingGo, if_neg hr]

theorem letGo_free (i : Nat) (p : PortId) (s : State) (rest : Option Nat) : ((letGo i p s).port p).power ≠ .ready rest (some i) := by
  cases hw : (s.port p).power with
  | ready r k =>
    rw [letGo_ready hw]
    intro e
    obtain ⟨-, e⟩ := Power.ready.inj e
    split at e
    · cases e
    · exact absurd e ‹_›
  | _ =>
    rw [letGo_other (by rw [hw]; rfl), hw]
    exact nofun

/-- What letting go of a member leaves of its record: all but the READY state. -/
theorem letGo_record (i : Nat) (p : PortId) (s : State) : ∃ w, (letGo i p s).port p = { s.port p with power := w } := by
  cases hr : (s.port p).power.isReady with
  | false => exact ⟨(s.port p).power, by rw [letGo_other hr]⟩
  | true =>
    obtain ⟨rest, hold, hw⟩ : ∃ rest hold, (s.port p).power = .ready rest hold := by
      cases hw : (s.port p).power <;> simp [hw, Power.isReady] at hr ⊢
    exact ⟨_, letGo_ready hw⟩

/-- A camera that is not in PAUSING keeps all but its jobs when a preparation is taken back. -/
theorem endPreps_calm (h : (s.port p).power.isPausing = false) (i : Nat) : endPreps i p s =
    s.modPort p (fun c => (c.removeJobs (Job.isPrepOf i)).cutFlight (Job.isPrepOf i) false) := by
  have power : ((s.modPort p (fun c => (c.removeJobs (Job.isPrepOf i)).cutFlight (Job.isPrepOf i) false)).port p).power =
      (s.port p).power := by
    rw [port_modPort_self, power_of_body ((body_cutFlight ..).trans (body_removeJobs ..))]
  have calm : pausingEvent p (s.modPort p (fun c => (c.removeJobs (Job.isPrepOf i)).cutFlight (Job.isPrepOf i) false)) =
      s.modPort p (fun c => (c.removeJobs (Job.isPrepOf i)).cutFlight (Job.isPrepOf i) false) := by
    unfold pausingEvent
    rw [power]
    cases hw : (s.port p).power <;> simp [hw, Power.isPausing] at h ⊢
  unfold endPreps
  dsimp only
  rw [calm, ite_self]

theorem body_endPreps (h : (s.port p).power.isPausing = false) (i : Nat) : ((endPreps i p s).port p).body = (s.port p).body := by
  rw [endPreps_calm h, port_modPort_self, body_cutFlight, body_removeJobs]

theorem core_endPreps (i : Nat) (p : PortId) (s : State) : ((endPreps i p s).port p).core = (s.port p).core := by
  have cut : ((s.modPort p (fun c => (c.removeJobs (Job.isPrepOf i)).cutFlight (Job.isPrepOf i) false)).port p).core =
      (s.port p).core := core_modPort (core_of_body ((body_cutFlight ..).trans (body_removeJobs ..)))
  unfold endPreps
  dsimp only
  split
  · rw [core_pausingEvent, cut]
  · exact cut

theorem onPort_endPreps (i : Nat) (p : PortId) (s : State) : OnPort p s (endPreps i p s) := by
  unfold endPreps
  dsimp only
  split
  · exact ((OnPort.refl p s).modPort _).pausingEvent
  · exact (OnPort.refl p s).modPort _

theorem onPort_reneed (i : Nat) (p : PortId) (s : State) : OnPort p s (reneed i p s) := (OnPort.refl p s).reneed i

end Steps

/-! ## The needs of the reservations -/

section Needs

variable {s : State} {i k : Nat} {p : PortId}

/-- The reservation of a port is in use, or serves another cue. -/
def Port.notFor (i : Nat) (c : Port) : Prop := ∀ r, c.resv = some r → r.started = false → r.needed ≠ some i

theorem notFor_planPaused (hk : k ≠ i) (h : (s.port p).notFor i) (req : Nat) : ((planPaused p k req s).port p).notFor i := by
  have placed (u : State) (hu : (u.port p).notFor i) : ((placeFor p k req u).port p).notFor i := by
    unfold placeFor
    repeat' split
    · show ((setResv p _ u).port p).notFor i
      rw [setResv, port_modPort_self]
      intro r hr _
      obtain rfl := Option.some.inj hr
      exact fun e => hk (Option.some.inj e)
    · exact hu
    · exact hu
  have rewritten (x old : Nat) (u : State) : (rewriteEntries p x old u).port p = u.port p := by
    unfold rewriteEntries
    split
    · exact forEach_field (fun v : State => v.port p) _ (fun c u => by rfl) _ u
    · rfl
  unfold planPaused
  repeat' split
  · exact h
  · exact h
  · rw [port_settleCommitment_eq]
    show ((rewriteEntries ..).port p).notFor i
    rw [rewritten]
    refine placed _ ?_
    show ((setResv p none s).port p).notFor i
    rw [setResv, port_modPort_self]
    exact nofun
  · exact h
  · exact placed _ h
  · refine placed _ ?_
    unfold Port.notFor
    rw [resv_commit]
    exact h
  · exact h

theorem Port.notFor.of_core {c d : Port} (h : c.notFor i) (e : d.core = c.core) : d.notFor i := by
  unfold Port.notFor
  rw [field_of_core e Port.resv]
  exact h

theorem notFor_planOne (hk : k ≠ i) (h : (s.port p).notFor i) : ((planOne p k s).port p).notFor i := by
  unfold planOne
  split
  · exact h
  dsimp only
  split
  · exact h
  split
  · exact h
  split
  · exact h
  split
  · exact h
  cases (s.port p).power with
  | pausing ps w =>
    dsimp only
    split
    · exact Port.notFor.of_core h (core_enterReady p false _)
    · exact h
  | deep | doze | keepwarm => exact notFor_planPaused hk h _
  | ready | armed | waking | vacant | fault => exact h

theorem mem_needs {i : Nat} : i ∈ s.needs p ↔ ∃ c ∈ s.cues, c.state.planned? = true ∧ c.includes p = true ∧ c.id = i := by
  simp [State.needs, and_assoc]

theorem notFor_reneed (hn : s.NoCue i) : ((reneed i p s).port p).notFor i := by
  have planned (l : List Nat) (u : State) (hl : i ∉ l) (hu : (u.port p).notFor i) : ((forEach l (planOne p) u).port p).notFor i := by
    induction l generalizing u with
    | nil => exact hu
    | cons k l ih =>
      obtain ⟨hk, hl⟩ := not_or.1 (mt List.mem_cons.2 hl)
      exact ih _ hl (notFor_planOne (Ne.symm hk) hu)
  cases hr : (s.port p).resv with
  | none =>
    unfold reneed
    rw [hr]
    intro r e
    rw [hr] at e
    cases e
  | some r =>
    by_cases hk : r.started = true ∨ r.needed ≠ some i
    · rw [reneed_kept hr hk]
      intro x hx hs
      obtain rfl := Option.some.inj (hr.symm.trans hx)
      exact hk.resolve_left (by simp [hs])
    · obtain ⟨hs, hneed⟩ := not_or.1 hk
      rw [Bool.not_eq_true] at hs
      rw [ne_eq, not_not] at hneed
      cases hf : (s.needs p).filter (· != i) with
      | nil =>
        rw [reneed_releases hr hs hneed hf, releaseResv_eq, port_modPort_self]
        exact nofun
      | cons first rest =>
        have other : first ≠ i := by
          have := (List.mem_filter.1 (hf ▸ List.mem_cons_self : first ∈ (s.needs p).filter (· != i))).2
          simpa using this
        rw [reneed_passes hr hs hneed hf]
        refine planned _ _ ?_ ?_
        · exact fun hm => by
            obtain ⟨c, hc, -, -, e⟩ := mem_needs.1 hm
            exact hn c hc e
        · rw [port_modPort_self]
          intro x hx _
          obtain rfl := Option.some.inj hx
          exact fun e => other (Option.some.inj e)

/-- Once a need is lost, no reservation that waits serves it. -/
theorem notFor_lossOfNeed (hn : s.NoCue i) (p : PortId) : ((lossOfNeed i s).port p).notFor i := by
  have all (l : List PortId) (u : State) (hu : u.NoCue i) (h : p ∈ l ∨ (u.port p).notFor i) :
      ((forEach l (reneed i) u).port p).notFor i := by
    induction l generalizing u with
    | nil => exact h.resolve_left nofun
    | cons q l ih =>
      refine ih _ (hu.of_outlines (outlines_reneed i q u)) ?_
      by_cases hq : p = q
      · exact .inr (hq ▸ notFor_reneed hu)
      · rw [(onPort_reneed i q u).others p hq]
        exact h.imp_left fun hm => (List.mem_cons.1 hm).resolve_left hq
  exact all _ s hn (.inl (mem_allPorts p))

end Needs

end Sys2Proof.Machine

namespace Sys2Proof.Machine

/-! # Proofs: CUE_CANCEL (R102) -/

section Unneeded

variable {s : State} {i : Nat} {p : PortId} {r : Reservation}

theorem reneed_idle (h : (s.port p).resv = none) : reneed i p s = s := by
  unfold reneed
  rw [h]

/-- A reservation that waits for a cue that no other cue shares is withdrawn with the need. -/
theorem reneed_unneeded (hr : (s.port p).resv = some r) (hw : r.started = false) (hn : r.needed = some i)
    (h : (s.needs p).filter (· != i) = []) :
    ((reneed i p s).port p).resv = none ∧ ((s.port p).power.awakeState = false → ((reneed i p s).port p).commitment = none) := by
  rw [reneed_releases hr hw hn h, releaseResv_eq, port_modPort_self]
  exact ⟨rfl, fun ha => if_neg (by simp [ha])⟩

end Unneeded

/-- A port with no reservation, and with no commitment where its camera was paused. -/
def Port.unreserved (w : Power) (d : Port) : Prop := d.resv = none ∧ (w.paused?.isSome = true → d.commitment = none)

section Cancel

variable {s : State} {c : Cue} {p : PortId}

/-- The machine with the cue out of the list, and its request out of the waiting set. -/
def ungranted (c : Cue) (s : State) : State := { removeCue c.id s with waiting := s.waiting.filter (fun q => q.cue != c.id) }

/-- The machine with the cue out of the list, and the unit granted anew where its request has waited. -/
def uncued (c : Cue) (s : State) : State := if c.state = .fireWait then grantRule (ungranted c s) else removeCue c.id s

/-- The machine with the preparations of the cue taken back. -/
def unprepared (c : Cue) (s : State) : State := forEach c.ports (endPreps c.id) (uncued c s)

theorem cancelCue_eq (c : Cue) (s : State) : cancelCue c s = forEach c.ports (letGo c.id) (lossOfNeed c.id (unprepared c s)) := rfl

theorem ids_uncued (c : Cue) (s : State) : (uncued c s).ids = (s.cues.filter (fun d => d.id != c.id)).map (·.id) := by
  unfold uncued
  split
  · exact ids_grantRule (ungranted c s)
  · rfl

theorem outlines_unprepared (c : Cue) (s : State) : (unprepared c s).outlines = (uncued c s).outlines :=
  outlines_forEach _ (fun p u => outlines_endPreps c.id p u) _ _

theorem outer_unprepared (c : Cue) (s : State) : (unprepared c s).outer = (uncued c s).outer :=
  outer_forEach _ (fun p u => outer_endPreps c.id p u) _ _

theorem outlines_cancelCue (c : Cue) (s : State) : (cancelCue c s).outlines = (uncued c s).outlines := by
  rw [cancelCue_eq, outlines_forEach _ (fun p u => outlines_of_around (around_letGo c.id p u)), outlines_lossOfNeed,
    outlines_unprepared]

theorem outer_cancelCue (c : Cue) (s : State) : (cancelCue c s).outer = (uncued c s).outer := by
  rw [cancelCue_eq, outer_forEach _ (fun p u => (around_parts (around_letGo c.id p u)).1), outer_lossOfNeed, outer_unprepared]

theorem noCue_uncued (c : Cue) (s : State) : (uncued c s).NoCue c.id := by
  intro d hd hi
  have hm : c.id ∈ (uncued c s).ids := List.mem_map.2 ⟨d, hd, hi⟩
  rw [ids_uncued] at hm
  obtain ⟨x, hx, e⟩ := List.mem_map.1 hm
  have := (List.mem_filter.1 hx).2
  exact absurd e (by simpa using this)

theorem noCue_unprepared (c : Cue) (s : State) : (unprepared c s).NoCue c.id := (noCue_uncued c s).of_outlines (outlines_unprepared c s)

/-- What the grant rule leaves of the machine around the unit. -/
theorem still_grantRule (s : State) : (grantRule s).still = s.still ∧ (grantRule s).table = s.table ∧
    ∀ q ∈ (grantRule s).waiting, q ∈ s.waiting := by
  rcases grantRule_cases s with e | ⟨r, -, e⟩
  · rw [e]
    exact ⟨rfl, rfl, fun _ => id⟩
  · rw [e]
    cases hc : s.cue? r.cue with
    | none =>
      unfold grantReq
      rw [hc]
      exact ⟨rfl, rfl, fun _ => List.mem_of_mem_filter⟩
    | some d =>
      obtain ⟨still, table, -, -, waiting, -⟩ := outer_parts (outer_grantReq hc)
      refine ⟨still, table, fun q hq => ?_⟩
      rw [waiting] at hq
      exact List.mem_of_mem_filter hq

theorem still_uncued (c : Cue) (s : State) : (uncued c s).still = s.still ∧ (uncued c s).table = s.table := by
  unfold uncued
  split
  · obtain ⟨still, table, -⟩ := still_grantRule (ungranted c s)
    exact ⟨still, table⟩
  · exact ⟨rfl, rfl⟩

/-! ### The states of the cameras -/

theorem body_unprepared (h : ((uncued c s).port p).power.isPausing = false) :
    ((unprepared c s).port p).body = ((uncued c s).port p).body :=
  forEach_keeps (onPort_endPreps c.id) (R := fun d => d.body = ((uncued c s).port p).body)
    (fun u hu => by rw [body_endPreps (by rw [power_of_body hu]; exact h), hu]) rfl

/-- Until the members are let go, a camera that is not in PAUSING keeps all but its jobs, its reservation and its
commitment. -/
theorem field_needless {α : Type} (h : ((uncued c s).port p).power.isPausing = false) (f : Port → α)
    (hb : ∀ d : Port, f d.body = f d := by exact fun _ => rfl) (hf : ∀ d : Port, f d.planless = f d := by exact fun _ => rfl) :
    f ((lossOfNeed c.id (unprepared c s)).port p) = f ((uncued c s).port p) := by
  have kept := body_unprepared h
  rw [field_of_planless (planless_lossOfNeed (by rw [power_of_body kept]; exact h) c.id) f hf]
  exact (hb _).symm.trans ((congrArg f kept).trans (hb _))

theorem power_cancelCue (h : ((uncued c s).port p).power.isPausing = false) (hr : ((uncued c s).port p).power.isReady = false) :
    ((cancelCue c s).port p).power = ((uncued c s).port p).power := by
  rw [cancelCue_eq]
  exact forEach_keeps (onPort_letGo c.id) (R := fun d => d.power = ((uncued c s).port p).power)
    (fun u hu => by rw [letGo_other (hu ▸ hr), hu]) (field_needless h Port.power)

/-- A member that was held for the cue, with no rest timer, starts it (R100). -/
theorem power_cancelCue_held {f : Station} (hs : c.state ≠ .fireWait) (hp : p ∈ c.ports) (hf : s.stationOf p = some f)
    (hw : (s.port p).power = .ready none (some c.id)) :
    ((cancelCue c s).port p).power = .ready (some (addMs s.clock (f.linger * 1000))) none := by
  have start : uncued c s = removeCue c.id s := if_neg hs
  have calm : ((uncued c s).port p).power.isPausing = false := by
    rw [start]
    exact congrArg Power.isPausing hw
  have power : ((lossOfNeed c.id (unprepared c s)).port p).power = .ready none (some c.id) := by
    rw [field_needless calm Port.power, start]
    exact hw
  have station : ((lossOfNeed c.id (unprepared c s)).port p).station = (s.port p).station := by
    rw [field_needless calm Port.station, start] <;> rfl
  have outer : (lossOfNeed c.id (unprepared c s)).outer = s.outer := by
    rw [outer_lossOfNeed, outer_unprepared, start] <;> rfl
  rw [cancelCue_eq]
  refine forEach_reaches (onPort_letGo c.id) (fun q u => (around_parts (around_letGo c.id q u)).1)
    (R := fun d => d.power = .ready (some (addMs s.clock (f.linger * 1000))) none) (fun u ho e => ?_) (fun u _ hu => ?_) hp
  · have here : u.stationOf p = some f := by
      rw [stationOf_congr (stations_of_outer (ho.trans outer)) (by rw [e, station]), hf]
    rw [letGo_ready (by rw [e, power]), State.lettingGo, here, clock_of_outer (ho.trans outer)]
    simp
  · rw [letGo_ready hu]
    simp [State.lettingGo]

/-- A cue that fires is not touched by the cancel of another. -/
theorem firing_cancelCue {d : Cue} (hn : (s.cues.map (·.id)).Nodup) (hd : d ∈ (uncued c s).cues) (hf : d.state = .firing) :
    HasCue (cancelCue c s) d := by
  have nodup : (uncued c s).ids.Nodup := by
    rw [ids_uncued]
    exact (List.filter_sublist.map _).nodup hn
  have has : HasCue (uncued c s) d := ⟨hd, fun y hy e => List.inj_on_of_nodup_map nodup hy hd e⟩
  refine has.fixes (by rw [hf]; rfl) ?_
  have prepared : Fixes d.id (uncued c s) (unprepared c s) := .forEach fun _ p _ u => .endPreps c.id p u
  rw [cancelCue_eq]
  exact (prepared.trans (.lossOfNeed c.id _)).trans (.forEach fun _ p _ u => .of_around (around_letGo c.id p u))

/-! ### The jobs and the reservations -/

theorem jobs_cancelCue (h : ∀ q, (s.port q).OnlyHeadStarted) (hp : p ∈ c.ports) :
    ((cancelCue c s).port p).JobsOnly (Job.prepOnlyCut c.id) := by
  have only : ((uncued c s).port p).OnlyHeadStarted := by
    unfold uncued
    split
    · exact (onlyHeadFrame c.id).grantRule (s := ungranted c s) (fun d hd => by simpa using (List.mem_filter.1 hd).2) (h p)
    · exact h p
  have cut : ((unprepared c s).port p).JobsOnly (Job.prepOnlyCut c.id) :=
    forEach_reaches (onPort_endPreps c.id) (outer_endPreps c.id) (fun u _ e => prepOnlyCut_endPreps (e ▸ only) c.id)
      (fun u _ hu => (prepCutFrame c.id).endPreps hu c.id) hp
  rw [cancelCue_eq]
  refine forEach_keeps (R := Port.JobsOnly (Job.prepOnlyCut c.id)) (onPort_letGo c.id) (fun u hu => ?_) ((prepCutFrame c.id).lossOfNeed (noCue_unprepared c s) cut c.id)
  exact (prepCutFrame c.id).restAfter ((prepCutFrame c.id).dropHold hu c.id) c.id

theorem notFor_cancelCue (c : Cue) (s : State) (p : PortId) : ((cancelCue c s).port p).notFor c.id := by
  rw [cancelCue_eq]
  refine forEach_keeps (R := Port.notFor c.id) (onPort_letGo c.id) (fun u hu => ?_) (notFor_lossOfNeed (noCue_unprepared c s) p)
  obtain ⟨w, e⟩ := letGo_record c.id p u
  rw [e]
  exact hu

/-- What is planned for a port stays as it is when the members are let go. -/
theorem plan_cancelCue (c : Cue) (s : State) (p : PortId) :
    ((cancelCue c s).port p).resv = ((lossOfNeed c.id (unprepared c s)).port p).resv ∧
    ((cancelCue c s).port p).commitment = ((lossOfNeed c.id (unprepared c s)).port p).commitment := by
  rw [cancelCue_eq]
  refine forEach_keeps (R := fun d => d.resv = ((lossOfNeed c.id (unprepared c s)).port p).resv ∧
    d.commitment = ((lossOfNeed c.id (unprepared c s)).port p).commitment) (onPort_letGo c.id) (fun u hu => ?_) ⟨rfl, rfl⟩
  obtain ⟨w, e⟩ := letGo_record c.id p u
  rw [e]
  exact hu

theorem core_unprepared (c : Cue) (s : State) (p : PortId) : ((unprepared c s).port p).core = ((uncued c s).port p).core :=
  forEach_keeps (R := fun d => d.core = ((uncued c s).port p).core) (onPort_endPreps c.id)
    (fun u hu => (core_endPreps c.id p u).trans hu) rfl

theorem resv_unprepared (hs : c.state ≠ .fireWait) (p : PortId) : ((unprepared c s).port p).resv = (s.port p).resv := by
  have start : uncued c s = removeCue c.id s := if_neg hs
  rw [field_of_core (core_unprepared c s p) Port.resv, start] <;> rfl

variable {r : Reservation} (hs : c.state ≠ .fireWait) (hr : (s.port p).resv = some r)
include hs hr

/-- A reservation in use, or one that serves another cue, stays (R113). -/
theorem resv_cancelCue_kept (h : r.started = true ∨ r.needed ≠ some c.id) : ((cancelCue c s).port p).resv = some r := by
  rw [(plan_cancelCue c s p).1]
  exact forEach_keeps (R := fun d => d.resv = some r) (onPort_reneed c.id) (fun u hu => by rw [reneed_kept hu h, hu])
    ((resv_unprepared hs p).trans hr)

variable (hw : r.started = false) (hn : r.needed = some c.id)
include hw hn

/-- A reservation that only the cue has needed is withdrawn (R113). -/
theorem resv_cancelCue_none (h : ∀ d ∈ s.cues, d.id ≠ c.id → d.state.planned? = true → ∀ m ∈ d.members, m.port ≠ p) :
    ((cancelCue c s).port p).resv = none ∧
      ((s.port p).power.paused?.isSome = true → ((cancelCue c s).port p).commitment = none) := by
  have start : uncued c s = removeCue c.id s := if_neg hs
  have unneeded : (removeCue c.id s).needs p = [] := List.eq_nil_iff_forall_not_mem.2 fun i hi => by
    obtain ⟨d, hd, hp, hinc, -⟩ := mem_needs.1 hi
    obtain ⟨hm, hne⟩ := List.mem_filter.1 hd
    obtain ⟨m, hmm, e⟩ := mem_includes.1 hinc
    exact h d hm (by simpa using hne) hp m hmm e
  have none_ (u : State) (hu : u.outlines = (uncued c s).outlines) : (u.needs p).filter (· != c.id) = [] := by
    rw [start] at hu
    rw [needs_of_outlines hu, unneeded] <;> rfl
  have asleep (h : (s.port p).power.paused?.isSome = true) : (s.port p).power.awakeState = false := by
    revert h
    cases (s.port p).power <;> simp [Power.paused?, Power.awakeState]
  have power (h : (s.port p).power.paused?.isSome = true) : ((unprepared c s).port p).power = (s.port p).power := by
    have calm : ((uncued c s).port p).power.isPausing = false := by
      rw [start]
      show (s.port p).power.isPausing = false
      revert h
      cases (s.port p).power <;> simp [Power.paused?, Power.isPausing]
    rw [power_of_body (body_unprepared calm), start] <;> rfl
  have all (l : List PortId) (u : State) (hu : u.outlines = (uncued c s).outlines)
      (hp : (p ∈ l ∧ u.port p = (unprepared c s).port p) ∨ (u.port p).unreserved (s.port p).power) :
      ((forEach l (reneed c.id) u).port p).unreserved (s.port p).power := by
    induction l generalizing u with
    | nil => exact hp.resolve_left nofun
    | cons q l ih =>
      refine ih _ ((outlines_reneed c.id q u).trans hu) ?_
      by_cases hq : p = q
      · subst hq
        refine .inr (hp.elim (fun ⟨_, e⟩ => ?_) fun hp => ?_)
        rotate_left
        · show ((reneed c.id p u).port p).unreserved (s.port p).power
          rwa [reneed_idle hp.1]
        obtain ⟨resv, commitment⟩ := reneed_unneeded (by rw [e, resv_unprepared hs, hr]) hw hn (none_ u hu)
        exact ⟨resv, fun hpa => commitment (by rw [e, power hpa]; exact asleep hpa)⟩
      · rw [(onPort_reneed c.id q u).others p hq]
        exact hp.imp_left fun ⟨hm, e⟩ => ⟨(List.mem_cons.1 hm).resolve_left hq, e⟩
  rw [(plan_cancelCue c s p).1, (plan_cancelCue c s p).2]
  exact all allPorts _ (outlines_unprepared c s) (.inl ⟨mem_allPorts p, rfl⟩)

omit hr hw hn in
/-- A reservation that other cues need too is placed for the first of them (R113). -/
theorem resv_cancelCue_passed (calm : ∀ q, (s.port q).power.isPausing = false)
    (h : ∀ q, q ≠ p → ∀ x, (s.port q).resv = some x → x.started = true ∨ x.needed ≠ some c.id) :
    ((cancelCue c s).port p).resv = ((reneed c.id p (removeCue c.id s)).port p).resv := by
  have start : uncued c s = removeCue c.id s := if_neg hs
  have single : lossOfNeed c.id (unprepared c s) = reneed c.id p (unprepared c s) := by
    refine forEach_single (onPort_reneed c.id) (fun q hq u e => ?_) nodup_allPorts (mem_allPorts p)
    have resv : (u.port q).resv = (s.port q).resv := by rw [e, resv_unprepared hs]
    cases hx : (s.port q).resv with
    | none =>
      unfold reneed
      rw [resv, hx]
    | some x => exact reneed_kept (resv.trans hx) (h q hq x hx)
  have alike : Alike (removeCue c.id s) (unprepared c s) := by
    refine ⟨by rw [outer_unprepared, start], by rw [outlines_unprepared, start], fun q => ?_⟩
    rw [body_unprepared (by rw [start]; exact calm q), start]
  rw [(plan_cancelCue c s p).1, single]
  exact (alike.reneed (calm p) c.id).field p Port.resv

end Cancel

/-! ## The request -/

section Request

variable {s : State} {c : Cue} {r : Request}

theorem exec_cueCancel (ht : Taken .cueCancel r s) (h0 : u8 r.body 0 ≠ 0) (hc : s.cue? (u8 r.body 0) = some c)
    (hs : c.state = .waiting ∨ c.state.planned? = true) :
    exec (.cueCancel r) s = .next (finish ((cancelCue c s).replied 0x8E#8 r.tag [0x00#8])) := by
  refine (exec_taken (k := .cueCancel) ht).trans ?_
  show (.next (serveCueCancel r.tag r.body s) : Result) = _
  unfold serveCueCancel
  rw [if_neg h0, hc]
  dsimp only
  cases hst : c.state with
  | firing | confirming | done => simp [hst, CueState.planned?] at hs
  | _ => rfl

theorem exec_cueCancel_refused {code : Status} (ht : Taken .cueCancel r s)
    (h : serveCueCancel r.tag r.body s = refuse .cueCancel r.tag code s) :
    exec (.cueCancel r) s = .next (s.replied 0x8E#8 r.tag [code.code]) := by
  refine (exec_taken (k := .cueCancel) ht).trans ?_
  show (.next (serveCueCancel r.tag r.body s) : Result) = _
  rw [h]
  rfl

end Request

/-- Settles O42: CUE_CANCEL by the state of the cue, and what a cancel leaves of the unit, the members and the plan. -/
theorem cueCancel : Obligations.CueCancel := by
  unfold Obligations.CueCancel
  refine fun r s ht => ⟨fun h0 => ?zero, fun h0 hn => ?absent, fun c h0 hc => ⟨fun hs => ?firing, fun hs => ?ended, fun hs => ?taken⟩⟩
  case zero => exact exec_cueCancel_refused (code := .badArg) ht (if_pos h0)
  case absent =>
    refine exec_cueCancel_refused (code := .notFound) ht ?_
    unfold serveCueCancel
    rw [if_neg h0, hn]
  case firing =>
    refine exec_cueCancel_refused (code := .busy) ht ?_
    unfold serveCueCancel
    rw [if_neg h0, hc]
    dsimp only
    rw [hs]
  case ended =>
    refine exec_cueCancel_refused (code := .badState) ht ?_
    unfold serveCueCancel
    rw [if_neg h0, hc]
    dsimp only
    rcases hs with hs | hs <;> rw [hs]
  case taken =>
    obtain ⟨still, table, owner, lock, waiting, -⟩ := outer_parts (outer_cancelCue c s)
    obtain ⟨still', table'⟩ := still_uncued c s
    have waits (h : c.state = .fireWait) : uncued c s = grantRule (ungranted c s) := if_pos h
    have plain (h : c.state ≠ .fireWait) : uncued c s = removeCue c.id s := if_neg h
    have member {m : Member} (hm : m ∈ c.members) : m.port ∈ c.ports := List.mem_map.2 ⟨m, hm, rfl⟩
    refine ⟨cancelCue c s, exec_cueCancel ht h0 hc hs, (ids_of_outlines (outlines_cancelCue c s)).trans (ids_uncued c s),
      still.trans still', table.trans table', fun hf q hq => ?_, fun hf => ?_, fun g hg hf => ?_,
      fun m hm rest => ?_, fun hf m hm f hst hw => power_cancelCue_held hf (member hm) hst hw, fun only m hm j hj keep pairs hk => ?_,
      fun p x hx => notFor_cancelCue c s p x hx, fun hf p x hx => ⟨resv_cancelCue_kept hf hx, fun hw hn =>
        ⟨resv_cancelCue_none hf hx hw hn, resv_cancelCue_passed hf⟩⟩⟩
    · rw [waiting, waits hf] at hq
      have := (List.mem_filter.1 ((still_grantRule (ungranted c s)).2.2 q hq)).2
      simpa using this
    · rw [owner, lock, waiting, plain hf]
      exact ⟨rfl, rfl, rfl⟩
    · have same : uncued c s = g := (waits hf).trans hg.symm
      rw [owner, lock, waiting, same]
      refine ⟨rfl, rfl, rfl, fun p ps full hw => ?_, fun hn d hd hfire => ?_⟩
      · rw [← same] at hw
        rw [power_cancelCue (by rw [hw]; rfl) (by rw [hw]; rfl), hw]
      · rw [← same] at hd
        exact (firing_cancelCue hn hd hfire).1
    · rw [cancelCue_eq]
      exact forEach_reaches (R := fun d => d.power ≠ .ready rest (some c.id)) (onPort_letGo c.id)
        (fun q u => (around_parts (around_letGo c.id q u)).1) (fun u _ _ => letGo_free c.id m.port u rest)
        (fun u _ _ => letGo_free c.id m.port u rest) (member hm)
    · have prep : j.isPrepOf c.id = true := by simp [Job.isPrepOf, hk]
      obtain ⟨started, cut⟩ := jobs_cancelCue only (member hm) j hj prep
      exact ⟨started, fun _ => cut⟩

end Sys2Proof.Machine

namespace Sys2Proof.Machine

/-! # Proofs: CUE_POST (R88–R93) -/

/-! ## Pairs of settings -/

section Pairs

theorem distinctAttrs_iff {l : List Pair} : distinctAttrs l = true ↔ (l.map (·.attr)).Nodup := by
  induction l with
  | nil => simp [distinctAttrs]
  | cons q l ih =>
    have fresh : (!(l.any (fun r => r.attr == q.attr))) = true ↔ q.attr ∉ l.map (·.attr) := by simp
    rw [distinctAttrs, Bool.and_eq_true, ih, fresh, List.map_cons, List.nodup_cons]

theorem captureAttrs_iff {l : List Pair} : captureAttrs l = true ↔ ∀ pr ∈ l, 16 ≤ pr.attr ∧ pr.attr ≤ 23 := by
  simp [captureAttrs]

theorem postArgsOk_iff (n time : Nat) (pairs : List Pair) : postArgsOk n time pairs = true ↔
    n ≤ 8 ∧ (∀ pr ∈ pairs, 16 ≤ pr.attr ∧ pr.attr ≤ 23) ∧ (pairs.map (·.attr)).Nodup ∧ time < 4000000000 := by
  simp only [postArgsOk, Bool.and_eq_true, decide_eq_true_eq, captureAttrs_iff, distinctAttrs_iff, Config.clockMod, and_assoc]

theorem perm_insertPair (pr : Pair) (l : List Pair) : (insertPair pr l).Perm (pr :: l) := by
  induction l with
  | nil => exact .refl _
  | cons q l ih =>
    unfold insertPair
    split
    · exact .refl _
    · exact (ih.cons q).trans (.swap pr q l)

theorem sorted_insertPair {l : List Pair} (h : l.Pairwise (fun a b => a.attr ≤ b.attr)) (pr : Pair) :
    (insertPair pr l).Pairwise (fun a b => a.attr ≤ b.attr) := by
  induction l with
  | nil => exact List.pairwise_singleton _ _
  | cons q l ih =>
    obtain ⟨hq, hl⟩ := List.pairwise_cons.1 h
    unfold insertPair
    split
    · refine List.pairwise_cons.2 ⟨fun x hx => ?_, h⟩
      rcases List.mem_cons.1 hx with rfl | hx
      · assumption
      · exact Nat.le_trans ‹_› (hq x hx)
    · refine List.pairwise_cons.2 ⟨fun x hx => ?_, ih hl⟩
      rcases List.mem_cons.1 ((perm_insertPair pr l).mem_iff.1 hx) with rfl | hx
      · omega
      · exact hq x hx

theorem sortPairs_spec (l : List Pair) : (sortPairs l).Perm l ∧ (sortPairs l).Pairwise (fun a b => a.attr ≤ b.attr) := by
  induction l with
  | nil => exact ⟨.refl _, .nil⟩
  | cons pr l ih => exact ⟨(perm_insertPair pr _).trans (ih.1.cons pr), sorted_insertPair ih.2 pr⟩

/-- The pairs of a request's bytes (Table 4). -/
theorem pairsAt_spec (b : List Byte) (i n : Nat) : (pairsAt b i n).length = n ∧
    ∀ (k : Nat) (h : k < (pairsAt b i n).length),
      (pairsAt b i n)[k].attr = u8 b (i + 2 * k) ∧ (pairsAt b i n)[k].value = b.getD (i + 2 * k + 1) 0#8 := by
  induction n generalizing i with
  | zero => exact ⟨rfl, fun k h => absurd h (Nat.not_lt_zero k)⟩
  | succ n ih =>
    obtain ⟨length, at_⟩ := ih (i + 2)
    refine ⟨congrArg (· + 1) length, fun k h => ?_⟩
    cases k with
    | zero => exact ⟨rfl, rfl⟩
    | succ k =>
      obtain ⟨attr, value⟩ := at_ k (Nat.lt_of_succ_lt_succ h)
      have place : i + 2 * (k + 1) = i + 2 + 2 * k := by omega
      rw [place]
      exact ⟨attr, value⟩

end Pairs

/-! ## The list of the cues -/

section List_

/-- A cue joins the list before the first that has not passed and lies after it (R89). -/
theorem insertCue_spec {now : Nat} {c : Cue} {l : List Cue} {passed : Cue → Prop} (hp : ∀ d, passed d ↔ 2000000000 ≤ diffMs d.time now) :
    ∃ pre post, l = pre ++ post ∧ insertCue now c l = pre ++ c :: post ∧
      (∀ d ∈ pre, passed d ∨ diffMs d.time now ≤ diffMs c.time now) ∧
      (∀ d ds, post = d :: ds → ¬ passed d ∧ diffMs c.time now < diffMs d.time now) := by
  induction l with
  | nil => exact ⟨[], [], rfl, rfl, nofun, nofun⟩
  | cons d l ih =>
    unfold insertCue
    split
    · rename_i h
      obtain ⟨pre, post, rfl, e, before, after⟩ := ih
      refine ⟨d :: pre, post, rfl, by rw [e]; rfl, fun x hx => ?_, after⟩
      rcases List.mem_cons.1 hx with rfl | hx
      · rwa [hp]
      · exact before x hx
    · rename_i h
      refine ⟨[], d :: l, rfl, rfl, nofun, fun x xs e => ?_⟩
      obtain ⟨rfl, rfl⟩ := List.cons.inj e
      rw [not_or, Nat.not_le, Nat.not_le] at h
      rw [hp]
      exact ⟨Nat.not_le.2 h.1, h.2⟩

/-- The order of the list: the cues that have passed, then the others by their times. -/
def CueOrder (now : Nat) (passed : Cue → Prop) (a b : Cue) : Prop := passed a ∨ (¬ passed b ∧ diffMs a.time now ≤ diffMs b.time now)

theorem insertCue_sorted {now : Nat} {c : Cue} {pre post : List Cue} {passed : Cue → Prop}
    (hl : (pre ++ post).Pairwise (CueOrder now passed)) (before : ∀ d ∈ pre, passed d ∨ diffMs d.time now ≤ diffMs c.time now)
    (after : ∀ d ds, post = d :: ds → ¬ passed d ∧ diffMs c.time now < diffMs d.time now) :
    (∀ d ∈ post, ¬ passed d ∧ diffMs c.time now < diffMs d.time now) ∧
      (¬ passed c → (pre ++ c :: post).Pairwise (CueOrder now passed)) := by
  obtain ⟨hpre, hpost, cross⟩ := List.pairwise_append.1 hl
  have later : ∀ d ∈ post, ¬ passed d ∧ diffMs c.time now < diffMs d.time now := by
    cases post with
    | nil => exact nofun
    | cons d ds =>
      obtain ⟨nd, lt⟩ := after d ds rfl
      intro x hx
      rcases List.mem_cons.1 hx with rfl | hx
      · exact ⟨nd, lt⟩
      · obtain ⟨nx, le⟩ := ((List.pairwise_cons.1 hpost).1 x hx).resolve_left nd
        exact ⟨nx, Nat.lt_of_lt_of_le lt le⟩
  refine ⟨later, fun hc => List.pairwise_append.2 ⟨hpre, List.pairwise_cons.2 ⟨fun x hx => ?_, hpost⟩, fun a ha b hb => ?_⟩⟩
  · exact .inr ⟨(later x hx).1, Nat.le_of_lt (later x hx).2⟩
  · rcases List.mem_cons.1 hb with rfl | hb
    · exact (before a ha).imp_right fun le => ⟨hc, le⟩
    · exact cross a ha b hb

theorem nodup_idsAfter (last : Nat) : (idsAfter last).Nodup := by
  refine List.Nodup.map_on (fun m hm n hn e => ?_) List.nodup_range
  rw [List.mem_range] at hm hn
  omega

/-- The id of a new cue: the first after the last one given that no cue of the list has (R88). -/
theorem nextId_spec {s : State} (h : s.cues.length ≤ 16) : ∃ n < 255, s.nextId = (s.lastCue + n) % 255 + 1 ∧
    (∀ c ∈ s.cues, c.id ≠ s.nextId) ∧ ∀ m < n, ∃ c ∈ s.cues, c.id = (s.lastCue + m) % 255 + 1 := by
  have free : ∃ i, (idsAfter s.lastCue).find? (fun i => !(s.cues.any (fun c => c.id == i))) = some i := by
    by_contra hn
    have none_ : (idsAfter s.lastCue).find? (fun i => !(s.cues.any (fun c => c.id == i))) = none :=
      Option.eq_none_iff_forall_ne_some.2 fun i e => hn ⟨i, e⟩
    have sub : idsAfter s.lastCue ⊆ s.ids := fun i hi => by
      have taken := List.find?_eq_none.1 none_ i hi
      simpa [State.ids] using taken
    have le := ((nodup_idsAfter s.lastCue).subperm sub).length_le
    simp only [idsAfter, State.ids, List.length_map, List.length_range] at le
    omega
  obtain ⟨i, hi⟩ := free
  have next : s.nextId = i := by rw [State.nextId, hi]; rfl
  obtain ⟨fresh, n, hn, at_, before⟩ := List.find?_eq_some_iff_getElem.1 hi
  have lt : n < 255 := by simpa [idsAfter] using hn
  refine ⟨n, lt, ?_, fun c hc => ?_, fun m hm => ?_⟩
  · rw [next, ← at_]
    simp [idsAfter]
  · rw [next]
    simp only [Bool.not_eq_true', List.any_eq_false, beq_iff_eq] at fresh
    exact fresh c hc
  · have := before m hm
    simpa [idsAfter] using this

end List_

/-! ## The posted cue -/

section Post

variable {s : State} {i : Nat} {c : Cue} {st : StationId} {form : CheckForm} {t : Nat} {pairs : List Pair} {r : Request}

/-- A planned cue is the posted one, PLANNED or PREPARING, but for what it holds of its members. -/
theorem planAndEnter_outline (hc : s.cue? i = some c) : ∃ d v, (planAndEnter i s).cue? i = some d ∧
    (v = CueState.planned ∨ v = CueState.preparing) ∧ d.outline = ({ c with state := v } : Cue).outline := by
  obtain ⟨x, hx, ho⟩ := cue?_outline (outlines_planCue i s) hc
  have planned : (setCueState i .planned (planCue i s)).cue? i = some { x with state := .planned } :=
    cue?_changed (f := ({ · with state := .planned })) (fun _ => rfl) hx
  unfold planAndEnter
  dsimp only
  rw [planned]
  dsimp only
  split
  · obtain ⟨d, hd, hdo⟩ := startPreparation_cue planned
    exact ⟨d, .preparing, hd, .inr rfl, hdo.trans (congrArg (fun y : Cue => ({ y with state := .preparing } : Cue)) ho)⟩
  · exact ⟨_, .planned, planned, .inl rfl, congrArg (fun y : Cue => ({ y with state := .planned } : Cue)) ho⟩

theorem ids_startPreparation (i : Nat) (s : State) : (startPreparation i s).ids = s.ids := by
  have entered : (setCueState i .preparing s).ids = s.ids := ids_modCue (f := ({ · with state := .preparing })) (fun _ => rfl) i s
  unfold startPreparation
  repeat' split
  · exact (ids_modCue (fun _ => by rfl) ..).trans entered
  · refine (ids_of_outlines (outlines_forEach _ (fun p u => ?_) _ _)).trans entered
    split
    · exact outlines_prepareMember _ p u
    · rfl
  · rfl

theorem ids_planAndEnter (i : Nat) (s : State) : (planAndEnter i s).ids = s.ids := by
  have planned : (setCueState i .planned (planCue i s)).ids = s.ids :=
    (ids_modCue (f := ({ · with state := .planned })) (fun _ => rfl) ..).trans (ids_of_outlines (outlines_planCue i s))
  unfold planAndEnter
  dsimp only
  repeat' split
  · rw [ids_startPreparation, planned]
  · exact planned
  · exact planned

/-- The machine with a cue of the list more. -/
def listed (c : Cue) (s : State) : State := { s with
  cues := insertCue s.clock c s.cues, lastCue := c.id, postings := c.posting }

theorem postCue_eq (c : Cue) (s : State) : postCue c s =
    if diffSlot c.slot s.nowSlot ≤ 6000 then planAndEnter c.id (listed c s) else listed c s := rfl

theorem hasCue_listed (h : ∀ d ∈ s.cues, d.id ≠ c.id) : HasCue (listed c s) c := by
  obtain ⟨pre, post, e, ins, -⟩ := insertCue_spec (now := s.clock) (c := c) (l := s.cues)
    (passed := fun d => 2000000000 ≤ diffMs d.time s.clock) (fun _ => Iff.rfl)
  have mem (d : Cue) : d ∈ (listed c s).cues ↔ d = c ∨ d ∈ s.cues := by
    show d ∈ insertCue s.clock c s.cues ↔ _
    rw [ins, e]
    simp only [List.mem_append, List.mem_cons]
    tauto
  refine ⟨(mem c).2 (.inl rfl), fun d hd hi => ?_⟩
  exact ((mem d).1 hd).resolve_right fun hm => h d hm hi

theorem checkForm_none (h : CheckForm.ofCode (u8 r.body 1) = none) : serveCuePost r.tag r.body s = refuse .cuePost r.tag .badArg s := by
  unfold serveCuePost
  rw [h]
  cases stationOf? (u8 r.body 0) <;> rfl

theorem exec_cuePost (ht : Taken .cuePost r s) (hs : u8 r.body 0 = st.val) (hf : CheckForm.ofCode (u8 r.body 1) = some form) :
    exec (.cuePost r) s = .next
      (if !postArgsOk (u8 r.body 6) (u32 r.body 2) (pairsAt r.body 7 (u8 r.body 6)) then s.replied 0x8D#8 r.tag [0x04#8]
       else match s.postRefusal st (u32 r.body 2) with
        | some code => s.replied 0x8D#8 r.tag [code.code]
        | none =>
          finish ((postCue (s.newCue st form (u32 r.body 2) (pairsAt r.body 7 (u8 r.body 6))) s).replied 0x8D#8 r.tag
            (0x00#8 :: postReply s.nextId (postCue (s.newCue st form (u32 r.body 2) (pairsAt r.body 7 (u8 r.body 6))) s)))) := by
  refine (exec_taken (k := .cuePost) ht).trans ?_
  show (.next (serveCuePost r.tag r.body s) : Result) = _
  unfold serveCuePost
  rw [stationOf?_val hs, hf]
  rfl

theorem exec_cuePost_badArg (ht : Taken .cuePost r s)
    (h : 4 ≤ u8 r.body 0 ∨ CheckForm.ofCode (u8 r.body 1) = none ∨
      postArgsOk (u8 r.body 6) (u32 r.body 2) (pairsAt r.body 7 (u8 r.body 6)) = false) :
    exec (.cuePost r) s = .next (s.replied 0x8D#8 r.tag [0x04#8]) := by
  by_cases hs : u8 r.body 0 < 4
  · cases hf : CheckForm.ofCode (u8 r.body 1) with
    | none =>
      refine (exec_taken (k := .cuePost) ht).trans ?_
      show (.next (serveCuePost r.tag r.body s) : Result) = _
      rw [checkForm_none hf]
      rfl
    | some form =>
      have bad := (h.resolve_left (by omega)).resolve_left (by simp [hf])
      rw [exec_cuePost (st := ⟨u8 r.body 0, hs⟩) ht rfl hf, bad]
      rfl
  · refine (exec_taken (k := .cuePost) ht).trans ?_
    show (.next (serveCuePost r.tag r.body s) : Result) = _
    unfold serveCuePost
    rw [stationOf?_none (by omega)]
    rfl

/-- Why a post is refused, the reasons in their order (R92). -/
theorem postRefusal_cases (s : State) (st : StationId) (t : Nat) :
    (s.membersOf st = [] → s.postRefusal st t = some .badState) ∧
    (s.membersOf st ≠ [] → (2000000000 ≤ diffMs t s.clock ∨ diffMs t s.clock <
        (s.station st).focusLead + (s.station st).prepTime * 10 + 10) → s.postRefusal st t = some .tooLate) ∧
    (s.membersOf st ≠ [] → diffMs t s.clock < 2000000000 →
      (s.station st).focusLead + (s.station st).prepTime * 10 + 10 ≤ diffMs t s.clock →
      (86400000 < diffMs t s.clock → s.postRefusal st t = some .badArg) ∧
      (diffMs t s.clock ≤ 86400000 →
        ((∃ c ∈ s.cues, c.station = st ∧ c.time = t) → s.postRefusal st t = some .conflict) ∧
        ((∀ c ∈ s.cues, c.station = st → c.time ≠ t) →
          (16 ≤ s.cues.length → s.postRefusal st t = some .noRoom) ∧
          (s.cues.length < 16 → s.postRefusal st t = none)))) := by
  have same : s.cues.any (fun c => c.station == st && c.time == t) = true ↔ ∃ c ∈ s.cues, c.station = st ∧ c.time = t := by simp
  unfold State.postRefusal
  dsimp only [Config.cueCapacity]
  refine ⟨fun h => if_pos (by simp [h]), fun h late => ?_, fun h h1 h2 => ?_⟩
  all_goals rw [if_neg (by simpa using h)]
  · exact if_pos late
  have timely : ¬ (2000000000 ≤ diffMs t s.clock ∨ diffMs t s.clock < (s.station st).minLead) :=
    not_or.2 ⟨Nat.not_le.2 h1, Nat.not_lt.2 h2⟩
  rw [if_neg timely]
  refine ⟨fun far => if_pos far, fun near => ?_⟩
  rw [if_neg (Nat.not_lt.2 near)]
  refine ⟨fun hc => if_pos (same.2 hc), fun hc => ?_⟩
  rw [if_neg (mt same.1 fun ⟨c, hm, hst, e⟩ => hc c hm hst e)]
  exact ⟨fun full => if_pos full, fun room => if_neg (Nat.not_le.2 room)⟩

theorem length_of_accepted (h : s.postRefusal st t = none) : s.cues.length < 16 := by
  unfold State.postRefusal at h
  dsimp only [Config.cueCapacity] at h
  split_ifs at h
  omega

theorem outer_postCue (c : Cue) (s : State) : (postCue c s).outer = (listed c s).outer := by
  rw [postCue_eq]
  split
  · exact outer_planAndEnter c.id _
  · rfl

theorem length_postCue (c : Cue) (s : State) : (postCue c s).cues.length ≤ s.cues.length + 1 := by
  have ids : (postCue c s).ids = (listed c s).ids := by
    rw [postCue_eq]
    split
    · exact ids_planAndEnter c.id _
    · rfl
  have length := congrArg List.length ids
  rw [State.ids, State.ids, List.length_map, List.length_map] at length
  rw [length]
  exact (Serves.length_insertCue s.clock c s.cues).le

/-- The cue that a post leaves: the posted one beyond the horizon; PLANNED or PREPARING before it. -/
theorem postCue_cue (h : ∀ d ∈ s.cues, d.id ≠ c.id) : ∃ d v, (postCue c s).cue? c.id = some d ∧
    (6000 < diffSlot c.slot s.nowSlot → d = c ∧ postCue c s = listed c s) ∧
    (diffSlot c.slot s.nowSlot ≤ 6000 → d.state = .planned ∨ d.state = .preparing) ∧
    (diffSlot c.slot s.nowSlot ≤ 6000 → s.slotReached (s.prepSlot c) = false →
      postCue c s = modCue c.id ({ · with state := .planned }) (planCue c.id (listed c s))) ∧
    d.outline = ({ c with state := v } : Cue).outline := by
  have has := hasCue_listed h
  rw [postCue_eq]
  by_cases hn : diffSlot c.slot s.nowSlot ≤ 6000
  · obtain ⟨d, v, hd, hv, outline⟩ := planAndEnter_outline has.named
    obtain ⟨x, hx, early, -⟩ := planAndEnter_cue has.named
    rw [if_pos hn]
    refine ⟨d, v, hd, fun far => absurd hn (Nat.not_le.2 far), fun _ => ?_, fun _ e => (early e).2, outline⟩
    rw [field_of_outline outline Cue.state]
    exact hv
  · rw [if_neg hn]
    exact ⟨c, c.state, has.named, fun _ => ⟨rfl, rfl⟩, fun e => absurd e hn, fun e => absurd e hn, rfl⟩

end Post

/-- Settles O41: the id and the place of a new cue, its arguments, and CUE_POST accepted and refused. -/
theorem cuePosting : Obligations.CuePosting := by
  unfold Obligations.CuePosting
  refine ⟨⟨fun s => nextId_spec, fun now c l passed hp => ?insert, postArgsOk_iff, sortPairs_spec, pairsAt_spec⟩,
    fun r s st form ht hs hf ok accepted => ?posted, fun r s ht => ⟨exec_cuePost_badArg ht, fun st form code hs hf ok refused => ?refused,
      fun st t => ?_⟩⟩
  case insert =>
    obtain ⟨pre, post, e, ins, before, after⟩ := insertCue_spec hp (l := l) (c := c)
    refine ⟨pre, post, e, ins, before, after, fun hl => ?_⟩
    rw [ins]
    exact insertCue_sorted (e ▸ hl) before after
  case refused =>
    rw [exec_cuePost ht hs hf, ok, refused]
    rfl
  case posted =>
    obtain ⟨-, -, -, fresh, -⟩ := nextId_spec (s := s) (Nat.le_of_lt (length_of_accepted accepted))
    have run := exec_cuePost ht hs hf
    rw [ok, accepted] at run
    obtain ⟨c, v, hc, far, near, late, outline⟩ := postCue_cue (s := s)
      (c := s.newCue st form (u32 r.body 2) (pairsAt r.body 7 (u8 r.body 6))) fresh
    obtain ⟨still, table, -⟩ := outer_parts (outer_postCue (s.newCue st form (u32 r.body 2) (pairsAt r.body 7 (u8 r.body 6))) s)
    have ports := ports_of_outline outline
    refine ⟨_, listed (s.newCue st form (u32 r.body 2) (pairsAt r.body 7 (u8 r.body 6))) s, c, _, ?_, hc, ?_, ?_, ?_, ?_, ?_, ?_,
      ?_, ?_, length_postCue _ s, rfl, rfl, fun h => ⟨(far h).1, (far h).2, (congrArg State.ports (far h).2).trans rfl⟩, near, late, ?_, ?_, table⟩
    · rw [run]
      unfold postReply
      rw [show (postCue _ s).cue? s.nextId = some c from hc]
      rfl
    · exact (cue?_id hc).2
    · exact field_of_outline outline Cue.station
    · exact field_of_outline outline Cue.time
    · exact field_of_outline outline Cue.form
    · exact field_of_outline outline Cue.profile
    · exact field_of_outline outline Cue.posting
    · refine ports.trans ?_
      show ((s.membersOf st).map _).map _ = s.membersOf st
      rw [List.map_map]
      exact List.map_id _
    · exact congrArg (·.2.2.2.2.2.2.1) still
    · exact congrArg (·.1) still
    · exact congrArg (·.2.1) still
  · obtain ⟨h1, h2, h3⟩ := postRefusal_cases s st t
    exact ⟨h1, h2, h3, rfl, rfl, rfl, rfl, rfl⟩

end Sys2Proof.Machine

namespace Sys2Proof.Machine

/-! # Proofs: AHEAD_WAKE (R158–R162) -/

/-! ## The admission of a camera -/

section Admit

variable {s : State} {p : PortId} {x : Target} {f : Profile}

/-- A reservation that has not been started takes the camera's commitment with it (R84, R113). -/
theorem committed_releaseUnstarted (h : (s.port p).power.awakeState = false) :
    (releaseUnstarted p s).committed = s.committed - (s.port p).unstartedFigure := by
  have own : ((releaseUnstarted p s).port p).commitment.getD 0 + (s.port p).unstartedFigure = (s.port p).commitment.getD 0 := by
    rw [port_releaseUnstarted, Port.released, Port.unstartedFigure, h]
    split
    · exact Nat.zero_add _
    · rfl
  have others (q : PortId) (hq : q ≠ p) : ((releaseUnstarted p s).port q).commitment.getD 0 = (s.port q).commitment.getD 0 := by
    rw [(OnPort.refl p s).releaseUnstarted.others q hq]
  have fewer (q : PortId) : ((releaseUnstarted p s).port q).commitment.getD 0 ≤ (s.port q).commitment.getD 0 := by
    by_cases hq : q = p
    · rw [hq]
      exact Nat.le.intro own
    · exact (others q hq).le
  have down := sum_add_le (mem_allPorts p) fewer own.le
  have up := sum_le_of_one (l := allPorts) nodup_allPorts (fun q => ((releaseUnstarted p s).port q).commitment.getD 0)
    (fun q => (s.port q).commitment.getD 0) p (s.port p).unstartedFigure (fun q hq => (others q hq).ge) own.ge
  rw [committed_eq, committed_eq]
  omega

/-- A paused camera that is admitted, placed at the earliest fitting start. -/
theorem placeAsap_commit (hx : (s.port p).power.paused? = some x) (hf : (s.port p).profile = some f) {k : Nat}
    (hk : EarliestFit s (windowCurrent x f) (windowLength x f) k) : placeAsap p (commit p s) =
      s.modPort p (fun c => { c with
        commitment := some f.awake
        resv := some (reservationAt x f (s.shadowOf p).length (addSlot s.nowSlot k) none) }) := by
  have hx' : ((commit p s).port p).power.paused? = some x := by
    unfold commit
    rw [port_modPort_self]
    exact hx
  have hf' : ((commit p s).port p).profile = some f := by
    unfold commit
    rw [port_modPort_self]
    exact hf
  rw [placeAsap_eq hx' hf' ((earliestFit_congr (fun q => resv_commit p q s) rfl rfl).2 hk)]
  unfold setResv commit
  rw [modPort_modPort]
  exact modPort_congr (by simp [Port.awakeCurrent, hf]; rfl)

end Admit

/-! ## One camera -/

section One

variable {s : State} {p : PortId} {o : Order}

/-- An order that is handed over becomes an AHEAD write of the camera's queue. -/
theorem handOver_setOrder (h : (s.port p).power.isReady = true) : handOver p (setOrder p o s) =
    s.modPort p (fun c => ({ c with order := none } : Port).enqueue (.aheadWrite o.pairs o.lifetime o.expiry o.seq)) := by
  have order : ((setOrder p o s).port p).order = some o := by rw [setOrder, port_modPort_self]
  have ready : ((setOrder p o s).port p).power.isReady = true := by
    rw [setOrder, port_modPort_self]
    exact h
  unfold handOver
  rw [order]
  dsimp only
  rw [if_pos (by rw [ready]; rfl)]
  exact modPort_modPort ..

theorem enqueued (k : JobKind) (c : Port) : ∃ j ∈ (c.enqueue k).queue ++ (c.enqueue k).waitLine, j.kind = k := by
  unfold Port.enqueue
  split
  · exact ⟨Job.mk' k, by simp [pushJob], rfl⟩
  · exact ⟨Job.mk' k, by simp, rfl⟩

/-- A camera that is READY, or comes back to it, with its order handed over (R159). -/
theorem awake_spec {v : State} (on : OnPort p s v) (outer : v.outer = s.outer) {rest hold : Option Nat}
    (hw : (v.port p).power = .ready rest hold) (o : Order) :
    ((handOver p (setOrder p o v)).port p).order = none ∧ ((handOver p (setOrder p o v)).port p).power = .ready rest hold ∧
    (handOver p (setOrder p o v)).table = s.table ∧ (handOver p (setOrder p o v)).still = s.still ∧
    (∃ j ∈ ((handOver p (setOrder p o v)).port p).queue ++ ((handOver p (setOrder p o v)).port p).waitLine,
      j.kind = .aheadWrite o.pairs o.lifetime o.expiry o.seq) ∧
    ∀ q, q ≠ p → (handOver p (setOrder p o v)).port q = s.port q := by
  obtain ⟨still, table, -⟩ := outer_parts outer
  rw [handOver_setOrder (by rw [hw]; rfl), port_modPort_self]
  have body := body_enqueue ({ v.port p with order := none } : Port) (.aheadWrite o.pairs o.lifetime o.expiry o.seq)
  refine ⟨?_, ?_, table, still, enqueued _ _, fun q hq => (port_modPort_ne (Ne.symm hq) _ _).trans (on.others q hq)⟩
  · exact (field_of_body body Port.order).trans rfl
  · exact (field_of_body body Port.power).trans hw

/-- One port of the request: its result and the machine it leaves. -/
theorem aheadPorts_one (o : Order) (p : PortId) (s : State) : aheadPorts o [p] s =
    ([toByte p.val, toByte (aheadOne p o s).1.code] ++ optTime (placedStart (aheadOne p o s).1 ((aheadOne p o s).2.port p)),
      (aheadOne p o s).2) := by
  simp [aheadPorts]

theorem aheadPorts_cons (o : Order) (p : PortId) (rest : List PortId) (s : State) : aheadPorts o (p :: rest) s =
    ((aheadPorts o [p] s).1 ++ (aheadPorts o rest (aheadPorts o [p] s).2).1, (aheadPorts o rest (aheadPorts o [p] s).2).2) := by
  simp [aheadPorts]

/-- A camera that is READY, or comes back from PAUSING, has its rest timer started and its order handed over (R159). -/
theorem aheadOne_awake (h : (s.port p).power.isReady = true ∨ ((s.port p).power.isPausing = true ∧ (s.port p).hostPause = false)) :
    ∃ v rest hold, aheadOne p o s = (.awake, handOver p (setOrder p o v)) ∧ OnPort p s v ∧ v.outer = s.outer ∧
      (v.port p).power = .ready rest hold ∧ ∀ f, s.stationOf p = some f → rest = some (addMs s.clock (f.linger * 1000)) := by
  cases hw : (s.port p).power with
  | ready rest hold =>
    refine ⟨startRest p s, _, hold, ?_, (OnPort.refl p s).startRest, outer_startRest p s,
      by rw [startRest_ready hw, port_modPort_self], fun f hf => by rw [hf]; rfl⟩
    unfold aheadOne
    dsimp only
    rw [hw]
  | pausing ps w =>
    have free : (s.port p).power.pending? = none := by rw [hw]; rfl
    have host : (s.port p).hostPause = false := (h.resolve_left (by rw [hw]; exact Bool.false_ne_true)).2
    refine ⟨enterReady p true s, _, none, ?_, (OnPort.refl p s).enterReady true, outer_enterReady p true s,
      (enterReady_free free true).trans (congrArg (Power.ready · none) (if_pos rfl)), fun f hf => ?_⟩
    · unfold aheadOne
      dsimp only
      rw [hw, host]
      rfl
    · rw [restFrom_eq, hf]
      rfl
  | _ => simp [hw, Power.isReady, Power.isPausing] at h

/-- A camera that is on its way, or in use, keeps the order for its READY (R160). -/
theorem aheadOne_ordered (code : Byte) (h : ((s.port p).power.isArmed = true ∧ code = 0x02#8) ∨
    ((s.port p).power.isWaking = true ∧ code = 0x03#8) ∨
    (((s.port p).power.paused? = some .doze ∨ (s.port p).power.paused? = some .keepwarm) ∧
      (s.port p).startedResv = true ∧ code = 0x03#8) ∨
    ((s.port p).power = .deep ∧ (s.port p).startedResv = true ∧ (s.port p).hostPause = false ∧
      (s.port p).grade ≠ some 7 ∧ (s.port p).profile.isSome = true ∧ code = 0x03#8)) :
    ∃ a : AheadResult, aheadOne p o s = (a, setOrder p o s) ∧ a ≠ .placed ∧ toByte a.code = code := by
  rcases h with ⟨hw, rfl⟩ | ⟨hw, rfl⟩ | ⟨hw, hs, rfl⟩ | ⟨hw, hs, hh, hg, hf, rfl⟩
  · refine ⟨.held, ?_, nofun, rfl⟩
    unfold aheadOne
    cases hp : (s.port p).power <;> simp [hp, Power.isArmed] at hw ⊢
  · refine ⟨.waking, ?_, nofun, rfl⟩
    unfold aheadOne
    cases hp : (s.port p).power <;> simp [hp, Power.isWaking] at hw ⊢
  · refine ⟨.waking, ?_, nofun, rfl⟩
    unfold aheadOne
    cases hp : (s.port p).power <;> simp [hp, Power.paused?] at hw ⊢ <;> simp [hs]
  · refine ⟨.waking, ?_, nofun, rfl⟩
    unfold aheadOne
    dsimp only
    rw [hw]
    dsimp only
    rw [hh, if_neg Bool.false_ne_true, aheadPaused]
    dsimp only
    rw [if_neg hg, if_neg (by rw [Option.isNone_iff_eq_none]; rintro e; simp [e] at hf), if_pos hs]

/-- The order of a paused camera, where no started wake serves it. -/
theorem aheadOne_paused (h : (s.port p).power.paused?.isSome = true) (hs : (s.port p).startedResv = false ∨ (s.port p).power = .deep) :
    aheadOne p o s = if (s.port p).hostPause then (.parked, s) else aheadPaused p o s := by
  unfold aheadOne
  dsimp only
  cases hp : (s.port p).power with
  | deep => rfl
  | doze | keepwarm =>
    rw [hp] at hs
    dsimp only
    rw [hs.resolve_right nofun, if_neg Bool.false_ne_true]
  | _ => rw [hp] at h; cases h

/-- A camera that cannot be woken is left as it is (R161). -/
theorem aheadOne_refused (code : Byte) (h : ((s.port p).power.isFault = true ∧ code = 0x09#8) ∨
    ((s.port p).power.isVacant = true ∧ code = 0x0A#8) ∨
    ((s.port p).power.isPausing = true ∧ (s.port p).hostPause = true ∧ code = 0x06#8) ∨
    ((s.port p).power.paused?.isSome = true ∧ ((s.port p).startedResv = false ∨ (s.port p).power = .deep) ∧
      (((s.port p).hostPause = true ∧ code = 0x06#8) ∨
        ((s.port p).hostPause = false ∧ (s.port p).grade = some 7 ∧ code = 0x07#8) ∨
        ((s.port p).hostPause = false ∧ (s.port p).grade ≠ some 7 ∧ (s.port p).profile = none ∧ code = 0x08#8)))) :
    ∃ a : AheadResult, aheadOne p o s = (a, s) ∧ a ≠ .placed ∧ toByte a.code = code := by
  rcases h with ⟨hw, rfl⟩ | ⟨hw, rfl⟩ | ⟨hw, hh, rfl⟩ | ⟨hw, hs, hcode⟩
  · refine ⟨.fault, ?_, nofun, rfl⟩
    unfold aheadOne
    cases hp : (s.port p).power <;> simp [hp, Power.isFault] at hw ⊢
  · refine ⟨.vacant, ?_, nofun, rfl⟩
    unfold aheadOne
    cases hp : (s.port p).power <;> simp [hp, Power.isVacant] at hw ⊢
  · refine ⟨.parked, ?_, nofun, rfl⟩
    unfold aheadOne
    cases hp : (s.port p).power <;> simp [hp, hh, Power.isPausing] at hw ⊢
  · have paused := aheadOne_paused (o := o) hw hs
    rcases hcode with ⟨hh, rfl⟩ | ⟨hh, hg, rfl⟩ | ⟨hh, hg, hf, rfl⟩ <;> rw [hh] at paused
    · exact ⟨.parked, paused, nofun, rfl⟩
    · exact ⟨.thermal, paused.trans (if_pos hg), nofun, rfl⟩
    · refine ⟨.noProfile, paused.trans ?_, nofun, rfl⟩
      rw [if_neg Bool.false_ne_true, aheadPaused]
      dsimp only
      rw [if_neg hg, hf]
      rfl

section Paused

variable {x : Target} {f : Profile} (hx : (s.port p).power.paused? = some x) (hs : (s.port p).startedResv = false)
  (hh : (s.port p).hostPause = false) (hg : (s.port p).grade ≠ some 7) (hf : (s.port p).profile = some f)
include hx hs hh hg hf

/-- A paused camera that may be woken is admitted or not (R83, R161). -/
theorem aheadOne_admission : aheadOne p o s = if s.committed - (s.port p).unstartedFigure + f.awake ≤ s.steady then
    (.placed, setOrder p o (placeAsap p (commit p (releaseUnstarted p s))))
    else (.overBudget, replan p (releaseUnstarted p s)) := by
  have asleep : (s.port p).power.awakeState = false := by
    revert hx
    cases (s.port p).power <;> simp [Power.paused?, Power.awakeState]
  have current : ((releaseUnstarted p s).port p).awakeCurrent = f.awake := by
    rw [port_releaseUnstarted, released_field Port.awakeCurrent]
    simp [Port.awakeCurrent, hf]
  have steady : (releaseUnstarted p s).steady = s.steady := congrArg (·.2.2.1) (outer_parts (outer_releaseUnstarted p s)).1
  have admits : (releaseUnstarted p s).admits p 0 = decide (s.committed - (s.port p).unstartedFigure + f.awake ≤ s.steady) := by
    unfold State.admits
    rw [committed_releaseUnstarted asleep, current, steady, Nat.sub_zero]
  rw [aheadOne_paused (by rw [hx]; rfl) (.inl hs), hh, if_neg Bool.false_ne_true, aheadPaused]
  dsimp only
  rw [if_neg hg, if_neg (by rw [hf]; exact Bool.false_ne_true), hs, if_neg Bool.false_ne_true, admits]
  simp only [decide_eq_true_eq]

theorem aheadOne_placed {k : Nat} (ha : s.committed - (s.port p).unstartedFigure + f.awake ≤ s.steady)
    (hk : EarliestFit (releaseUnstarted p s) (windowCurrent x f) (windowLength x f) k) :
    aheadOne p o s = (.placed, (releaseUnstarted p s).modPort p (fun c => { c with
      commitment := some f.awake
      resv := some (reservationAt x f (s.shadowOf p).length (addSlot s.nowSlot k) none)
      order := some o })) := by
  have outer := outer_releaseUnstarted p s
  have shadow : (releaseUnstarted p s).shadowOf p = s.shadowOf p := by
    unfold State.shadowOf State.boundEntry State.boundPos State.entryAt
    rw [table_of_outer outer]
  have slot : (releaseUnstarted p s).nowSlot = s.nowSlot := by
    unfold State.nowSlot
    rw [clock_of_outer outer]
  have placed := placeAsap_commit (s := releaseUnstarted p s) (x := x) (f := f)
    (by rw [port_releaseUnstarted, released_field Port.power, hx])
    (by rw [port_releaseUnstarted, released_field Port.profile, hf]) hk
  rw [shadow, slot] at placed
  rw [aheadOne_admission hx hs hh hg hf, if_pos ha, placed, setOrder, modPort_modPort]

end Paused

end One

/-! ## The request -/

section Request

variable {s : State} {p : PortId} {r : Request} {named : List PortId}

theorem exec_aheadWake (ht : Taken .aheadWake r s) (hn : s.aheadNamed r.body = .inr named)
    (ok : aheadPairsOk (u8 r.body 8) (pairsAt r.body 9 (u8 r.body 8)) = true) {o : Order}
    (ho : o = ⟨sortPairs (pairsAt r.body 9 (u8 r.body 8)), clamp 1 600 (u16 r.body 6),
      addMs s.clock (clamp 1 600 (u16 r.body 6) * 1000), s.tickets⟩) :
    exec (.aheadWake r) s = .next (finish ((aheadPorts o named s).2.replied 0x91#8 r.tag
      ([if clamp 1 600 (u16 r.body 6) = u16 r.body 6 then 0x00#8 else 0x01#8] ++ le16 o.lifetime ++
        [toByte named.length] ++ (aheadPorts o named s).1))) := by
  subst ho
  refine (exec_taken (k := .aheadWake) ht).trans ?_
  show (.next (serveAheadWake r.tag r.body s) : Result) = _
  unfold serveAheadWake
  dsimp only
  rw [hn]
  dsimp only
  rw [ok]
  rw [if_neg (show ¬ (!true) = true from Bool.false_ne_true), answer_eq, okOr_bne,
    show replyKind .aheadWake = 0x91#8 from rfl]
  simp only [List.cons_append, List.nil_append, List.append_assoc]

theorem exec_aheadWake_badArg (ht : Taken .aheadWake r s)
    (h : s.aheadNamed r.body = .inl .badArg ∨ aheadPairsOk (u8 r.body 8) (pairsAt r.body 9 (u8 r.body 8)) = false) :
    exec (.aheadWake r) s = .next (s.replied 0x91#8 r.tag [0x04#8]) := by
  refine (exec_taken (k := .aheadWake) ht).trans ?_
  show (.next (serveAheadWake r.tag r.body s) : Result) = _
  unfold serveAheadWake
  dsimp only
  rcases h with h | h
  · rw [h]
    rfl
  · rw [h]
    split <;> rfl

theorem aheadNamed_set {b : List Byte} (h : u8 b 0 = 2) : s.aheadNamed b =
    if 16777216 ≤ u32 b 2 ∨ portsOf (u32 b 2) = [] then .inl .badArg else .inr (portsOf (u32 b 2)) := by
  unfold State.aheadNamed
  rw [(twoCode_iff _).2.1.2 h]
  simp only [Bool.or_eq_true, badPortSet_iff, List.isEmpty_iff]

theorem aheadNamed_station {b : List Byte} {st : StationId} (h : u8 b 0 = 1) (hs : u8 b 1 = st.val) : s.aheadNamed b =
    if s.membersOf st = [] then .inl .badState else .inr (s.membersOf st) := by
  unfold State.aheadNamed
  rw [(twoCode_iff _).1.2 h]
  dsimp only
  rw [stationOf?_val hs]
  simp only [List.isEmpty_iff]

theorem aheadNamed_bad {b : List Byte} (h : (u8 b 0 ≠ 1 ∧ u8 b 0 ≠ 2) ∨ (u8 b 0 = 1 ∧ 4 ≤ u8 b 1) ∨
    (u8 b 0 = 2 ∧ (u32 b 2 = 0 ∨ 16777216 ≤ u32 b 2))) : s.aheadNamed b = .inl .badArg := by
  rcases h with ⟨h1, h2⟩ | ⟨h1, hs⟩ | ⟨h2, hp⟩
  · unfold State.aheadNamed
    rw [(twoCode_iff _).2.2 h1 h2]
  · unfold State.aheadNamed
    rw [(twoCode_iff _).1.2 h1]
    dsimp only
    rw [stationOf?_none hs]
  · rw [aheadNamed_set h2]
    refine if_pos (hp.symm.imp_right fun h0 => ?_)
    rw [h0]
    simp [portsOf]

/-- The cameras that a request names (Table 62). -/
theorem aheadNamed_spec {b : List Byte} (h : s.aheadNamed b = .inr named) : named.Pairwise (· < ·) ∧ named ≠ [] ∧
    ((u8 b 0 = 2 ∧ ∀ p : PortId, p ∈ named ↔ (u32 b 2).testBit p.val = true) ∨
      (u8 b 0 = 1 ∧ ∀ p : PortId, p ∈ named ↔ ((s.port p).station.map (·.val)) = some (u8 b 1))) := by
  by_cases h2 : u8 b 0 = 2
  · rw [aheadNamed_set h2] at h
    split at h
    · cases h
    · rename_i hn
      obtain rfl := Sum.inr.inj h
      exact ⟨allPorts_pairwise.filter _, fun e => hn (.inr e), .inl ⟨h2, fun p => mem_portsOf⟩⟩
  by_cases h1 : u8 b 0 = 1
  · by_cases hs : u8 b 1 < 4
    · rw [aheadNamed_station (st := ⟨u8 b 1, hs⟩) h1 rfl] at h
      split at h
      · cases h
      · rename_i hn
        obtain rfl := Sum.inr.inj h
        refine ⟨allPorts_pairwise.filter _, hn, .inr ⟨h1, fun p => mem_membersOf.trans ?_⟩⟩
        cases hst : (s.port p).station <;> simp [Fin.ext_iff]
    · rw [aheadNamed_bad (.inr (.inl ⟨h1, Nat.not_lt.1 hs⟩))] at h
      cases h
  · rw [aheadNamed_bad (.inl ⟨h1, h2⟩)] at h
    cases h

section Single

variable {o : Order} {status : Byte} (ht : Taken .aheadWake r s) (hn : s.aheadNamed r.body = .inr [p])
  (ok : aheadPairsOk (u8 r.body 8) (pairsAt r.body 9 (u8 r.body 8)) = true)
  (ho : o = ⟨sortPairs (pairsAt r.body 9 (u8 r.body 8)), clamp 1 600 (u16 r.body 6),
    addMs s.clock (clamp 1 600 (u16 r.body 6) * 1000), s.tickets⟩)
  (hst : status = (if clamp 1 600 (u16 r.body 6) = u16 r.body 6 then 0x00#8 else 0x01#8))
include ht hn ok ho hst

/-- The answer for one camera. -/
theorem exec_aheadWake_one : exec (.aheadWake r) s = .next (finish ((aheadOne p o s).2.replied 0x91#8 r.tag
    ([status] ++ le16 o.lifetime ++ [0x01#8, toByte p.val, toByte (aheadOne p o s).1.code] ++
      optTime (placedStart (aheadOne p o s).1 ((aheadOne p o s).2.port p))))) := by
  rw [exec_aheadWake ht hn ok ho, ← hst, aheadPorts_one, show toByte [p].length = 0x01#8 from rfl]
  simp only [List.cons_append, List.nil_append, List.append_assoc]

theorem exec_aheadWake_plain {a : AheadResult} {u : State} {code : Byte} (h : aheadOne p o s = (a, u)) (ha : a ≠ .placed)
    (hc : toByte a.code = code) : exec (.aheadWake r) s = .next (finish (u.replied 0x91#8 r.tag
      ([status] ++ le16 o.lifetime ++ [0x01#8, toByte p.val, code] ++ le32 0xFFFFFFFF))) := by
  have start : placedStart a (u.port p) = none := if_neg ha
  rw [exec_aheadWake_one ht hn ok ho hst, h]
  dsimp only
  rw [start, optTime, hc]

theorem aheadWake_awake (h : (s.port p).power.isReady = true ∨ ((s.port p).power.isPausing = true ∧ (s.port p).hostPause = false)) :
    ∃ u : State, exec (.aheadWake r) s = .next (finish (u.replied 0x91#8 r.tag
        ([status] ++ le16 o.lifetime ++ [0x01#8, toByte p.val, 0x01#8] ++ le32 0xFFFFFFFF))) ∧
      (u.port p).order = none ∧ (u.port p).power.isReady = true ∧ u.table = s.table ∧ u.still = s.still ∧
      (∀ f, s.stationOf p = some f → (u.port p).power.restTimer? = some (addMs s.clock (f.linger * 1000))) ∧
      (∃ j ∈ (u.port p).queue ++ (u.port p).waitLine, j.kind = .aheadWrite o.pairs o.lifetime o.expiry o.seq) ∧
      (∀ q, q ≠ p → u.port q = s.port q) := by
  obtain ⟨v, rest, hold, e, on, outer, power, timer⟩ := aheadOne_awake (o := o) h
  obtain ⟨order, ready, table, still, job, others⟩ := awake_spec on outer power o
  refine ⟨_, exec_aheadWake_plain ht hn ok ho hst e nofun rfl, order, by rw [ready]; rfl, table, still, fun f hf => ?_, job, others⟩
  rw [ready]
  exact timer f hf

variable {x : Target} {f : Profile} (hx : (s.port p).power.paused? = some x) (hs : (s.port p).startedResv = false)
  (hh : (s.port p).hostPause = false) (hg : (s.port p).grade ≠ some 7) (hf : (s.port p).profile = some f)
include hx hs hh hg hf

theorem aheadWake_placed {k : Nat} (ha : s.committed - (s.port p).unstartedFigure + f.awake ≤ s.steady)
    (hk : EarliestFit (releaseUnstarted p s) (windowCurrent x f) (windowLength x f) k) :
    ∃ u : State, exec (.aheadWake r) s = .next (finish (u.replied 0x91#8 r.tag
        ([status] ++ le16 o.lifetime ++ [0x01#8, toByte p.val, 0x04#8] ++ le32 (addSlot s.nowSlot k)))) ∧
      (u.port p).resv = some (reservationAt x f (s.shadowOf p).length (addSlot s.nowSlot k) none) ∧
      (u.port p).order = some o ∧ (u.port p).commitment = some f.awake ∧
      (u.port p).power = (s.port p).power ∧ (∀ q, q ≠ p → u.port q = s.port q) := by
  have run := exec_aheadWake_one ht hn ok ho hst
  rw [aheadOne_placed (o := o) hx hs hh hg hf ha hk] at run
  dsimp only at run
  rw [placedStart, if_pos rfl, port_modPort_self] at run
  refine ⟨_, run, ?_, ?_, ?_, ?_, fun q hq => ?_⟩
  · rw [port_modPort_self]
  · rw [port_modPort_self]
  · rw [port_modPort_self]
  · rw [port_modPort_self]
    show ((releaseUnstarted p s).port p).power = _
    rw [port_releaseUnstarted, released_field Port.power]
  · rw [port_modPort_ne (Ne.symm hq)]
    exact (OnPort.refl p s).releaseUnstarted.others q hq

theorem aheadWake_overBudget (ha : s.steady < s.committed - (s.port p).unstartedFigure + f.awake) :
    ∃ u : State, u = replan p (releaseUnstarted p s) ∧ exec (.aheadWake r) s = .next (finish (u.replied 0x91#8 r.tag
        ([status] ++ le16 o.lifetime ++ [0x01#8, toByte p.val, 0x05#8] ++ le32 0xFFFFFFFF))) ∧
      (u.port p).order = (s.port p).order ∧ (u.port p).power = (s.port p).power ∧ (∀ q, q ≠ p → u.port q = s.port q) := by
  have on : OnPort p s (replan p (releaseUnstarted p s)) := ((OnPort.refl p s).releaseUnstarted).replan
  have calm : (s.port p).power.isPausing = false := by
    revert hx
    cases (s.port p).power <;> simp [Power.paused?, Power.isPausing]
  have plans : Plans p s (replan p (releaseUnstarted p s)) := ((Plans.refl p s).releaseUnstarted).replan calm
  have e : aheadOne p o s = (.overBudget, replan p (releaseUnstarted p s)) := by
    rw [aheadOne_admission hx hs hh hg hf, if_neg (Nat.not_le.2 ha)]
  exact ⟨_, rfl, exec_aheadWake_plain ht hn ok ho hst e nofun rfl, field_of_planless plans.record Port.order, plans.power, on.others⟩

end Single

end Request

/-- Settles O48: AHEAD_WAKE for one camera by its state, for a list of cameras, and refused. -/
theorem aheadWake : Obligations.AheadWake := by
  unfold Obligations.AheadWake
  refine ⟨fun r s p o status ht hn ok ho hst => ?one, ⟨fun r s named o ht hn ok ho => ?many, fun o p rest s => ⟨rfl, aheadPorts_cons o p rest s⟩⟩,
    fun r s ht => ⟨fun h => ?bad, fun st h1 hs hm ok => ?empty⟩⟩
  case many =>
    obtain ⟨sorted, nonempty, which⟩ := aheadNamed_spec hn
    exact ⟨sorted, nonempty, which, exec_aheadWake ht hn ok ho⟩
  case bad =>
    refine exec_aheadWake_badArg ht ?_
    rcases h with h | h | h | h
    · exact .inl (aheadNamed_bad (.inl h))
    · exact .inl (aheadNamed_bad (.inr (.inl h)))
    · exact .inl (aheadNamed_bad (.inr (.inr h)))
    · exact .inr h
  case empty =>
    refine (exec_taken (k := .aheadWake) ht).trans ?_
    show (.next (serveAheadWake r.tag r.body s) : Result) = _
    unfold serveAheadWake
    dsimp only
    rw [aheadNamed_station h1 hs, if_pos hm, ok]
    rfl
  case one =>
    refine ⟨aheadWake_awake ht hn ok ho hst, fun code h => ?ordered, fun code h => ?refused, fun x f hx hs hh hg hf =>
      ⟨fun k => aheadWake_placed ht hn ok ho hst hx hs hh hg hf, aheadWake_overBudget ht hn ok ho hst hx hs hh hg hf⟩⟩
    case ordered =>
      obtain ⟨a, e, ha, hc⟩ := aheadOne_ordered (o := o) code h
      exact exec_aheadWake_plain ht hn ok ho hst e ha hc
    case refused =>
      obtain ⟨a, e, ha, hc⟩ := aheadOne_refused (o := o) code h
      exact exec_aheadWake_plain ht hn ok ho hst e ha hc

end Sys2Proof.Machine

namespace Sys2Proof.Machine

/-! # Proofs: what a change of identity leaves of a camera (R56, R57)

The operations of an identity change add nothing to the advance table and give the camera no order (`Sheds`), and keep of its
record what neither a plan nor a state changes (`Port.lasting`). -/

/-! ## Orders and advance entries -/

section Sheds_

variable {s t u : State} {p : PortId}

/-- From s the operations on port p have reached t: no advance entry has joined, and a camera without an order has none. -/
structure Sheds (p : PortId) (s t : State) : Prop where
  order : (s.port p).order = none → (t.port p).order = none
  adv : ∀ a ∈ t.adv, a ∈ s.adv

namespace Sheds

theorem refl (p : PortId) (s : State) : Sheds p s s := ⟨id, fun _ => id⟩

theorem trans (h : Sheds p s t) (g : Sheds p t u) : Sheds p s u := ⟨g.order ∘ h.order, fun a ha => h.adv a (g.adv a ha)⟩

theorem of_eq (ho : (t.port p).order = (s.port p).order) (ha : t.adv = s.adv) : Sheds p s t := ⟨fun h => ho.trans h, fun a h => ha ▸ h⟩

theorem of_body (hb : (t.port p).body = (s.port p).body) (ha : t.adv = s.adv) : Sheds p s t := of_eq (field_of_body hb Port.order) ha

theorem of_plans (h : Plans p s t) : Sheds p s t := of_eq (field_of_planless h.record Port.order) h.adv

theorem modPort {f : Port → Port} (hf : (f (s.port p)).order = (s.port p).order) : Sheds p s (s.modPort p f) :=
  of_eq (by rw [port_modPort_self, hf]) rfl

theorem setPower (new : Power) : Sheds p s (setPower p new s) :=
  of_eq (setPower_field Port.order p new s) (around_parts (around_setPower p new s)).2.2.1

theorem enqueueJob (k : JobKind) : Sheds p s (enqueueJob p k s) := modPort (field_of_body (body_enqueue _ _) Port.order)

theorem setOffload (v : Bool) : Sheds p s (setOffload p v s) :=
  of_eq (by rw [port_setOffload_eq]) (around_parts (around_setOffload p v s)).2.2.1

theorem forEach {α : Type} {xs : List α} {g : α → State → State} (hg : ∀ x u, Sheds p u (g x u)) : Sheds p s (forEach xs g s) := by
  induction xs generalizing s with
  | nil => exact refl p s
  | cons x xs ih => exact (hg x s).trans ih

theorem loseSettings : Sheds p s (loseSettings p s) := forEach fun c u => by
  cases c.state with
  | preparing =>
    exact (modPort (f := fun q => (q.removeJobs (Job.isPrepOf c.id)).cutFlight (Job.isPrepOf c.id) false)
      (field_of_body ((body_cutFlight ..).trans (body_removeJobs ..)) Port.order)).trans ⟨id, fun _ => id⟩
  | _ => exact ⟨id, fun _ => id⟩

theorem enterDoze : Sheds p s (enterDoze p s) := (setPower _).trans (enqueueJob _)

theorem enterDeep : Sheds p s (enterDeep p s) :=
  ((setPower .deep).trans (setOffload false)).trans (.trans (t := clearEntries p _) ⟨id, fun _ => List.mem_of_mem_filter⟩ loseSettings)

theorem startKeepwarm : Sheds p s (startKeepwarm p s) := by
  unfold Machine.startKeepwarm
  split
  · exact modPort rfl
  · exact enterDoze

theorem pauseAction (x : Target) : Sheds p s (pauseAction p x s) := by
  cases x with
  | doze => exact enterDoze
  | keepwarm => exact ((setPower _).trans (enqueueJob _)).trans startKeepwarm
  | deep => exact enterDeep

theorem pauseReady (ps : Pause) : Sheds p s (pauseReady p ps s) := by
  unfold Machine.pauseReady
  split
  · exact setPower _
  · exact pauseAction _

theorem startRest : Sheds p s (startRest p s) := by
  unfold Machine.startRest
  split
  · exact modPort rfl
  · exact refl p s

theorem prepareMember (c : Cue) : Sheds p s (prepareMember c p s) := by
  have checked : Sheds p s (checkEntries p c.form c.profile s) := by
    unfold checkEntries
    split
    · exact ⟨id, fun _ => List.mem_of_mem_filter⟩
    · exact refl p s
    · exact refl p s
  unfold Machine.prepareMember
  dsimp only
  split
  · exact checked.trans ⟨id, fun _ => id⟩
  · exact checked.trans (.trans (modPort (field_of_body (body_enqueue _ _) Port.order)) ⟨id, fun _ => id⟩)

theorem handOver : Sheds p s (handOver p s) := by
  unfold Machine.handOver
  repeat' split
  · refine ⟨fun _ => ?_, fun _ => id⟩
    rw [port_modPort_self]
    exact (field_of_body (body_enqueue _ _) Port.order).trans rfl
  · exact refl p s
  · exact refl p s

theorem enterReady (rest : Bool) : Sheds p s (enterReady p rest s) := by
  have checks (u : State) : Sheds p u (checkOnReady p u) := forEach fun c u => prepareMember c
  unfold Machine.enterReady
  dsimp only
  refine .trans ?_ handOver
  refine (setPower (.ready none none)).trans ?_
  split
  · exact pauseReady _
  · split
    · exact startRest.trans (checks _)
    · exact checks _

theorem planOne (i : Nat) : Sheds p s (planOne p i s) := by
  by_cases hp : (s.port p).power.isPausing = true
  · unfold Machine.planOne
    split
    · exact refl p s
    dsimp only
    split
    · exact ⟨id, fun _ => id⟩
    split
    · exact ⟨id, fun _ => id⟩
    split
    · exact ⟨id, fun _ => id⟩
    split
    · exact ⟨id, fun _ => id⟩
    cases hw : (s.port p).power with
    | pausing ps w =>
      dsimp only
      split
      · exact .trans (t := setDisp i p _ _ s) ⟨id, fun _ => id⟩ (enterReady false)
      · exact refl p s
    | _ => exact absurd hp (by simp [hw, Power.isPausing])
  · exact of_plans ((Plans.refl p s).planOne (Bool.eq_false_iff.2 hp) i)

theorem replan : Sheds p s (replan p s) := forEach fun i _ => planOne i

theorem releaseUnstarted : Sheds p s (releaseUnstarted p s) := of_plans (.releaseUnstarted (.refl p s))

theorem markPort : Sheds p s (markPort p s) :=
  of_eq (field_of_face (face_of_unmarked (unmarked_markPort p p s)) Port.order) (around_parts (around_markPort p s)).2.2.1

theorem endRestore : Sheds p s (endRestore p s) := by
  unfold Machine.endRestore
  repeat' split
  · exact modPort rfl
  · unfold Machine.wakeDone
    split
    · exact enterReady _
    · exact refl p s
  · exact refl p s
  · exact refl p s

end Sheds

end Sheds_

/-! ## The record -/

section Lasting

variable {s t : State} {p : PortId} {c d : Port}

/-- A record without what a plan or a state changes. -/
def Port.lasting (c : Port) : Port := { c.core with resv := none }

theorem field_of_lasting {α : Type} (h : d.lasting = c.lasting) (f : Port → α)
    (hf : ∀ c : Port, f c.lasting = f c := by exact fun _ => rfl) : f d = f c := (hf d).symm.trans ((congrArg f h).trans (hf c))

theorem lasting_of_core (h : d.core = c.core) : d.lasting = c.lasting := by
  unfold Port.lasting
  rw [h]

theorem lasting_of_planless (h : d.planless = c.planless) : d.lasting = c.lasting := by
  show d.planless.lasting = c.planless.lasting
  rw [h]

theorem lasting_planOne (i : Nat) (p : PortId) (s : State) : ((planOne p i s).port p).lasting = (s.port p).lasting := by
  by_cases hp : (s.port p).power.isPausing = true
  · unfold planOne
    split
    · rfl
    dsimp only
    split
    · rfl
    split
    · rfl
    split
    · rfl
    split
    · rfl
    cases hw : (s.port p).power with
    | pausing ps w =>
      dsimp only
      split
      · exact lasting_of_core (core_enterReady p false _)
      · rfl
    | _ => exact absurd hp (by simp [hw, Power.isPausing])
  · exact lasting_of_planless ((Plans.refl p s).planOne (Bool.eq_false_iff.2 hp) i).record

theorem lasting_replan (p : PortId) (s : State) : ((replan p s).port p).lasting = (s.port p).lasting :=
  forEach_field (fun u : State => (u.port p).lasting) _ (fun i u => lasting_planOne i p u) _ s

end Lasting

end Sys2Proof.Machine

namespace Sys2Proof.Machine

/-! # Proofs: the ports of a change of identity (R56, R57, R60) -/

/-! ## The end of a RESTORE -/

section Restore

variable {s : State} {p : PortId} {w : Wake} {rest : List Pair}

theorem endRestore_other (h : (s.port p).power.isWaking = false) : endRestore p s = s := by
  unfold endRestore
  cases hw : (s.port p).power with
  | waking w => rw [hw] at h; cases h
  | _ => rfl

theorem core_endRestore (p : PortId) (s : State) : ((endRestore p s).port p).core = (s.port p).core := by
  unfold endRestore
  repeat' split
  · exact core_modPort rfl
  · exact core_wakeDone p s
  · rfl
  · rfl

/-- With no write on the lane the wake is done (R57). -/
theorem endRestore_ready (h : (s.port p).power = .waking w) (hr : w.phase = .restore rest) (hp : w.pending = none)
    (hl : (s.port p).lane = none) : ((endRestore p s).port p).power.isReady = true := by
  have ends : endRestore p s = wakeDone p s := by
    unfold endRestore
    rw [h]
    dsimp only
    rw [hr, hl]
  rw [ends, wakeDone_waking h, enterReady_free (by rw [h]; exact hp)]
  rfl

/-- A write of the RESTORE on the lane is its last (R57). -/
theorem endRestore_writes {y : Exchange} {pr : Pair} (h : (s.port p).power = .waking w) (hr : w.phase = .restore rest)
    (hl : (s.port p).lane = some y) (hy : y.src = .wake (.restoreWrite pr)) :
    ((endRestore p s).port p).power = .waking { w with phase := .restore (rest.take 1) } := by
  obtain ⟨op, attr, val, retry, src, at_⟩ := y
  obtain rfl : src = .wake (.restoreWrite pr) := hy
  unfold endRestore
  rw [h]
  dsimp only
  rw [hr, hl]
  dsimp only
  rw [port_modPort_self]

end Restore

/-! ## A reservation in use -/

section Started

variable {s : State} {p : PortId}

theorem resv_planOne_started (h : (s.port p).startedResv = true) (i : Nat) : ((planOne p i s).port p).resv = (s.port p).resv := by
  obtain ⟨r, hr, hs⟩ : ∃ r, (s.port p).resv = some r ∧ r.started = true := by
    unfold Port.startedResv at h
    cases hr : (s.port p).resv with
    | none => simp [hr] at h
    | some r => exact ⟨r, rfl, by simpa [hr] using h⟩
  have paused (req : Nat) : planPaused p i req s = coverBy p i req r.ready s := by
    unfold planPaused
    rw [hr]
    exact if_pos hs
  unfold planOne
  split
  · rfl
  dsimp only
  split
  · rfl
  split
  · rfl
  split
  · rfl
  split
  · rfl
  cases (s.port p).power with
  | pausing ps w =>
    dsimp only
    split
    · exact field_of_core (core_enterReady p false _) Port.resv
    · rfl
  | deep | doze | keepwarm =>
    dsimp only
    rw [paused]
    rfl
  | _ => rfl

theorem resv_replan_started (h : (s.port p).startedResv = true) : ((replan p s).port p).resv = (s.port p).resv := by
  have all (l : List Nat) (u : State) (hu : (u.port p).resv = (s.port p).resv) : ((forEach l (planOne p) u).port p).resv = (s.port p).resv := by
    induction l generalizing u with
    | nil => exact hu
    | cons i l ih =>
      refine ih _ ((resv_planOne_started ?_ i).trans hu)
      unfold Port.startedResv
      rw [hu]
      exact h
  exact all _ s rfl

/-- A camera that is not in WAKING is not woken by a plan. -/
theorem notWaking_replan (h : (s.port p).power.isWaking = false) : ((replan p s).port p).power.isWaking = false := by
  have one (i : Nat) (u : State) (hu : (u.port p).power.isWaking = false) : ((planOne p i u).port p).power.isWaking = false := by
    by_cases hp : (u.port p).power.isPausing = true
    · unfold planOne
      split
      · exact hu
      dsimp only
      split
      · exact hu
      split
      · exact hu
      split
      · exact hu
      split
      · exact hu
      cases hw : (u.port p).power with
      | pausing ps w =>
        dsimp only
        split
        · rw [enterReady_free (s := setDisp i p _ _ u) (by rw [show (setDisp i p _ _ u).port p = u.port p from rfl, hw]; rfl)]
          rfl
        · exact hu
      | _ => exact absurd hp (by simp [hw, Power.isPausing])
    · rw [((Plans.refl p u).planOne (Bool.eq_false_iff.2 hp) i).power]
      exact hu
  have all (l : List Nat) (u : State) (hu : (u.port p).power.isWaking = false) : ((forEach l (planOne p) u).port p).power.isWaking = false := by
    induction l generalizing u with
    | nil => exact hu
    | cons i l ih => exact ih _ (one i u hu)
  exact all _ s h

end Started

/-! ## The camera whose identity has changed -/

section Change

variable {s : State} {p q : PortId} {w : Wake} {rest : List Pair}

/-- What an identity change takes from a camera before it is replanned (R56). -/
def stripped (p : PortId) (s : State) : State := loseSettings p (markPort p (dropOrder p (clearEntries p (releaseUnstarted p s))))

theorem identityChange_eq (p : PortId) (s : State) : identityChange p s = endRestore p (replan p (stripped p s)) := rfl

theorem body_loseSettings (p : PortId) (s : State) : ((loseSettings p s).port p).body = (s.port p).body :=
  forEach_field (fun u : State => (u.port p).body) _ (fun c u => by
    cases c.state with
    | preparing =>
      show ((u.modPort p (fun q => (q.removeJobs (Job.isPrepOf c.id)).cutFlight (Job.isPrepOf c.id) false)).port p).body = _
      rw [port_modPort_self, body_cutFlight, body_removeJobs]
    | _ => rfl) _ s

theorem face_stripped (p : PortId) (s : State) : ((stripped p s).port p).face = ({ (s.port p).released with order := none } : Port).face := by
  have body : ((stripped p s).port p).body = ((markPort p (dropOrder p (clearEntries p (releaseUnstarted p s)))).port p).body :=
    body_loseSettings p _
  rw [face_of_body body, face_of_unmarked (unmarked_markPort ..), dropOrder, port_modPort_self]
  show ({ (releaseUnstarted p s).port p with order := none } : Port).face = _
  rw [port_releaseUnstarted]

theorem outer_stripped (p : PortId) (s : State) : (stripped p s).outer = s.outer := by
  rw [stripped, outer_loseSettings, outer_markPort, outer_dropOrder, outer_clearEntries, outer_releaseUnstarted]

theorem onPort_stripped (p : PortId) (s : State) : OnPort p s (stripped p s) := by
  refine OnPort.loseSettings (OnPort.markPort ?_)
  have cleared : OnPort p s (clearEntries p (releaseUnstarted p s)) := (OnPort.refl p s).releaseUnstarted.clearEntries
  exact cleared.modPort _

theorem marked_stripped (p : PortId) (s : State) : (stripped p s).marked p :=
  (OnPort.refl p (markPort p (dropOrder p (clearEntries p (releaseUnstarted p s))))).loseSettings.marks p (marked_markPort p _)

theorem adv_stripped (p : PortId) (s : State) : ∀ a ∈ (stripped p s).adv, a ∈ s.adv ∧ a.port ≠ p := by
  intro a ha
  have cleared := (Sheds.markPort (p := p) (s := dropOrder p (clearEntries p (releaseUnstarted p s)))).adv a (Sheds.loseSettings.adv a ha)
  obtain ⟨hm, hp⟩ := List.mem_filter.1 cleared
  exact ⟨Sheds.releaseUnstarted.adv a hm, by simpa using hp⟩

theorem field_stripped {α : Type} (f : Port → α) (hf : ∀ c : Port, f c.face = f c := by exact fun _ => rfl)
    (ho : ∀ c : Port, f { c with order := none } = f c := by exact fun _ => rfl)
    (hr : ∀ c : Port, f c.planless = f c := by exact fun _ => rfl) : f ((stripped p s).port p) = f (s.port p) := by
  rw [field_of_face (face_stripped p s) f hf, ho]
  exact field_of_planless (released_planless _) f hr

theorem resv_stripped (p : PortId) (s : State) :
    ((stripped p s).port p).resv = if (s.port p).startedResv then (s.port p).resv else none :=
  (field_of_face (face_stripped p s) Port.resv).trans (released_resv _)

theorem order_stripped (p : PortId) (s : State) : ((stripped p s).port p).order = none := field_of_face (face_stripped p s) Port.order

theorem onPort_identityChange (p : PortId) (s : State) : OnPort p s (identityChange p s) := (OnPort.refl p s).identityChange

theorem outer_identityChange (p : PortId) (s : State) : (identityChange p s).outer = s.outer := by
  rw [identityChange_eq, outer_endRestore, outer_replan, outer_stripped]

theorem sheds_identityChange (p : PortId) (s : State) : Sheds p (stripped p s) (identityChange p s) := Sheds.replan.trans Sheds.endRestore

theorem lasting_identityChange (p : PortId) (s : State) : ((identityChange p s).port p).lasting = (s.port p).lasting := by
  have released : ((releaseUnstarted p s).port p).lasting = (s.port p).lasting := by
    rw [port_releaseUnstarted]
    exact lasting_of_planless (released_planless _)
  have dropped : ((dropOrder p (clearEntries p (releaseUnstarted p s))).port p).core = ((releaseUnstarted p s).port p).core :=
    core_modPort (s := clearEntries p (releaseUnstarted p s)) rfl
  have stripped_ : ((stripped p s).port p).core = ((releaseUnstarted p s).port p).core := by
    rw [stripped, core_of_body (body_loseSettings p _), core_markPort, dropped]
  rw [identityChange_eq, lasting_of_core (core_endRestore p _), lasting_replan,
    lasting_of_core stripped_, released]

theorem resv_identityChange (h : (s.port p).startedResv = true) : ((identityChange p s).port p).resv = (s.port p).resv := by
  have kept : ((stripped p s).port p).resv = (s.port p).resv := by rw [resv_stripped, if_pos h]
  have started : ((stripped p s).port p).startedResv = true := by
    unfold Port.startedResv
    rw [kept]
    exact h
  rw [identityChange_eq, field_of_core (core_endRestore p _) Port.resv, resv_replan_started started, kept]

theorem identityChange_asleep (h : (s.port p).power.isWaking = false) : identityChange p s = replan p (stripped p s) := by
  rw [identityChange_eq]
  refine endRestore_other (notWaking_replan ?_)
  rw [field_stripped Port.power]
  exact h

theorem identityChange_ready (h : (s.port p).power = .waking w) (hr : w.phase = .restore rest) (hp : w.pending = none)
    (hl : (s.port p).lane = none) : ((identityChange p s).port p).power.isReady = true := by
  have power : ((stripped p s).port p).power = .waking w := (field_stripped Port.power).trans h
  have plans : Plans p (stripped p s) (replan p (stripped p s)) := (Plans.refl p _).replan (by rw [power]; rfl)
  rw [identityChange_eq]
  refine endRestore_ready (plans.power.trans power) hr hp ?_
  rw [field_of_planless plans.record Port.lane, field_stripped Port.lane]
  exact hl

/-! ## The camera whose identity has moved -/

/-- What a camera loses with its identity before a RESTORE ends (R60). -/
def forsaken (q : PortId) (s : State) : State :=
  markPort q (dropOrder q (clearEntries q (releaseUnstarted q ((addConflict q s).modPort q ({ · with conflict := true })))))

theorem loseIdentity_eq (q : PortId) (s : State) : loseIdentity q s = endRestore q (forsaken q s) := rfl

/-- The record of a camera that has lost its identity, the mark aside. -/
theorem unmarked_forsaken (q : PortId) (s : State) : ((forsaken q s).port q).unmarked =
    ({ ({ s.port q with noteConflict := true, conflict := true } : Port).released with order := none } : Port).unmarked := by
  have noted : (((addConflict q s).modPort q ({ · with conflict := true })).port q).unmarked =
      ({ s.port q with noteConflict := true, conflict := true } : Port).unmarked := by
    rw [port_modPort_self, port_addConflict_eq]
    rfl
  have released (c d : Port) (h : c.unmarked = d.unmarked) :
      ({ c.released with order := none } : Port).unmarked = ({ d.released with order := none } : Port).unmarked := by
    rw [Port.eq_of_unmarked h]
    unfold Port.released Port.unstarted
    dsimp only
    split <;> rfl
  rw [forsaken, unmarked_markPort, dropOrder, port_modPort_self]
  show ({ (releaseUnstarted q _).port q with order := none } : Port).unmarked = _
  rw [port_releaseUnstarted]
  exact released _ _ noted

/-- A part of that record which does not read the mark. -/
theorem field_forsaken_own {α : Type} (f : Port → α) (hu : ∀ c : Port, f c.unmarked = f c) (q : PortId) (s : State) :
    f ((forsaken q s).port q) = f { ({ s.port q with noteConflict := true, conflict := true } : Port).released with order := none } := by
  rw [← hu, unmarked_forsaken, hu]

theorem outer_loseIdentity (q : PortId) (s : State) : (loseIdentity q s).outer = s.outer := by
  rw [loseIdentity_eq, outer_endRestore, forsaken, outer_markPort, outer_dropOrder, outer_clearEntries, outer_releaseUnstarted,
    outer_modPort, outer_addConflict]

theorem onPort_forsaken (q : PortId) (s : State) : OnPort q s (forsaken q s) := by
  refine OnPort.markPort ?_
  have released : OnPort q s (clearEntries q (releaseUnstarted q ((addConflict q s).modPort q ({ · with conflict := true })))) :=
    ((((OnPort.refl q s).addConflict).modPort _).releaseUnstarted).clearEntries
  exact released.modPort _

theorem onPort_loseIdentity (q : PortId) (s : State) : OnPort q s (loseIdentity q s) := (onPort_forsaken q s).endRestore

theorem marked_loseIdentity (q : PortId) (s : State) : (loseIdentity q s).marked q :=
  (OnPort.refl q (forsaken q s)).endRestore.marks q (marked_markPort q _)

theorem adv_loseIdentity (q : PortId) (s : State) : ∀ a ∈ (loseIdentity q s).adv, a ∈ s.adv ∧ a.port ≠ q := by
  intro a ha
  have cleared := Sheds.markPort.adv a (Sheds.endRestore.adv a ha)
  obtain ⟨hm, hp⟩ := List.mem_filter.1 cleared
  have noted : ((addConflict q s).modPort q ({ · with conflict := true })).adv = s.adv := by
    show (addConflict q s).adv = s.adv
    refine (adv_markPort q _).trans ?_
    split <;> rfl
  exact ⟨noted ▸ Sheds.releaseUnstarted.adv a hm, by simpa using hp⟩

theorem order_loseIdentity (q : PortId) (s : State) : ((loseIdentity q s).port q).order = none :=
  Sheds.endRestore.order (field_forsaken_own Port.order (fun _ => rfl) q s)

/-- What the camera that has lost its identity keeps, and what is noted of it. -/
theorem core_loseIdentity (q : PortId) (s : State) : ((loseIdentity q s).port q).conflict = true ∧
    ((loseIdentity q s).port q).noteConflict = true ∧ ((loseIdentity q s).port q).profile = (s.port q).profile ∧
    ((loseIdentity q s).port q).resv = if (s.port q).startedResv then (s.port q).resv else none := by
  have core := core_endRestore q (forsaken q s)
  refine ⟨(field_of_core core Port.conflict).trans ?_, (field_of_core core Port.noteConflict).trans ?_,
    (field_of_core core Port.profile).trans ?_, (field_of_core core Port.resv).trans ?_⟩
  · exact (field_forsaken_own Port.conflict (fun _ => rfl) q s).trans (released_field Port.conflict _)
  · exact (field_forsaken_own Port.noteConflict (fun _ => rfl) q s).trans (released_field Port.noteConflict _)
  · exact (field_forsaken_own Port.profile (fun _ => rfl) q s).trans (released_field Port.profile _)
  · exact (field_forsaken_own Port.resv (fun _ => rfl) q s).trans (released_resv _)

theorem field_forsaken {α : Type} (f : Port → α) (hu : ∀ c : Port, f c.unmarked = f c := by exact fun _ => rfl)
    (ho : ∀ c : Port, f { c with order := none } = f c := by exact fun _ => rfl)
    (hr : ∀ c : Port, f c.planless = f c := by exact fun _ => rfl)
    (hc : ∀ c : Port, f { c with noteConflict := true, conflict := true } = f c := by exact fun _ => rfl) :
    f ((forsaken q s).port q) = f (s.port q) := by
  rw [← hu, unmarked_forsaken, hu, ho, field_of_planless (released_planless _) f hr, hc]

theorem loseIdentity_asleep (h : (s.port q).power.isWaking = false) :
    ((loseIdentity q s).port q).power = (s.port q).power ∧ ((loseIdentity q s).port q).queue = (s.port q).queue ∧
      ((loseIdentity q s).port q).waitLine = (s.port q).waitLine := by
  have asleep : ((forsaken q s).port q).power.isWaking = false := by
    rw [field_forsaken Port.power]
    exact h
  rw [loseIdentity_eq, endRestore_other asleep]
  exact ⟨field_forsaken Port.power, field_forsaken Port.queue, field_forsaken Port.waitLine⟩

theorem loseIdentity_restore (h : (s.port q).power = .waking w) (hr : w.phase = .restore rest) :
    (w.pending = none → (s.port q).lane = none → ((loseIdentity q s).port q).power.isReady = true) ∧
    (∀ y pr, (s.port q).lane = some y → y.src = .wake (.restoreWrite pr) →
      ((loseIdentity q s).port q).power = .waking { w with phase := .restore (rest.take 1) }) := by
  have power : ((forsaken q s).port q).power = .waking w := (field_forsaken Port.power).trans h
  have lane : ((forsaken q s).port q).lane = (s.port q).lane := field_forsaken Port.lane
  rw [loseIdentity_eq]
  exact ⟨fun hp hl => endRestore_ready power hr hp (lane.trans hl), fun y pr hl hy => endRestore_writes power hr (lane.trans hl) hy⟩

end Change

end Sys2Proof.Machine

namespace Sys2Proof.Machine

/-! # Proofs: the identity table of a learning (R56, R59) -/

/-! ## Searches in the table -/

section Search

variable {s t : State} {p q : PortId} {x : Ident} {k : Position} {e : IdEntry} {g : IdEntry → IdEntry}

theorem freePos_some (h : s.freePos = some k) : s.entryAt k = none := by
  simpa using List.find?_some h

/-- In a table with no free position every position holds an entry. -/
theorem freePos_none (h : s.freePos = none) (k : Position) : ∃ e, s.entryAt k = some e := by
  have full := List.find?_eq_none.1 h k (mem_allPositions k)
  cases he : s.entryAt k with
  | none => exact absurd (by rw [he]; rfl) full
  | some e => exact ⟨e, rfl⟩

/-- A change that keeps the identities keeps what is found for an identity. -/
theorem posOf_of_map (h : ∀ j, t.entryAt j = (s.entryAt j).map g) (hg : ∀ e, (g e).ident = e.ident) (x : Ident) : t.posOf x = s.posOf x := by
  unfold State.posOf
  refine congrArg (List.find? · allPositions) (funext fun j => ?_)
  rw [h]
  cases s.entryAt j with
  | none => rfl
  | some e =>
    show ((g e).ident == x) = (e.ident == x)
    rw [hg]

theorem freePos_of_map (h : ∀ j, t.entryAt j = (s.entryAt j).map g) : t.freePos = s.freePos := by
  unfold State.freePos
  refine congrArg (List.find? · allPositions) (funext fun j => ?_)
  rw [h]
  cases s.entryAt j <;> rfl

theorem boundPos_eq_none (h : ∀ k e, s.entryAt k = some e → e.bound ≠ some p) : s.boundPos p = none := by
  cases hb : s.boundPos p with
  | none => rfl
  | some k =>
    obtain ⟨e, he, hbe⟩ := boundPos_some hb
    exact absurd hbe (h k e he)

theorem posOf_unique (hu : TableUnique s.table) (hk : s.posOf x = some k) {j : Position} {d : IdEntry} (hd : s.entryAt j = some d)
    (hx : d.ident = x) : j = k := by
  obtain ⟨e, he, hi⟩ := posOf_some hk
  by_contra hne
  exact (hu j k hne d e hd he).1 (hx.trans hi.symm)

theorem boundPos_unique (hu : TableUnique s.table) (hk : s.entryAt k = some e) (hb : e.bound = some p) : s.boundPos p = some k := by
  cases hj : s.boundPos p with
  | none => exact absurd hb (boundPos_none hj k e hk)
  | some j =>
    obtain ⟨d, hd, hbd⟩ := boundPos_some hj
    by_contra hne
    exact (hu j k (fun h => hne (congrArg some h)) d e hd hk).2 p hbd hb

/-- An entry written as it was. -/
theorem setEntry_same (hk : s.entryAt k = some e) : s.setEntry k (some e) = s := by
  unfold State.setEntry
  have table : s.table.set k (some e) = s.table := by
    rw [← hk]
    exact Vector.set_getElem_self ..
  rw [table]

end Search

/-! ## The entries that leave a port (R56, steps 1 and 2) -/

/-- What a learning of x at port p makes of an entry before it binds the identity: the entry of x leaves another port, an entry
of another identity leaves p and begins to age unless it is pinned. -/
def IdEntry.leaving (p : PortId) (x : Ident) (now : Nat) (e : IdEntry) : IdEntry :=
  if e.ident = x then (if e.bound = some p then e else { e with bound := none })
  else if e.bound = some p then { e with bound := none, unbind := if e.pinned then none else some now }
  else e

namespace IdEntry

variable {p : PortId} {x : Ident} {now : Nat} {e : IdEntry}

@[simp] theorem ident_leaving : (e.leaving p x now).ident = e.ident := by
  unfold leaving
  repeat' split
  all_goals rfl

@[simp] theorem pinned_leaving : (e.leaving p x now).pinned = e.pinned := by
  unfold leaving
  repeat' split
  all_goals rfl

theorem leaving_own (h : e.ident = x) : e.leaving p x now = if e.bound = some p then e else { e with bound := none } := if_pos h

theorem leaving_other (h : e.ident ≠ x) : e.leaving p x now =
    if e.bound = some p then { e with bound := none, unbind := if e.pinned then none else some now } else e := if_neg h

/-- The entry that is bound next does not tell where it was bound. -/
theorem bind_leaving (h : e.ident = x) (g : StoredProfile) : ({ e.leaving p x now with bound := some p, unbind := none, profile := some g } : IdEntry) =
    { e with bound := some p, unbind := none, profile := some g } := by
  rw [leaving_own h]
  split <;> rfl

theorem profile_leaving_own (h : e.ident = x) : (e.leaving p x now).profile = e.profile := by
  rw [leaving_own h]
  split <;> rfl

/-- After the two steps an entry is bound to the port only if it is the identity's, and to another only if it was before. -/
theorem bound_leaving {q : PortId} (h : (e.leaving p x now).bound = some q) :
    e.bound = some q ∧ (e.ident = x → q = p) ∧ (e.ident ≠ x → q ≠ p) := by
  by_cases hx : e.ident = x
  · rw [leaving_own hx] at h
    by_cases hb : e.bound = some p
    · rw [if_pos hb] at h
      exact ⟨h, fun _ => Option.some.inj (h.symm.trans hb), fun n => absurd hx n⟩
    · rw [if_neg hb] at h
      cases h
  · rw [leaving_other hx] at h
    by_cases hb : e.bound = some p
    · rw [if_pos hb] at h
      cases h
    · rw [if_neg hb] at h
      exact ⟨h, fun n => absurd n hx, fun _ hq => hb (hq ▸ h)⟩

end IdEntry

section Unbind

variable {s : State} {p q : PortId} {x : Ident} {k : Position} {e : IdEntry}

theorem leaveOther_moves (hk : s.posOf x = some k) (he : s.entryAt k = some e) (hb : e.bound = some q) (hq : q ≠ p) :
    leaveOther p x s = loseIdentity q (s.setEntry k (some { e with bound := none })) := by
  unfold leaveOther
  rw [hk]
  dsimp only
  rw [he]
  dsimp only
  rw [hb]
  exact if_neg hq

theorem leaveOther_stays (h : ∀ k e q, s.posOf x = some k → s.entryAt k = some e → e.bound = some q → q = p) : leaveOther p x s = s := by
  unfold leaveOther
  split
  next k hk =>
    split
    next e he =>
      split
      next q hb => exact if_pos (h k e q hk he hb)
      next => rfl
    next => rfl
  next => rfl

theorem leaveOther_cases (p : PortId) (x : Ident) (s : State) : leaveOther p x s = s ∨ ∃ k e q, s.posOf x = some k ∧
    s.entryAt k = some e ∧ e.bound = some q ∧ q ≠ p ∧ leaveOther p x s = loseIdentity q (s.setEntry k (some { e with bound := none })) := by
  by_cases stays : ∀ k e q, s.posOf x = some k → s.entryAt k = some e → e.bound = some q → q = p
  · exact .inl (leaveOther_stays stays)
  · push Not at stays
    obtain ⟨k, e, q, hk, he, hb, hq⟩ := stays
    exact .inr ⟨k, e, q, hk, he, hb, hq, leaveOther_moves hk he hb hq⟩

theorem ident_posOf (hk : s.posOf x = some k) (he : s.entryAt k = some e) : e.ident = x := by
  obtain ⟨d, hd, hx⟩ := posOf_some hk
  exact Option.some.inj (he.symm.trans hd) ▸ hx

theorem entryAt_leaveOther (hu : TableUnique s.table) (p : PortId) (x : Ident) (j : Position) :
    (leaveOther p x s).entryAt j = (s.entryAt j).map fun e => if e.ident = x ∧ e.bound ≠ some p then { e with bound := none } else e := by
  by_cases stays : ∀ k e q, s.posOf x = some k → s.entryAt k = some e → e.bound = some q → q = p
  · rw [leaveOther_stays stays]
    cases hj : s.entryAt j with
    | none => rfl
    | some d =>
      refine congrArg some ?_
      dsimp only
      split
      next own =>
        obtain ⟨hx, hb⟩ := own
        cases hd : d.bound with
        | none => rw [← hd]
        | some q =>
          cases hk : s.posOf x with
          | none => exact absurd hx (posOf_none hk j d hj)
          | some k =>
            obtain rfl := posOf_unique hu hk hj hx
            exact absurd (hd.trans (congrArg some (stays j d q hk hj hd))) hb
      next => rfl
  · push Not at stays
    obtain ⟨k, e, q, hk, he, hb, hq⟩ := stays
    have own := ident_posOf hk he
    rw [leaveOther_moves hk he hb hq, entryAt_of_outer (outer_loseIdentity q _)]
    by_cases hj : k = j
    · subst hj
      rw [entryAt_setEntry_self, he]
      refine congrArg some (if_pos ⟨own, ?_⟩).symm
      rw [hb]
      exact fun h => hq (Option.some.inj h)
    · rw [entryAt_setEntry_ne hj]
      cases hd : s.entryAt j with
      | none => rfl
      | some d =>
        refine congrArg some (if_neg fun h => ?_).symm
        exact (hu k j hj e d he hd).1 (own.trans h.1.symm)

theorem entryAt_leaveHere (hu : TableUnique s.table) (p : PortId) (x : Ident) (j : Position) :
    (leaveHere p x s).entryAt j = (s.entryAt j).map fun e =>
      if e.ident ≠ x ∧ e.bound = some p then { e with bound := none, unbind := if e.pinned then none else some s.clock } else e := by
  unfold leaveHere
  cases hk : s.boundPos p with
  | none =>
    cases hj : s.entryAt j with
    | none => rfl
    | some d =>
      refine congrArg some (if_neg fun h : _ ∧ _ => ?_).symm
      exact boundPos_none hk j d hj h.2
  | some k =>
    obtain ⟨e, he, hb⟩ := boundPos_some hk
    dsimp only
    by_cases hj : k = j
    · subst hj
      rw [entryAt_setEntry_self, he]
      refine congrArg some ?_
      by_cases hx : e.ident = x
      · simp [hx]
      · simp [hx, hb]
    · rw [entryAt_setEntry_ne hj]
      cases hd : s.entryAt j with
      | none => rfl
      | some d => exact congrArg some (if_neg fun h => (hu k j hj e d he hd).2 p hb h.2).symm

theorem unique_leaveOther (hu : TableUnique s.table) (p : PortId) (x : Ident) : TableUnique (leaveOther p x s).table :=
  ((Keeps.refl false s).leaveOther p x).unique hu

theorem still_leaveOther (p : PortId) (x : Ident) (s : State) : (leaveOther p x s).still = s.still := by
  obtain same | ⟨k, e, q, -, -, -, -, same⟩ := leaveOther_cases p x s
  · rw [same]
  · rw [same]
    exact (outer_parts (outer_loseIdentity q _)).1

theorem still_unbindOthers (p : PortId) (x : Ident) (s : State) : (unbindOthers p x s).still = s.still := by
  unfold unbindOthers leaveHere
  split <;> exact still_leaveOther p x s

theorem entryAt_unbindOthers (hu : TableUnique s.table) (p : PortId) (x : Ident) (j : Position) :
    (unbindOthers p x s).entryAt j = (s.entryAt j).map (IdEntry.leaving p x s.clock) := by
  have clock : (leaveOther p x s).clock = s.clock := congrArg (·.1) (still_leaveOther p x s)
  rw [unbindOthers, entryAt_leaveHere (unique_leaveOther hu p x), entryAt_leaveOther hu, clock]
  cases s.entryAt j with
  | none => rfl
  | some e =>
    refine congrArg some ?_
    by_cases hx : e.ident = x <;> by_cases hb : e.bound = some p <;> simp [IdEntry.leaving, hx, hb]

/-- An entry already bound to the port stays as it is. -/
theorem unbindOthers_bound (hu : TableUnique s.table) (hk : s.posOf x = some k) (he : s.entryAt k = some e) (hb : e.bound = some p) :
    unbindOthers p x s = s := by
  have stays : leaveOther p x s = s := leaveOther_stays fun j d q hj hd hq => by
    obtain rfl := Option.some.inj (hk.symm.trans hj)
    obtain rfl := Option.some.inj (he.symm.trans hd)
    exact Option.some.inj (hq.symm.trans hb)
  rw [unbindOthers, stays, leaveHere, boundPos_unique hu he hb]
  dsimp only
  rw [he, Option.map_some, if_pos (ident_posOf hk he), setEntry_same he]

theorem ports_leaveHere (p : PortId) (x : Ident) (s : State) : (leaveHere p x s).ports = s.ports := by
  unfold leaveHere
  split <;> rfl

theorem adv_leaveHere (p : PortId) (x : Ident) (s : State) : (leaveHere p x s).adv = s.adv := by
  unfold leaveHere
  split <;> rfl

theorem adv_leaveOther (p : PortId) (x : Ident) (s : State) : ∀ a ∈ (leaveOther p x s).adv, a ∈ s.adv := by
  obtain same | ⟨k, e, q, -, -, -, -, same⟩ := leaveOther_cases p x s
  · rw [same]
    exact fun _ => id
  · rw [same]
    exact fun a ha => (adv_loseIdentity q _ a ha).1

theorem leaveOther_others (h : ∀ k e, s.posOf x = some k → s.entryAt k = some e → e.bound ≠ some q) :
    (leaveOther p x s).port q = s.port q := by
  obtain same | ⟨k, e, r, hk, he, hb, -, same⟩ := leaveOther_cases p x s
  · rw [same]
  · rw [same]
    exact (onPort_loseIdentity r _).others q fun hr => h k e hk he (hr ▸ hb)

theorem leaveOther_here (p : PortId) (x : Ident) (s : State) : (leaveOther p x s).port p = s.port p := by
  obtain same | ⟨k, e, q, -, -, -, hq, same⟩ := leaveOther_cases p x s
  · rw [same]
  · rw [same]
    exact (onPort_loseIdentity q _).others p (Ne.symm hq)

end Unbind

end Sys2Proof.Machine

namespace Sys2Proof.Machine

/-! # Proofs: IDENTIFY and its learning (R56–R60, R130) -/

/-! ## The binding (R56, step 3) -/

section Bind

variable {s : State} {p q : PortId} {x : Ident} {f : Profile} {k : Position} {e : IdEntry}

theorem bindTo_listed (hk : s.posOf x = some k) (he : s.entryAt k = some e) : bindTo p x f s =
    (s.setEntry k (some { e with bound := some p, unbind := none, profile := some (learned (s.storedProfile f false) e.profile) })).modPort p
      (fun c => { c with profile := some (learned (s.storedProfile f false) e.profile).figures }) := by
  unfold bindTo
  dsimp only
  rw [hk]
  dsimp only
  rw [he]

theorem bindTo_new (hx : s.posOf x = none) (hk : s.newPos = some k) : bindTo p x f s =
    (s.setEntry k (some ⟨x, some p, false, some (s.storedProfile f false), [], none⟩)).modPort p
      (fun c => { c with profile := some (f.clampInrush s.inrush) }) := by
  unfold bindTo
  dsimp only
  rw [hx]
  dsimp only
  rw [hk]
  rfl

theorem bindTo_full (hx : s.posOf x = none) (hk : s.newPos = none) : bindTo p x f s =
    s.modPort p (fun c => { c with profile := some (f.clampInrush s.inrush) }) := by
  unfold bindTo
  dsimp only
  rw [hx]
  dsimp only
  rw [hk]
  rfl

theorem bindTo_cases (p : PortId) (x : Ident) (f : Profile) (s : State) :
    ∃ g : Port → Option Profile, (∃ k o, bindTo p x f s = (s.setEntry k o).modPort p (fun c => { c with profile := g c })) ∨
      bindTo p x f s = s.modPort p (fun c => { c with profile := g c }) := by
  cases hx : s.posOf x with
  | some k =>
    obtain ⟨e, he, -⟩ := posOf_some hx
    exact ⟨fun _ => some (learned (s.storedProfile f false) e.profile).figures, .inl ⟨_, _, bindTo_listed hx he⟩⟩
  | none =>
    cases hk : s.newPos with
    | some k => exact ⟨fun _ => some (f.clampInrush s.inrush), .inl ⟨_, _, bindTo_new hx hk⟩⟩
    | none => exact ⟨fun _ => some (f.clampInrush s.inrush), .inr (bindTo_full hx hk)⟩

theorem onPort_bindTo (p : PortId) (x : Ident) (f : Profile) (s : State) : OnPort p s (bindTo p x f s) := by
  obtain ⟨g, ⟨k, o, eq⟩ | eq⟩ := bindTo_cases p x f s
  · rw [eq]
    exact ((OnPort.refl p s).setEntry k o).modPort _
  · rw [eq]
    exact (OnPort.refl p s).modPort _

theorem bindTo_kept (p : PortId) (x : Ident) (f : Profile) (s : State) :
    (bindTo p x f s).adv = s.adv ∧ (bindTo p x f s).still = s.still ∧
      { (bindTo p x f s).port p with profile := none } = { s.port p with profile := none } := by
  obtain ⟨g, ⟨k, o, eq⟩ | eq⟩ := bindTo_cases p x f s
  · rw [eq, port_modPort_self]
    exact ⟨rfl, rfl, rfl⟩
  · rw [eq, port_modPort_self]
    exact ⟨rfl, rfl, rfl⟩

/-- The table and the port before the change of identity is noticed (R56). -/
def State.bound (p : PortId) (x : Ident) (f : Profile) (s : State) : State :=
  (bindTo p x f (unbindOthers p x s)).modPort p ({ · with conflict := false, rescan := false })

theorem identifyDone_changed (h : s.boundIdent p ≠ some x) : identifyDone p x f s = identityChange p (s.bound p x f) := by
  unfold identifyDone
  exact if_pos (bne_iff_ne.2 h)

theorem identifyDone_same (h : s.boundIdent p = some x) : identifyDone p x f s = s.bound p x f := by
  unfold identifyDone
  refine if_neg ?_
  simp [h]

theorem identifyDone_cases (p : PortId) (x : Ident) (f : Profile) (s : State) :
    identifyDone p x f s = s.bound p x f ∨ identifyDone p x f s = identityChange p (s.bound p x f) := by
  by_cases h : s.boundIdent p = some x
  · exact .inl (identifyDone_same h)
  · exact .inr (identifyDone_changed h)

theorem outer_identifyDone (p : PortId) (x : Ident) (f : Profile) (s : State) : (identifyDone p x f s).outer = (s.bound p x f).outer := by
  obtain eq | eq := identifyDone_cases p x f s
  · rw [eq]
  · rw [eq, outer_identityChange]

theorem entryAt_identifyDone (j : Position) : (identifyDone p x f s).entryAt j = (bindTo p x f (unbindOthers p x s)).entryAt j :=
  entryAt_of_outer (outer_identifyDone p x f s) j

theorem lasting_identifyDone (p : PortId) (x : Ident) (f : Profile) (s : State) :
    ((identifyDone p x f s).port p).lasting = ((s.bound p x f).port p).lasting := by
  obtain eq | eq := identifyDone_cases p x f s
  · rw [eq]
  · rw [eq, lasting_identityChange]

theorem onPort_identifyDone (p : PortId) (x : Ident) (f : Profile) (s : State) : OnPort p (leaveOther p x s) (identifyDone p x f s) := by
  have here : OnPort p (leaveOther p x s) (unbindOthers p x s) := by
    unfold unbindOthers leaveHere
    split
    · exact (OnPort.refl p _).setEntry _ _
    · exact OnPort.refl p _
  have bound : OnPort p (leaveOther p x s) (s.bound p x f) := (here.trans (onPort_bindTo p x f _)).modPort _
  obtain eq | eq := identifyDone_cases p x f s
  · rw [eq]
    exact bound
  · rw [eq]
    exact bound.identityChange

theorem still_identifyDone (p : PortId) (x : Ident) (f : Profile) (s : State) : (identifyDone p x f s).still = s.still :=
  (outer_parts (outer_identifyDone p x f s)).1.trans ((bindTo_kept p x f _).2.1.trans (still_unbindOthers p x s))

theorem port_unbindOthers (q : PortId) : (unbindOthers p x s).port q = (leaveOther p x s).port q := by
  unfold State.port unbindOthers
  rw [ports_leaveHere]

theorem field_bound {α : Type} (f' : Port → α) (hf : ∀ c : Port, f' { c with profile := none } = f' c := by exact fun _ => rfl)
    (hc : ∀ c : Port, f' { c with conflict := false, rescan := false } = f' c := by exact fun _ => rfl) :
    f' ((s.bound p x f).port p) = f' (s.port p) := by
  rw [State.bound, port_modPort_self, hc, ← hf, (bindTo_kept p x f _).2.2, hf, port_unbindOthers, leaveOther_here]

theorem profile_bound : ((s.bound p x f).port p).profile = ((bindTo p x f (unbindOthers p x s)).port p).profile := by
  rw [State.bound, port_modPort_self]

theorem profile_identifyDone : ((identifyDone p x f s).port p).profile = ((bindTo p x f (unbindOthers p x s)).port p).profile :=
  (field_of_lasting (lasting_identifyDone p x f s) Port.profile).trans profile_bound

theorem adv_bound (p : PortId) (x : Ident) (f : Profile) (s : State) : (s.bound p x f).adv = (leaveOther p x s).adv :=
  (bindTo_kept p x f _).1.trans (adv_leaveHere p x _)

theorem adv_identifyDone (p : PortId) (x : Ident) (f : Profile) (s : State) : ∀ a ∈ (identifyDone p x f s).adv, a ∈ (leaveOther p x s).adv := by
  rw [← adv_bound p x f s]
  obtain eq | eq := identifyDone_cases p x f s
  · rw [eq]
    exact fun _ => id
  · rw [eq]
    exact fun a ha => (adv_stripped p _ a ((sheds_identityChange p _).adv a ha)).1

end Bind

/-! ## What an identity learned leaves in the table -/

section Table

variable {s : State} {p q : PortId} {x : Ident} {f : Profile} {k j : Position} {e d : IdEntry}

theorem posOf_unbindOthers (hu : TableUnique s.table) : (unbindOthers p x s).posOf x = s.posOf x :=
  posOf_of_map (entryAt_unbindOthers hu p x) (fun _ => IdEntry.ident_leaving) x

theorem freePos_unbindOthers (hu : TableUnique s.table) : (unbindOthers p x s).freePos = s.freePos :=
  freePos_of_map (entryAt_unbindOthers hu p x)

theorem entry_unbindOthers (hu : TableUnique s.table) (hk : s.entryAt k = some e) :
    (unbindOthers p x s).entryAt k = some (e.leaving p x s.clock) := by
  rw [entryAt_unbindOthers hu, hk]
  rfl

theorem stored_unbindOthers : (unbindOthers p x s).inrush = s.inrush ∧ (unbindOthers p x s).clock = s.clock := by
  have still := still_unbindOthers p x s
  exact ⟨congrArg (fun y => y.2.2.2.1) still, congrArg (·.1) still⟩

/-- The entry of a listed identity, and the camera's figures (R56, R66). -/
theorem learned_listed (hu : TableUnique s.table) (hk : s.posOf x = some k) (he : s.entryAt k = some e) :
    (identifyDone p x f s).entryAt k = some { e with
      bound := some p, unbind := none, profile := some (learned (s.storedProfile f false) e.profile) } ∧
    ((identifyDone p x f s).port p).profile = some (learned (s.storedProfile f false) e.profile).figures ∧
    ∀ j, j ≠ k → (identifyDone p x f s).entryAt j = (s.entryAt j).map (IdEntry.leaving p x s.clock) := by
  have own := ident_posOf hk he
  have bind := bindTo_listed (s := unbindOthers p x s) (p := p) (f := f) ((posOf_unbindOthers hu).trans hk) (entry_unbindOthers hu he)
  have stored : (unbindOthers p x s).storedProfile f false = s.storedProfile f false := by
    unfold State.storedProfile
    rw [stored_unbindOthers.1]
  rw [stored, IdEntry.profile_leaving_own own, IdEntry.bind_leaving own] at bind
  rw [profile_identifyDone, entryAt_identifyDone, bind, port_modPort_self, entryAt_modPort, entryAt_setEntry_self]
  refine ⟨rfl, rfl, fun j hj => ?_⟩
  rw [entryAt_identifyDone, bind, entryAt_modPort, entryAt_setEntry_ne (Ne.symm hj), entryAt_unbindOthers hu]

/-- A new entry of an identity that was not listed (R56, R59). -/
theorem learned_new (hu : TableUnique s.table) (hx : s.posOf x = none) (hk : (unbindOthers p x s).newPos = some k) :
    (identifyDone p x f s).entryAt k = some ⟨x, some p, false, some (s.storedProfile f false), [], none⟩ ∧
    ((identifyDone p x f s).port p).profile = some (f.clampInrush s.inrush) ∧
    ∀ j, j ≠ k → (identifyDone p x f s).entryAt j = (s.entryAt j).map (IdEntry.leaving p x s.clock) := by
  have bind := bindTo_new (p := p) (f := f) ((posOf_unbindOthers hu).trans hx) hk
  have stored : (unbindOthers p x s).storedProfile f false = s.storedProfile f false := by
    unfold State.storedProfile
    rw [stored_unbindOthers.1]
  rw [stored, stored_unbindOthers.1] at bind
  rw [profile_identifyDone, entryAt_identifyDone, bind, port_modPort_self, entryAt_modPort, entryAt_setEntry_self]
  refine ⟨rfl, rfl, fun j hj => ?_⟩
  rw [entryAt_identifyDone, bind, entryAt_modPort, entryAt_setEntry_ne (Ne.symm hj), entryAt_unbindOthers hu]

/-- No position for the identity: the figures only are learnt (R59). -/
theorem learned_full (hu : TableUnique s.table) (hx : s.posOf x = none) (hk : (unbindOthers p x s).newPos = none) :
    ((identifyDone p x f s).port p).profile = some (f.clampInrush s.inrush) ∧
    ∀ j, (identifyDone p x f s).entryAt j = (s.entryAt j).map (IdEntry.leaving p x s.clock) := by
  have bind := bindTo_full (p := p) (f := f) ((posOf_unbindOthers hu).trans hx) hk
  rw [stored_unbindOthers.1] at bind
  rw [profile_identifyDone, bind, port_modPort_self]
  refine ⟨rfl, fun j => ?_⟩
  rw [entryAt_identifyDone, bind, entryAt_modPort, entryAt_unbindOthers hu]

/-- With a position of its own or a free one for the identity, the entries of other identities only leave the port. -/
theorem learned_others (hu : TableUnique s.table) (hj : s.entryAt j = some d) (hx : d.ident ≠ x)
    (room : s.posOf x ≠ none ∨ s.freePos ≠ none) : (identifyDone p x f s).entryAt j = some (d.leaving p x s.clock) := by
  cases hk : s.posOf x with
  | some k =>
    obtain ⟨e, he, hi⟩ := posOf_some hk
    have other : j ≠ k := by
      rintro rfl
      exact hx (ident_posOf hk hj)
    rw [(learned_listed hu hk he).2.2 j other, hj]
    rfl
  | none =>
    cases hf : s.freePos with
    | none => simp [hk, hf] at room
    | some k =>
      have other : j ≠ k := by
        rintro rfl
        rw [freePos_some hf] at hj
        cases hj
      rw [(learned_new hu hk (newPos_free ((freePos_unbindOthers hu).trans hf))).2.2 j other, hj]
      rfl

/-- An entry that is not of the identity, after the two steps, by what it was before. -/
theorem mayGo_iff (hx : e.ident ≠ x) : e.mayGo p ↔ (e.leaving p x s.clock).bound = none ∧ (e.leaving p x s.clock).pinned = false := by
  rw [IdEntry.pinned_leaving, IdEntry.leaving_other hx]
  refine and_congr_left fun _ => ?_
  split
  next hb => simp [hb]
  next hb => simp [hb]

theorem diffMs_same (a : Nat) : diffMs a a = 0 := by
  unfold diffMs Config.clockMod
  omega

theorem unboundAge_leaving (hx : e.ident ≠ x) (h : e.mayGo p) :
    (unbindOthers p x s).unboundAge (e.leaving p x s.clock) = s.unboundFor p e := by
  unfold State.unboundAge State.unboundFor
  rw [stored_unbindOthers.2, IdEntry.leaving_other hx]
  split
  next hb =>
    dsimp only
    rw [h.2]
    exact diffMs_same s.clock
  next => rfl

/-- In a full table the new entry takes the place of the one unbound longest (R59). -/
theorem newPos_unbindOthers (hu : TableUnique s.table) (hx : s.posOf x = none) (hf : s.freePos = none) (he : s.entryAt k = some e)
    (go : e.mayGo p) (best : ∀ j d, s.entryAt j = some d → d.mayGo p → s.unboundFor p d < s.unboundFor p e ∨
      (s.unboundFor p d = s.unboundFor p e ∧ k ≤ j)) : (unbindOthers p x s).newPos = some k := by
  have other := posOf_none hx
  obtain ⟨hb, hp⟩ := (mayGo_iff (s := s) (other k e he)).1 go
  refine newPos_evicts ((freePos_unbindOthers hu).trans hf) (entry_unbindOthers hu he) hb hp fun j d' hd' hdb hdp => ?_
  rw [entryAt_unbindOthers hu] at hd'
  obtain ⟨d, hd, rfl⟩ := Option.map_eq_some_iff.1 hd'
  have free := (mayGo_iff (other j d hd)).2 ⟨hdb, hdp⟩
  rw [unboundAge_leaving (other k e he) go, unboundAge_leaving (other j d hd) free]
  exact best j d hd free

theorem newPos_unbindOthers_none (hu : TableUnique s.table) (hx : s.posOf x = none) (hf : s.freePos = none)
    (all : ∀ k e, s.entryAt k = some e → ¬ e.mayGo p) : (unbindOthers p x s).newPos = none := by
  refine newPos_none ((freePos_unbindOthers hu).trans hf) (List.eq_nil_iff_forall_not_mem.2 fun y hy => ?_)
  obtain ⟨d', hd', hb, hp, -⟩ := mem_evictable.1 hy
  rw [entryAt_unbindOthers hu] at hd'
  obtain ⟨d, hd, rfl⟩ := Option.map_eq_some_iff.1 hd'
  exact all _ d hd ((mayGo_iff (posOf_none hx _ d hd)).2 ⟨hb, hp⟩)

end Table

end Sys2Proof.Machine

namespace Sys2Proof.Machine

/-! ## A camera that learns its identity (R56, R57, R60) -/

section Learning

variable {s : State} {p q : PortId} {x : Ident} {f : Profile} {k j : Position} {e d : IdEntry} {w : Wake} {rest : List Pair}

theorem flags_identifyDone (p : PortId) (x : Ident) (f : Profile) (s : State) :
    ((identifyDone p x f s).port p).conflict = false ∧ ((identifyDone p x f s).port p).rescan = false := by
  have lasting := lasting_identifyDone p x f s
  refine ⟨(field_of_lasting lasting Port.conflict).trans ?_, (field_of_lasting lasting Port.rescan).trans ?_⟩ <;>
    rw [State.bound, port_modPort_self]

/-- An IDENTIFY of the identity bound to the port already only learns its profile (R56). -/
theorem identifyDone_bound (hu : TableUnique s.table) (hk : s.posOf x = some k) (he : s.entryAt k = some e) (hb : e.bound = some p) :
    identifyDone p x f s =
      (s.setEntry k (some { e with unbind := none, profile := some (learned (s.storedProfile f false) e.profile) })).modPort p
        (fun c => { c with
          profile := some (learned (s.storedProfile f false) e.profile).figures, conflict := false, rescan := false }) := by
  have same : s.boundIdent p = some x := (boundIdent_some hu he hb).trans (congrArg some (ident_posOf hk he))
  rw [identifyDone_same same, State.bound, unbindOthers_bound hu hk he hb, bindTo_listed hk he, modPort_modPort, ← hb]

theorem marked_identityChange (p : PortId) (s : State) : (identityChange p s).marked p := by
  have after : OnPort p (stripped p s) (endRestore p (replan p (stripped p s))) := (OnPort.refl p (stripped p s)).replan.endRestore
  rw [identityChange_eq]
  exact after.marks p (marked_stripped p s)

theorem learned_eq (g : StoredProfile) (o : Option StoredProfile) : learned g o = (match o with
    | some h => if h.overridden then h else g
    | none => g) := by
  cases o <;> rfl

/-- With no position for the identity no entry is bound to the port (R59). -/
theorem learned_nowhere (hu : TableUnique s.table) (hx : s.posOf x = none) (hf : s.freePos = none)
    (all : ∀ k e, s.entryAt k = some e → ¬ e.mayGo p) :
    (identifyDone p x f s).boundPos p = none ∧ ((identifyDone p x f s).port p).profile = some (f.clampInrush s.inrush) ∧
      ∀ j d, s.entryAt j = some d → (identifyDone p x f s).entryAt j =
        some (if d.bound = some p then { d with bound := none, unbind := none } else d) := by
  obtain ⟨profile, entries⟩ := learned_full (f := f) hu hx (newPos_unbindOthers_none hu hx hf all)
  have entry (j : Position) (d : IdEntry) (hd : s.entryAt j = some d) : (identifyDone p x f s).entryAt j =
      some (if d.bound = some p then { d with bound := none, unbind := none } else d) := by
    rw [entries, hd, Option.map_some, IdEntry.leaving_other (posOf_none hx j d hd)]
    by_cases hb : d.bound = some p
    · have pinned : d.pinned = true := by
        by_contra free
        exact all j d hd ⟨.inr hb, Bool.eq_false_iff.2 free⟩
      simp [hb, pinned]
    · simp [hb]
  refine ⟨boundPos_eq_none fun j d' hd' hb' => ?_, profile, entry⟩
  obtain ⟨d, hd⟩ := freePos_none hf j
  obtain rfl := Option.some.inj ((entry j d hd).symm.trans hd')
  split at hb'
  next => cases hb'
  next hb => exact hb hb'

theorem learned_evicts (hu : TableUnique s.table) (hx : s.posOf x = none) (hf : s.freePos = none) (he : s.entryAt k = some e)
    (go : e.mayGo p) (best : ∀ j d, s.entryAt j = some d → d.mayGo p → s.unboundFor p d < s.unboundFor p e ∨
      (s.unboundFor p d = s.unboundFor p e ∧ k ≤ j)) :
    (identifyDone p x f s).entryAt k = some ⟨x, some p, false, some (s.storedProfile f false), [], none⟩ ∧
      ((identifyDone p x f s).port p).profile = some (f.clampInrush s.inrush) ∧
      ∀ j d, j ≠ k → s.entryAt j = some d → (identifyDone p x f s).entryAt j = some (if d.bound = some p then
        { d with bound := none, unbind := if d.pinned then none else some s.clock } else d) := by
  obtain ⟨entry, profile, entries⟩ := learned_new (f := f) hu hx (newPos_unbindOthers hu hx hf he go best)
  refine ⟨entry, profile, fun j d hj hd => ?_⟩
  rw [entries j hj, hd, Option.map_some, IdEntry.leaving_other (posOf_none hx j d hd)]

/-- A camera of another identity than before is planned for anew, as one whose settings are lost (R56). -/
theorem identity_changed (h : s.boundIdent p ≠ some x) :
    (identifyDone p x f s).marked p ∧ ((identifyDone p x f s).port p).order = none ∧
      (∀ a ∈ (identifyDone p x f s).adv, a.port ≠ p) ∧ (identifyDone p x f s).still = s.still ∧
      (∀ q, q ≠ p → (∀ k e, s.posOf x = some k → s.entryAt k = some e → e.bound ≠ some q) →
        (identifyDone p x f s).port q = s.port q) ∧
      ((s.port p).startedResv = true → ((identifyDone p x f s).port p).resv = (s.port p).resv) ∧
      ((s.port p).power.isWaking = false → ∃ v : State, identifyDone p x f s = replan p v ∧
        (v.port p).profile = ((identifyDone p x f s).port p).profile ∧ (v.port p).power = (s.port p).power ∧
        (v.port p).resv = (if (s.port p).startedResv then (s.port p).resv else none)) ∧
      (∀ w rest, (s.port p).power = .waking w → w.phase = .restore rest → w.pending = none → (s.port p).lane = none →
        ((identifyDone p x f s).port p).power.isReady = true) := by
  have power : ((s.bound p x f).port p).power = (s.port p).power := field_bound Port.power
  have resv : ((s.bound p x f).port p).resv = (s.port p).resv := field_bound Port.resv
  have started : ((s.bound p x f).port p).startedResv = (s.port p).startedResv := field_bound Port.startedResv
  have sheds := sheds_identityChange p (s.bound p x f)
  have changed := identifyDone_changed (f := f) h
  refine ⟨?_, ?_, ?_, still_identifyDone p x f s, fun q hq away => ?_, fun hs => ?_, fun asleep => ?_, fun w rest hw hr hp hl => ?_⟩
  · rw [changed]
    exact marked_identityChange p _
  · rw [changed]
    exact sheds.order (order_stripped p _)
  · rw [changed]
    exact fun a ha => (adv_stripped p _ a (sheds.adv a ha)).2
  · exact ((onPort_identifyDone p x f s).others q hq).trans (leaveOther_others away)
  · rw [changed, resv_identityChange (started.trans hs), resv]
  · refine ⟨stripped p (s.bound p x f), ?_, ?_, (field_stripped Port.power).trans power, ?_⟩
    · rw [changed, identityChange_asleep (by rw [power]; exact asleep)]
    · rw [field_stripped Port.profile, changed, field_of_lasting (lasting_identityChange p _) Port.profile]
    · rw [resv_stripped, started, resv]
  · rw [changed]
    exact identityChange_ready (power.trans hw) hr hp ((field_bound Port.lane).trans hl)

/-- The port an identity has moved away from (R60). -/
theorem identity_moved (hu : TableUnique s.table) (hk : s.posOf x = some k) (he : s.entryAt k = some e) (hb : e.bound = some q)
    (hq : q ≠ p) :
    ((identifyDone p x f s).port q).conflict = true ∧ ((identifyDone p x f s).port q).noteConflict = true ∧
      (identifyDone p x f s).marked q ∧ ((identifyDone p x f s).port q).order = none ∧
      ((identifyDone p x f s).port q).resv = (if (s.port q).startedResv then (s.port q).resv else none) ∧
      (identifyDone p x f s).boundPos q = none ∧ (∀ a ∈ (identifyDone p x f s).adv, a.port ≠ q) ∧
      ((identifyDone p x f s).port q).profile = (s.port q).profile ∧
      ((s.port q).power.isWaking = false →
        ((identifyDone p x f s).port q).power = (s.port q).power ∧ ((identifyDone p x f s).port q).queue = (s.port q).queue ∧
        ((identifyDone p x f s).port q).waitLine = (s.port q).waitLine) ∧
      (∀ w rest, (s.port q).power = .waking w → w.phase = .restore rest →
        (w.pending = none → (s.port q).lane = none → ((identifyDone p x f s).port q).power.isReady = true) ∧
        (∀ y pr, (s.port q).lane = some y → y.src = .wake (.restoreWrite pr) →
          ((identifyDone p x f s).port q).power = .waking { w with phase := .restore (rest.take 1) })) := by
  have moves := leaveOther_moves hk he hb hq
  have onPort := onPort_identifyDone p x f s
  have lost : (identifyDone p x f s).port q = (loseIdentity q (s.setEntry k (some { e with bound := none }))).port q :=
    (onPort.others q hq).trans (by rw [moves])
  have own := core_loseIdentity q (s.setEntry k (some { e with bound := none }))
  have asleep := loseIdentity_asleep (q := q) (s := s.setEntry k (some { e with bound := none }))
  have restore (w : Wake) (rest : List Pair) :=
    loseIdentity_restore (q := q) (w := w) (rest := rest) (s := s.setEntry k (some { e with bound := none }))
  rw [← lost] at own asleep
  simp only [← lost] at restore
  rw [port_setEntry] at own asleep
  simp only [port_setEntry] at restore
  obtain ⟨conflict, note, profile, resv⟩ := own
  refine ⟨conflict, note, onPort.marks q ?_, ?_, resv, boundPos_eq_none fun j d hd hbd => ?_, fun a ha => ?_, profile, asleep, restore⟩
  · rw [moves]
    exact marked_loseIdentity q _
  · rw [lost]
    exact order_loseIdentity q _
  · obtain ⟨entry, -, entries⟩ := learned_listed (p := p) (f := f) hu hk he
    by_cases hj : j = k
    · subst hj
      obtain rfl := Option.some.inj (entry.symm.trans hd)
      exact hq (Option.some.inj hbd).symm
    · rw [entries j hj] at hd
      obtain ⟨c, hc, rfl⟩ := Option.map_eq_some_iff.1 hd
      exact (hu k j (Ne.symm hj) e c he hc).2 q hb (IdEntry.bound_leaving hbd).1
  · have left := adv_identifyDone p x f s a ha
    rw [moves] at left
    exact (adv_loseIdentity q _ a left).2

/-- A learning, as R56, R57, R59 and R60 give it. -/
theorem identifyDone_spec (p : PortId) (x : Ident) (f : Profile) (s u : State) (hu : TableUnique s.table) (h : u = identifyDone p x f s) :
    (u.port p).conflict = false ∧ (u.port p).rescan = false ∧
     (∀ k e, s.posOf x = some k → s.entryAt k = some e → ∃ g : StoredProfile,
       g = (match e.profile with
         | some h => if h.overridden then h else s.storedProfile f false
         | none => s.storedProfile f false) ∧
       u.entryAt k = some { e with bound := some p, unbind := none, profile := some g } ∧
       (u.port p).profile = some g.figures ∧
       (e.bound = some p → u = (s.setEntry k (some { e with unbind := none, profile := some g })).modPort p (fun c => { c with
         profile := some g.figures, conflict := false, rescan := false }))) ∧
     (∀ k, s.posOf x = none → s.freePos = some k →
       u.entryAt k = some ⟨x, some p, false, some (s.storedProfile f false), [], none⟩ ∧
       (u.port p).profile = some (f.clampInrush s.inrush)) ∧
     (∀ j e, s.entryAt j = some e → e.bound = some p → e.ident ≠ x → s.posOf x ≠ none ∨ s.freePos ≠ none →
       u.entryAt j = some { e with bound := none, unbind := if e.pinned then none else some s.clock }) ∧
     (∀ j e, s.entryAt j = some e → e.bound ≠ some p → e.ident ≠ x → s.posOf x ≠ none ∨ s.freePos ≠ none →
       u.entryAt j = some e) := by
  subst h
  obtain ⟨conflict, rescan⟩ := flags_identifyDone p x f s
  refine ⟨conflict, rescan, fun k e hk he => ?_, fun k hx hf => ?_, fun j e he hb hx room => ?_, fun j e he hb hx room => ?_⟩
  · obtain ⟨entry, profile, -⟩ := learned_listed (p := p) (f := f) hu hk he
    exact ⟨_, learned_eq _ _, entry, profile, identifyDone_bound hu hk he⟩
  · obtain ⟨entry, profile, -⟩ := learned_new (p := p) (f := f) hu hx (newPos_free ((freePos_unbindOthers hu).trans hf))
    exact ⟨entry, profile⟩
  · rw [learned_others hu he hx room, IdEntry.leaving_other hx, if_pos hb]
  · rw [learned_others hu he hx room, IdEntry.leaving_other hx, if_neg hb]

end Learning

end Sys2Proof.Machine

namespace Sys2Proof.Machine

/-! ## Jobs not yet started -/

section Unstarted

variable {s : State} {p : PortId} {c : Port} {k : JobKind}

theorem Port.JobsOnly.enqueue {P : Job → Prop} (h : c.JobsOnly P) (hk : P (Job.mk' k)) : (c.enqueue k).JobsOnly P := by
  unfold Port.enqueue
  split
  · exact h.push hk
  · intro j hj
    simp only [Port.jobs, List.mem_append, List.mem_singleton] at hj
    rcases hj with hj | hj | rfl
    · exact h j (List.mem_append_left _ hj)
    · exact h j (List.mem_append_right _ hj)
    · exact hk

/-- An IDENTIFY owed is queued or waits, not yet started, when no job of the port has started. -/
theorem oweIdentify_unstarted (h : c.JobsOnly (·.started = false)) :
    ∃ i ∈ c.oweIdentify.serveRoom.queue ++ c.oweIdentify.serveRoom.waitLine, i.isIdentify = true ∧ i.started = false := by
  have owed : c.oweIdentify.JobsOnly (·.started = false) := by
    unfold Port.oweIdentify
    split
    · exact h
    · exact h.enqueue rfl
  obtain ⟨i, hi, kind⟩ := oweIdentify_mem c
  have served : c.oweIdentify.Gains c.oweIdentify.serveRoom := (Port.Gains.refl _).serveUpTo
  exact ⟨i, served.kept i hi, kind, owed i hi⟩

theorem Port.OnlyHeadStarted.oweThermal (h : c.OnlyHeadStarted) : c.oweThermal.OnlyHeadStarted := by
  unfold Port.oweThermal
  repeat' split
  · exact h
  · exact h.push _
  · exact h.same rfl rfl

/-- No job behind one that has failed has been started. -/
theorem unstarted_jobFailed (ho : (s.port p).OnlyHeadStarted) (h : (s.port p).run < 2) (a : Bool) :
    ((s.jobFailed p a).port p).JobsOnly (·.started = false) := by
  let v : State := (s.modPort p ({ · with attention := a })).modPort p Port.failedOnce
  have start : (v.port p).OnlyHeadStarted := by
    unfold v
    rw [port_modPort_self, port_modPort_self]
    exact ho
  have graded : ((setGradeChanged p v).port p).OnlyHeadStarted :=
    start.same (setGradeChanged_record Port.queue (fun _ => rfl) (fun _ => rfl) p v)
      (setGradeChanged_record Port.waitLine (fun _ => rfl) (fun _ => rfl) p v)
  have counted : ((countFailure p (s.modPort p ({ · with attention := a }))).port p).OnlyHeadStarted := by
    rw [countFailure_below (by rwa [port_modPort_self])]
    repeat' split
    · exact start
    · exact graded
    · rw [port_modPort_self]
      exact graded.oweThermal
  rw [State.jobFailed, port_modPort_self, State.failed, setLane, port_modPort_self]
  exact counted

end Unstarted

/-! ## The end of a job that is no event for PAUSING, no POLL and no power mode -/

section Quiet

variable {s : State} {p : PortId} {e : Exchange} {j : Job} {js : List Job}

theorem jobEnd_quiet_handed (hq : (s.port p).queue = j :: js) (hj : j.holdsPause = false) (hm : j.isPowerMode = false)
    (hp : j.isPoll = false) (f : State → State) (a : Bool) :
    jobEnd p j f (s.handed p a) = (f (s.jobDone p a js)).modPort p Port.serveRoom := by
  have hh : ((s.handed p a).port p).queue = j :: js := by rw [queue_handed, hq]
  rw [jobEnd_quiet hh hj hm hp, ← modPort_tail hh, handed_tail hq]

theorem jobEnd_quiet_failed (hq : (s.port p).queue = j :: js) (hr : (s.port p).run < 2) (hj : j.holdsPause = false)
    (hm : j.isPowerMode = false) (hp : j.isPoll = false) (f : State → State) (a : Bool) :
    jobEnd p j f (s.failed p a) = (f (s.jobFailed p a)).modPort p Port.serveRoom := by
  obtain ⟨ks, hk⟩ := failed_queue hr hq a
  rw [jobEnd_quiet hk hj hm hp, ← modPort_tail hk]
  rfl

end Quiet

/-! ## The IDENTIFY job (R58, R130) -/

section Identify

variable {s : State} {p : PortId} {e : Exchange} {j : Job} {js : List Job} {vals : List Byte} {st d : Byte}

/-- The attribute that the next exchange of an IDENTIFY reads. -/
theorem exchange_identify (c : Port) (now : Nat) (hk : j.kind = .identify vals) (hn : vals.length < 12) : j.exchange c now =
    some ⟨.read, [1, 2, 3, 4, 5, 6, 7, 8, 9, 10, 11, 24].getD vals.length 0, 0#8, false, .job, now⟩ := by
  unfold Job.exchange
  rw [hk]
  dsimp only
  rw [List.getElem?_eq_getElem (show vals.length < identifyAttrs.length from hn), Option.map_some, List.getD_eq_getElem _ _ hn]
  rfl

theorem exec_laneResponse_identify (h : JobSucceeds p e j js st d s) (he : e.op = .read) (hk : j.kind = .identify vals) (a : Bool) :
    exec (.laneResponse p st d (responseCheck st d) a) s = .next (finish (
      if (vals ++ [d]).length = 12 then (identifyResult p (vals ++ [d]) (s.jobDone p a js)).modPort p Port.serveRoom
      else if j.cut then (s.jobDone p a js).modPort p Port.serveRoom
      else s.jobDone p a ({ j with kind := .identify (vals ++ [d]) } :: js))) := by
  have ⟨_, _, _, _, hq, _⟩ := h
  have ends (f : State → State) := jobEnd_quiet_handed hq (by simp [Job.holdsPause, Job.isHost, Job.isPrep, hk])
    (by simp [Job.isPowerMode, hk]) (by simp [Job.isPoll, hk]) f a
  rw [exec_laneResponse_job h a, if_neg (by simp [Exchange.throughPart, he])]
  simp only [jobSuccess, hk]
  rw [ends, ends, handed_head hq]
  rfl

/-- An IDENTIFY that fails learns nothing and is owed again (R130). -/
theorem identify_failed (h : JobFails p e j js s) (he : e.op = .read) (hk : j.kind = .identify vals)
    (hl : (s.port p).power.isLost = false) (ho : (s.port p).OnlyHeadStarted) (a : Bool) :
    ∃ u : State, exec (.responseLimitExpiry p a) s = .next (finish u) ∧ u.table = s.table ∧
      (u.port p).profile = (s.port p).profile ∧ (u.port p).run = (s.port p).run + 1 ∧ (u.port p).grade = none ∧
      (u.port p).lane = none ∧ u.still = s.still ∧ (∀ q, q ≠ p → u.port q = s.port q) ∧
      ∃ i ∈ (u.port p).queue ++ (u.port p).waitLine, i.isIdentify = true ∧ i.started = false := by
  have ⟨_, _, _, _, hq, _, hr⟩ := h
  obtain ⟨power, grade, run, lane, -, -, table, still, others⟩ := jobFailed_spec hr a
  have ends : exec (.responseLimitExpiry p a) s = .next (finish (
      ((s.jobFailed p a).modPort p Port.oweIdentify).modPort p Port.serveRoom)) := by
    rw [exec_responseLimitExpiry_job h a, if_neg (by simp [Exchange.throughPart, he])]
    simp only [jobFailure, hk]
    rw [jobEnd_quiet_failed hq hr (by simp [Job.holdsPause, Job.isHost, Job.isPrep, hk]) (by simp [Job.isPowerMode, hk])
      (by simp [Job.isPoll, hk]), if_neg (by rw [power, hl]; exact Bool.false_ne_true)]
  have profile : ((s.jobFailed p a).port p).profile = (s.port p).profile := by
    rw [State.jobFailed, port_modPort_self]
    exact failed_record Port.profile hr a
  have body : (((s.jobFailed p a).port p).oweIdentify.serveRoom).body = ((s.jobFailed p a).port p).body := by
    rw [body_serveRoom, body_oweIdentify]
  refine ⟨_, ends, table, ?_, ?_, ?_, ?_, still, fun q hq => ?_, ?_⟩
  · rw [port_modPort_self, port_modPort_self, field_of_body body Port.profile, profile]
  · rw [port_modPort_self, port_modPort_self, field_of_body body Port.run, run]
  · rw [port_modPort_self, port_modPort_self, field_of_body body Port.grade, grade]
  · rw [port_modPort_self, port_modPort_self, field_of_body body Port.lane, lane]
  · rw [port_modPort_ne (Ne.symm hq), port_modPort_ne (Ne.symm hq), others q hq]
  · rw [port_modPort_self, port_modPort_self]
    exact oweIdentify_unstarted (unstarted_jobFailed ho hr a)

end Identify

/-- Settles O53: what a learning makes of the table, of the camera and of one whose identity moves, and the IDENTIFY job. -/
theorem identityLearned : Obligations.IdentityLearned := by
  unfold Obligations.IdentityLearned
  refine ⟨fun p x f s u hu h => ?learning, fun j vals c now hk hn => exchange_identify c now hk hn,
    fun p s e j js vals st d a h he hk => ?succeeds, fun p s e j js vals a h he hk hl ho => identify_failed h he hk hl ho a⟩
  case learning =>
    obtain ⟨conflict, rescan, listed, new, leaves, stays⟩ := identifyDone_spec p x f s u hu h
    subst h
    exact ⟨conflict, rescan, listed, new, leaves, stays,
      fun hx hf => ⟨fun k e he go best => learned_evicts hu hx hf he go best, learned_nowhere hu hx hf⟩,
      identity_changed, fun k e q hk he hb hq => identity_moved hu hk he hb hq⟩
  case succeeds =>
    have length : (vals ++ [d]).length = vals.length + 1 := by simp
    rw [exec_laneResponse_identify h he hk]
    refine ⟨fun hn => ?_, fun hn hc => ?_, fun hn hc => ?_⟩
    · rw [if_pos (by omega)]
      rfl
    · rw [if_neg (by omega), if_neg (by simp [hc])]
    · rw [if_neg (by omega), if_pos hc]

end Sys2Proof.Machine

namespace Sys2Proof.Machine

/-! # Proofs: the exchanges of a wake, and those that fail (R19, R20, R31, R32) -/

/-! ## Carrying a result back over what an exchange changes first -/

section Carry

variable {s u v : State} {p : PortId} {cause : FaultCause} {g : Forecast}

theorem FaultEntered.of_before (h : FaultEntered p cause v u) (ht : v.table = s.table) (ho : ∀ q, q ≠ p → v.port q = s.port q)
    (hs : v.still = s.still) (hc : v.cues = s.cues) : FaultEntered p cause s u := by
  obtain ⟨power, reading, from_, resv, commitment, offload, line, thermal, ping, queue, adv, marked, table, others, still, lost⟩ := h
  exact ⟨power, reading, from_, resv, commitment, offload, line, thermal, ping, queue, adv, marked, table.trans ht,
    fun q hq => (others q hq).trans (ho q hq), still.trans hs, lost.of_cues hc⟩

/-- The lane of a camera in FAULT is cleared. -/
theorem FaultEntered.setLane (h : FaultEntered p cause s u) (o : Option Exchange) : FaultEntered p cause s (setLane p o u) := by
  have port : (Machine.setLane p o u).port p = { u.port p with lane := o } := port_modPort_self ..
  have on : OnPort p u (Machine.setLane p o u) := (OnPort.refl p u).modPort _
  obtain ⟨power, reading, from_, resv, commitment, offload, line, thermal, ping, queue, adv, marked, table, others, still, lost⟩ := h
  unfold FaultEntered
  rw [port]
  exact ⟨power, reading, from_, resv, commitment, offload, line, thermal, ping, queue, adv, on.marks p marked, table,
    fun q hq => (on.others q hq).trans (others q hq), still, lost⟩

/-- When the rest timer starts after a wake depends on the clock, the cues and the camera's station. -/
theorem restAfterWake_congr (hs : v.still = s.still) (hc : v.cues = s.cues) (hp : (v.port p).station = (s.port p).station) (g : Forecast) :
    v.restAfterWake p g = s.restAfterWake p g := by
  have clock : v.clock = s.clock := congrArg (fun x => x.1) hs
  have stations : v.stations = s.stations := congrArg (fun x => x.2.1) hs
  have stationOf : v.stationOf p = s.stationOf p := by
    unfold State.stationOf State.station
    rw [hp, stations]
  have cue (i : Nat) : v.cue? i = s.cue? i := by
    unfold State.cue?
    rw [hc]
  have cue' : v.cue? = s.cue? := funext cue
  unfold State.restAfterWake State.restFrom
  rw [cue', stationOf, clock]

theorem run_wakeDone (p : PortId) (s : State) : ((wakeDone p s).port p).run = (s.port p).run := field_of_core (core_wakeDone p s) Port.run

theorem run_enterFault (p : PortId) (cause : FaultCause) (s : State) :
    ((enterFault p cause s).port p).run = (s.port p).run ∧ ((enterFault p cause s).port p).grade = (s.port p).grade ∧
      ((enterFault p cause s).port p).lane = (s.port p).lane := by
  obtain ⟨face, -⟩ := port_enterFault p cause s
  exact ⟨field_of_face face Port.run, field_of_face face Port.grade, field_of_face face Port.lane⟩

end Carry

/-! ## An exchange of a wake that succeeds -/

section Succeeds

variable {s v : State} {p : PortId} {w : Wake} {e : Exchange} {x : WakeEx} {st d : Byte} {a : Bool} {ph : Phase} {owed : Option WakeEx}

/-- The machine when an exchange has succeeded, before its source takes it: the lane idle, the run cleared, and what
was written to a capture setting taken through the part. -/
def State.answered (s : State) (p : PortId) (e : Exchange) (a : Bool) : State :=
  if e.throughPart then writeThrough p ⟨e.attr, e.data⟩ true (s.handed p a) else s.handed p a

theorem exec_laneResponse_wake (hl : (s.port p).lane = some e) (hx : e.src = .wake x) (ha : s.attemptAge e ≤ 3)
    (hv : attemptSucceeds e st d (responseCheck st d) = true) (a : Bool) :
    exec (.laneResponse p st d (responseCheck st d) a) s = .next (finish (wakeSuccess p x d (s.answered p e a))) := by
  have hh : (setLane p none (s.modPort p fun x => { x with attention := a })).modPort p Port.runCleared = s.handed p a := by
    simp [setLane, modPort_modPort, State.handed]
  show execLaneResponse p st d (responseCheck st d) a s = _
  unfold execLaneResponse
  simp only [hl, ha, ↓reduceIte, judgeResponse, hv, exchangeSuccess, hx, hh]
  rfl

theorem port_answered (hw : (s.port p).power = .waking w) (e : Exchange) (a : Bool) :
    (s.answered p e a).port p = { s.port p with attention := a, lane := none, run := 0 } := by
  have handed : (s.handed p a).port p = { s.port p with attention := a, lane := none, run := 0 } := by
    rw [State.handed, port_modPort_self]
    simp [Port.runCleared, Power.isFault, hw]
  unfold State.answered
  split
  · unfold State.port
    rw [(writeThrough_spec p _ true _).2.1]
    exact handed
  · exact handed

theorem answered_spec (s : State) (p : PortId) (e : Exchange) (a : Bool) : (s.answered p e a).still = s.still ∧
    (s.answered p e a).cues = s.cues ∧ (∀ q, q ≠ p → (s.answered p e a).port q = s.port q) ∧
    (e.throughPart = true → (s.answered p e a).adv = s.adv.filter (fun x => !(x.port == p && x.attr == e.attr))) ∧
    (e.throughPart = false → s.answered p e a = s.handed p a) := by
  obtain ⟨adv, ports, still, cues⟩ := writeThrough_spec p ⟨e.attr, e.data⟩ true (s.handed p a)
  unfold State.answered
  split
  next h =>
    refine ⟨still, cues, fun q hq => ?_, fun _ => adv, fun h' => absurd h (by simp [h'])⟩
    unfold State.port
    rw [ports]
    exact port_modPort_ne (Ne.symm hq) _ _
  next h =>
    exact ⟨rfl, rfl, fun q hq => port_modPort_ne (Ne.symm hq) _ _, fun h' => absurd h' h, fun _ => rfl⟩

theorem handed_waking (hw : (s.port p).power = .waking w) (a : Bool) :
    s.handed p a = s.modPort p (fun c => { c with attention := a, lane := none, run := 0 }) :=
  modPort_congr (by simp [Port.runCleared, Power.isFault, hw])

theorem readyBit_iff : readyBit d = true ↔ d.toNat % 2 = 1 := by
  unfold readyBit
  rw [Nat.testBit_zero]
  exact decide_eq_true_iff

theorem readyBit_false (h : d.toNat % 2 = 0) : readyBit d = false := by
  rw [Bool.eq_false_iff, Ne, readyBit_iff]
  omega

/-- The phase and the exchange owed that follow an exchange of a wake (R19, R20). -/
theorem wakeSuccess_phase (hw : (v.port p).power = .waking w)
    (h : (∃ k written, x = .resetWrite ∧ w.phase = .resetHold k true written ∧ owed = none ∧
          ph = .initWait (addSlot k 5) (addSlot k ((v.port p).profile.elim 10 (·.initMax)))) ∨
        (∃ k written, x = .resetWrite ∧ w.phase = .resetHold k false written ∧ owed = w.owed ∧ ph = .resetHold k false true) ∨
        (∃ r m, x = .initRead ∧ w.phase = .initWait r m ∧ d.toNat % 2 = 1 ∧ owed = some .calWrite ∧ ph = .calibrate none) ∨
        (∃ r m, x = .initRead ∧ w.phase = .initWait r m ∧ d.toNat % 2 = 0 ∧ owed = w.owed ∧ ph = w.phase) ∨
        (∃ k, x = .calWrite ∧ w.phase = .calibrate k ∧ owed = none ∧ ph = .calibrate (some (addSlot v.nowSlot 3))) ∨
        (∃ t n, x = .resumeRead ∧ w.phase = .resume t n ∧ d.toNat % 2 = 0 ∧ n < 3 ∧ owed = none ∧
          ph = .resume (some (addSlot v.nowSlot 1 * 10)) (n + 1))) :
    wakeSuccess p x d v = v.modPort p ({ · with power := .waking { w with phase := ph, owed := owed } }) := by
  unfold wakeSuccess
  rw [hw]
  dsimp only
  rcases h with ⟨k, b, rfl, hp, rfl, rfl⟩ | ⟨k, b, rfl, hp, rfl, rfl⟩ | ⟨r, m, rfl, hp, hd, rfl, rfl⟩ | ⟨r, m, rfl, hp, hd, rfl, rfl⟩ |
    ⟨k, rfl, hp, rfl, rfl⟩ | ⟨t, n, rfl, hp, hd, hn, rfl, rfl⟩ <;> rw [hp] <;> dsimp only
  · have max : (v.port p).initMax = (v.port p).profile.elim 10 (·.initMax) := by
      unfold Port.initMax
      cases (v.port p).profile <;> rfl
    rw [beginInitWait, setPhase_waking hw, max]
  · rw [setPhase_waking hw]
  · rw [if_pos (readyBit_iff.2 hd), beginCalibrate, setPhase_waking hw]
  · rw [if_neg (by simp [readyBit_false hd])]
    refine (modPort_same ?_).symm
    rw [← hp]
    show { v.port p with power := .waking w } = v.port p
    rw [← hw]
  · rw [setPhase_waking hw]
    rfl
  · rw [if_neg (by simp [readyBit_false hd]), resumeNotReady, if_pos hn, setPhase_waking hw]
    rfl

/-- A write of a RESTORE with another to follow (R19). -/
theorem wakeSuccess_restore {pr pr' : Pair} {rest : List Pair} (hw : (v.port p).power = .waking w) (hx : x = .restoreWrite pr)
    (hp : w.phase = .restore (pr :: pr' :: rest)) : wakeSuccess p x d v = v.modPort p ({ · with
      power := .waking { w with phase := .restore (pr' :: rest), owed := some (.restoreWrite pr') } }) := by
  unfold wakeSuccess
  rw [hw, hx]
  dsimp only
  rw [hp]
  exact setPhase_waking hw _ _

/-- The last write of a RESTORE, or a camera found ready: the wake is done (R19, R20). -/
theorem wakeSuccess_done (hw : (v.port p).power = .waking w)
    (h : (∃ pr, x = .restoreWrite pr ∧ w.phase = .restore [pr]) ∨ (∃ t n, x = .resumeRead ∧ w.phase = .resume t n ∧ d.toNat % 2 = 1)) :
    wakeSuccess p x d v = wakeDone p v := by
  unfold wakeSuccess
  rw [hw]
  dsimp only
  rcases h with ⟨pr, rfl, hp⟩ | ⟨t, n, rfl, hp, hd⟩ <;> rw [hp] <;> dsimp only
  exact if_pos (readyBit_iff.2 hd)

/-- A camera not found ready by the last read of a resume (R20). -/
theorem wakeSuccess_unready {t : Option Nat} (hw : (v.port p).power = .waking w) (hx : x = .resumeRead) (hp : w.phase = .resume t 3)
    (hd : d.toNat % 2 = 0) : wakeSuccess p x d v = enterFault p .wakeFailed v := by
  unfold wakeSuccess
  rw [hw, hx]
  dsimp only
  rw [hp]
  dsimp only
  rw [if_neg (by simp [readyBit_false hd])]
  rfl

end Succeeds

end Sys2Proof.Machine

namespace Sys2Proof.Machine

/-! ## The ends of a wake's exchanges that succeed, as O23 says them -/

section Wakes

variable {s : State} {p : PortId} {w : Wake} {e : Exchange} {x : WakeEx} {st d : Byte}

/-- A wake's exchange in flight whose response succeeds. -/
structure WakeSucceeds (p : PortId) (w : Wake) (e : Exchange) (x : WakeEx) (st d : Byte) (s : State) : Prop where
  power : (s.port p).power = .waking w
  lane : (s.port p).lane = some e
  src : e.src = .wake x
  age : s.attemptAge e < 2
  good : attemptSucceeds e st d (responseCheck st d) = true

namespace WakeSucceeds

variable (h : WakeSucceeds p w e x st d s)
include h

theorem exec_eq (a : Bool) : exec (.laneResponse p st d (responseCheck st d) a) s =
    .next (finish (wakeSuccess p x d (s.answered p e a))) := by
  have age := h.age
  exact exec_laneResponse_wake h.lane h.src (by omega) h.good a

theorem answered_power (a : Bool) : ((s.answered p e a).port p).power = .waking w := by
  rw [port_answered h.power, h.power]

theorem phase {ph : Phase} {owed : Option WakeEx} (ht : e.throughPart = false) (a : Bool)
    (hp : (∃ k written, x = .resetWrite ∧ w.phase = .resetHold k true written ∧ owed = none ∧
          ph = .initWait (addSlot k 5) (addSlot k ((s.port p).profile.elim 10 (·.initMax)))) ∨
        (∃ k written, x = .resetWrite ∧ w.phase = .resetHold k false written ∧ owed = w.owed ∧ ph = .resetHold k false true) ∨
        (∃ r m, x = .initRead ∧ w.phase = .initWait r m ∧ d.toNat % 2 = 1 ∧ owed = some .calWrite ∧ ph = .calibrate none) ∨
        (∃ r m, x = .initRead ∧ w.phase = .initWait r m ∧ d.toNat % 2 = 0 ∧ owed = w.owed ∧ ph = w.phase) ∨
        (∃ k, x = .calWrite ∧ w.phase = .calibrate k ∧ owed = none ∧ ph = .calibrate (some (addSlot s.nowSlot 3))) ∨
        (∃ t n, x = .resumeRead ∧ w.phase = .resume t n ∧ d.toNat % 2 = 0 ∧ n < 3 ∧ owed = none ∧
          ph = .resume (some (addSlot s.nowSlot 1 * 10)) (n + 1))) :
    exec (.laneResponse p st d (responseCheck st d) a) s = .next (finish (s.modPort p (fun c => { c with
      attention := a, lane := none, run := 0, power := .waking { w with phase := ph, owed := owed } }))) := by
  have handed : s.answered p e a = s.modPort p (fun c => { c with attention := a, lane := none, run := 0 }) :=
    ((answered_spec s p e a).2.2.2.2 ht).trans (handed_waking h.power a)
  have power := h.answered_power a
  have profile : ((s.answered p e a).port p).profile = (s.port p).profile := by rw [port_answered h.power]
  rw [← profile, show s.nowSlot = (s.answered p e a).nowSlot by rw [handed]; rfl] at hp
  rw [h.exec_eq, wakeSuccess_phase power hp, handed, modPort_modPort]

theorem restore {pr pr' : Pair} {rest : List Pair} (ht : e.throughPart = true) (hx : x = .restoreWrite pr)
    (hp : w.phase = .restore (pr :: pr' :: rest)) (a : Bool) :
    ∃ u : State, exec (.laneResponse p st d (responseCheck st d) a) s = .next (finish u) ∧
      u.port p = { s.port p with
        attention := a, lane := none, run := 0
        power := .waking { w with phase := .restore (pr' :: rest), owed := some (.restoreWrite pr') } } ∧
      u.adv = s.adv.filter (fun x => !(x.port == p && x.attr == e.attr)) ∧ u.still = s.still ∧
      (∀ q, q ≠ p → u.port q = s.port q) := by
  obtain ⟨still, -, others, adv, -⟩ := answered_spec s p e a
  refine ⟨_, h.exec_eq a, ?_⟩
  rw [wakeSuccess_restore (h.answered_power a) hx hp, port_modPort_self, port_answered h.power]
  exact ⟨rfl, adv ht, still, fun q hq => (port_modPort_ne (Ne.symm hq) _ _).trans (others q hq)⟩

theorem ready (hd : (∃ pr, x = .restoreWrite pr ∧ w.phase = .restore [pr]) ∨
      (∃ t n, x = .resumeRead ∧ w.phase = .resume t n ∧ d.toNat % 2 = 1)) (hp : w.pending = none) (a : Bool) :
    ∃ u : State, exec (.laneResponse p st d (responseCheck st d) a) s = .next (finish u) ∧
      (u.port p).power.isReady = true ∧ (u.port p).power = .ready (s.restAfterWake p w.forecast) none ∧
      (u.port p).run = 0 ∧ u.marked p ∧ u.still = s.still ∧ (∀ q, q ≠ p → u.port q = s.port q) := by
  obtain ⟨still, cues, others, -⟩ := answered_spec s p e a
  have waking := h.answered_power a
  have station : ((s.answered p e a).port p).station = (s.port p).station := by rw [port_answered h.power]
  have power : ((wakeDone p (s.answered p e a)).port p).power = .ready (s.restAfterWake p w.forecast) none := by
    rw [wakeDone_free waking hp, restAfterWake_congr still cues station]
  refine ⟨_, (h.exec_eq a).trans (by rw [wakeSuccess_done waking hd]), by rw [power]; rfl, power, ?_, marked_wakeDone waking,
    (outer_parts (outer_wakeDone p _)).1.trans still, fun q hq => ((OnPort.refl p _).wakeDone.others q hq).trans (others q hq)⟩
  rw [run_wakeDone, port_answered h.power]

theorem paused {ps : Pause} (hd : (∃ pr, x = .restoreWrite pr ∧ w.phase = .restore [pr]) ∨
      (∃ t n, x = .resumeRead ∧ w.phase = .resume t n ∧ d.toNat % 2 = 1)) (hp : w.pending = some ps) (a : Bool) :
    ∃ u : State, exec (.laneResponse p st d (responseCheck st d) a) s = .next (finish u) ∧
      PauseTaken p ps s u ∧ (u.port p).run = 0 ∧ u.marked p ∧ u.still = s.still ∧ (∀ q, q ≠ p → u.port q = s.port q) := by
  obtain ⟨still, cues, others, -⟩ := answered_spec s p e a
  have waking := h.answered_power a
  have port := port_answered h.power e a
  have clock : (s.answered p e a).clock = s.clock := congrArg (fun x => x.1) still
  have stations : (s.answered p e a).stations = s.stations := congrArg (fun x => x.2.1) still
  have stationOf : (s.answered p e a).stationOf p = s.stationOf p := by
    unfold State.stationOf State.station
    rw [port, stations]
  have taken : PauseTaken p ps s (wakeDone p (s.answered p e a)) :=
    (wakeDone_pending waking hp).congr clock.symm stationOf.symm (by rw [port]) (by rw [port]; rfl) (by rw [port]) rfl rfl
  refine ⟨_, (h.exec_eq a).trans (by rw [wakeSuccess_done waking hd]), taken, ?_, marked_wakeDone waking,
    (outer_parts (outer_wakeDone p _)).1.trans still, fun q hq => ((OnPort.refl p _).wakeDone.others q hq).trans (others q hq)⟩
  rw [run_wakeDone, port]

theorem unready {t : Option Nat} (ht : e.throughPart = false) (hx : x = .resumeRead) (hp : w.phase = .resume t 3)
    (hd : d.toNat % 2 = 0) (a : Bool) :
    ∃ u : State, exec (.laneResponse p st d (responseCheck st d) a) s = .next (finish u) ∧
      FaultEntered p .wakeFailed s u ∧ (u.port p).run = 0 := by
  obtain ⟨still, cues, others, -, handed⟩ := answered_spec s p e a
  have waking := h.answered_power a
  have table : (s.answered p e a).table = s.table := by rw [handed ht]; rfl
  have entered : FaultEntered p .wakeFailed (s.answered p e a) (enterFault p .wakeFailed (s.answered p e a)) :=
    faultEntered (by rw [waking]; rfl) .wakeFailed
  refine ⟨_, (h.exec_eq a).trans (by rw [wakeSuccess_unready waking hx hp hd]), entered.of_before table others still cues, ?_⟩
  rw [(run_enterFault p .wakeFailed _).1, port_answered h.power]

end WakeSucceeds

end Wakes

/-! ## An exchange of a wake that fails -/

section Fails

variable {s u v : State} {p : PortId} {w : Wake} {e : Exchange} {x : WakeEx} {cause : FaultCause}

/-- The machine when a failure has been counted, before what the count leads to. -/
def State.counted (s : State) (p : PortId) : State :=
  if (s.port p).grade.isNone then s.modPort p Port.failedOnce else setGradeChanged p (s.modPort p Port.failedOnce)

theorem counted_record {α : Type} (f : Port → α) (p : PortId) (s : State) (hu : ∀ c : Port, f c.unmarked = f c := by exact fun _ => rfl)
    (hg : ∀ c : Port, f { c with gradeChanged := true } = f c := by exact fun _ => rfl) :
    f ((s.counted p).port p) = f (s.port p).failedOnce := by
  unfold State.counted
  split
  · rw [port_modPort_self]
  · rw [setGradeChanged_record f hu hg, port_modPort_self]

theorem counted_spec (p : PortId) (s : State) : (s.counted p).table = s.table ∧ (s.counted p).still = s.still ∧
    (s.counted p).cues = s.cues ∧ ∀ q, q ≠ p → (s.counted p).port q = s.port q := by
  unfold State.counted
  split
  · exact ⟨rfl, rfl, rfl, ((OnPort.refl p s).modPort _).others⟩
  · obtain ⟨still, table, -⟩ := outer_parts (outer_setGradeChanged p (s.modPort p Port.failedOnce))
    exact ⟨table, still, (table_setGradeChanged p _).2, ((OnPort.refl p s).modPort _).setGradeChanged.others⟩

/-- The failure of an exchange that brings the run to 3, or finds it there: the camera enters FAULT (R31). -/
theorem countFailure_last (h : 2 ≤ (s.port p).run) (hl : (s.port p).power.isLost = false) :
    countFailure p s = enterFault p .laneLost (s.counted p) := by
  have run : ((s.counted p).port p).run = 3 := (counted_record Port.run p s).trans (Nat.min_eq_left (by omega))
  have power : ((s.counted p).port p).power = (s.port p).power := counted_record Port.power p s
  have lost : ((enterFault p .laneLost (s.counted p)).port p).power.isLost = true := by
    rw [field_of_face (port_enterFault p .laneLost _).1 Port.power]
    rfl
  show (let u := if ((s.counted p).port p).run = 3 && !((s.counted p).port p).power.isLost then enterFault p .laneLost (s.counted p)
          else s.counted p
        if (s.port p).grade.isNone || (u.port p).power.isLost then u else u.modPort p Port.oweThermal) = _
  simp [run, power, hl, lost]

/-- The third failure of a run, for an exchange of any source (R31). -/
theorem countFailure_faults (h : 2 ≤ (s.port p).run) (hl : (s.port p).power.isLost = false) :
    FaultEntered p .laneLost s (countFailure p s) ∧ ((countFailure p s).port p).run = 3 ∧
      ((countFailure p s).port p).grade = none := by
  obtain ⟨table, still, cues, others⟩ := counted_spec p s
  have power : ((s.counted p).port p).power = (s.port p).power := counted_record Port.power p s
  have alive : ((s.counted p).port p).power.isFault = false := by
    rw [power]
    cases hp : (s.port p).power <;> simp_all [Power.isFault, Power.isLost]
  have third : ((s.counted p).port p).run = 3 := (counted_record Port.run p s).trans (Nat.min_eq_left (by omega))
  obtain ⟨run, grade, -⟩ := run_enterFault p .laneLost (s.counted p)
  rw [countFailure_last h hl]
  exact ⟨(faultEntered alive .laneLost).of_before table others still cues, run.trans third,
    grade.trans (counted_record Port.grade p s)⟩

theorem failed_last (h : 2 ≤ (s.port p).run) (hl : (s.port p).power.isLost = false) (a : Bool) :
    FaultEntered p .laneLost s (s.failed p a) ∧ ((s.failed p a).port p).run = 3 ∧ ((s.failed p a).port p).grade = none ∧
      ((s.failed p a).port p).lane = none := by
  have sampled : (s.modPort p ({ · with attention := a })).port p = { s.port p with attention := a } := port_modPort_self ..
  obtain ⟨entered, run, grade⟩ := countFailure_faults (p := p) (s := s.modPort p ({ · with attention := a }))
    (by rw [sampled]; exact h) (by rw [sampled]; exact hl)
  have faulted := entered.of_before (s := s) rfl (fun q hq => port_modPort_ne (Ne.symm hq) _ _) rfl rfl
  refine ⟨faulted.setLane none, ?_⟩
  rw [State.failed, setLane, port_modPort_self]
  exact ⟨run, grade, rfl⟩

/-- What an exchange that failed leaves, a capture attribute's entry removed where the exchange wrote it through the part. -/
def State.failedThrough (s : State) (p : PortId) (e : Exchange) (a : Bool) : State :=
  if e.throughPart then writeThrough p ⟨e.attr, e.data⟩ false (s.failed p a) else s.failed p a

theorem port_failedThrough (s : State) (p q : PortId) (e : Exchange) (a : Bool) :
    (s.failedThrough p e a).port q = (s.failed p a).port q := by
  unfold State.failedThrough
  split
  · unfold State.port
    rw [(writeThrough_spec p _ false _).2.1]
  · rfl

theorem failedThrough_spec (s : State) (p : PortId) (e : Exchange) (a : Bool) :
    (s.failedThrough p e a).table = (s.failed p a).table ∧ (s.failedThrough p e a).still = (s.failed p a).still ∧
      (s.failedThrough p e a).cues = (s.failed p a).cues ∧ (s.failedThrough p e a).reports = (s.failed p a).reports ∧
      (∀ y ∈ (s.failedThrough p e a).adv, y ∈ (s.failed p a).adv) := by
  unfold State.failedThrough
  split
  · obtain ⟨adv, -, still, cues⟩ := writeThrough_spec p ⟨e.attr, e.data⟩ false (s.failed p a)
    refine ⟨table_writeThrough (.inl rfl), still, cues, rfl, fun y hy => ?_⟩
    rw [adv] at hy
    exact List.mem_of_mem_filter hy
  · exact ⟨rfl, rfl, rfl, rfl, fun _ => id⟩

theorem FaultEntered.failedThrough {a : Bool} (h : FaultEntered p cause s (s.failed p a)) (e : Exchange) :
    FaultEntered p cause s (s.failedThrough p e a) := by
  obtain ⟨table', still', cues', reports', adv'⟩ := failedThrough_spec s p e a
  obtain ⟨power, reading, from_, resv, commitment, offload, line, thermal, ping, queue, adv, marked, table, others, still, lost⟩ := h
  have port (q : PortId) := port_failedThrough s p q e a
  have lost' : LossRecorded p .fault .fault s (s.failedThrough p e a) := by
    unfold LossRecorded CueReported at lost ⊢
    rw [cues', reports']
    exact lost
  unfold FaultEntered State.marked
  rw [port, table', still', reports']
  exact ⟨power, reading, from_, resv, commitment, offload, line, thermal, ping, queue, fun y hy => adv y (adv' y hy), marked, table,
    fun q hq => (port q).trans (others q hq), still, lost'⟩

/-- A wake's exchange in flight whose retry fails. -/
structure WakeFails (p : PortId) (w : Wake) (e : Exchange) (x : WakeEx) (s : State) : Prop where
  power : (s.port p).power = .waking w
  lane : (s.port p).lane = some e
  src : e.src = .wake x
  retry : e.retry = true
  age : 2 ≤ s.attemptAge e

namespace WakeFails

variable (h : WakeFails p w e x s)
include h

theorem exec_eq (a : Bool) : exec (.responseLimitExpiry p a) s = .next (finish (wakeFailure p x (s.failedThrough p e a))) := by
  have hlim : s.limitMayBeReached p = true := by simp [State.limitMayBeReached, h.lane, h.age]
  show execResponseLimitExpiry p a s = _
  simp only [execResponseLimitExpiry, h.lane, hlim, if_true, attemptFailed, h.retry, exchangeFailure, h.src]
  rfl

/-- The third failure of a run. -/
theorem lost (hr : (s.port p).run = 2) (a : Bool) : ∃ u : State, exec (.responseLimitExpiry p a) s = .next (finish u) ∧
    FaultEntered p .laneLost s u ∧ (u.port p).run = 3 ∧ (u.port p).grade = none := by
  obtain ⟨entered, run, grade, -⟩ := failed_last hr.ge (by rw [h.power]; rfl) a
  have through := entered.failedThrough e
  have port := port_failedThrough s p p e a
  have stays : wakeFailure p x (s.failedThrough p e a) = s.failedThrough p e a := by
    unfold wakeFailure
    rw [through.1]
  exact ⟨_, (h.exec_eq a).trans (by rw [stays]), through, by rw [port]; exact run, by rw [port]; exact grade⟩

/-- What an earlier failure of a run leaves. -/
theorem counted (hr : (s.port p).run < 2) (a : Bool) :
    ((s.failedThrough p e a).port p).power = .waking w ∧ ((s.failedThrough p e a).port p).run = (s.port p).run + 1 ∧
      ((s.failedThrough p e a).port p).grade = none ∧ ((s.failedThrough p e a).port p).reading = none ∧
      ((s.failedThrough p e a).port p).lane = none ∧
      (s.failedThrough p e a).table = s.table ∧ (s.failedThrough p e a).still = s.still ∧ (s.failedThrough p e a).cues = s.cues ∧
      ∀ q, q ≠ p → (s.failedThrough p e a).port q = s.port q := by
  have keeps := keeps_failed s p a
  have port (q : PortId) := port_failedThrough s p q e a
  obtain ⟨table, still, cues, -⟩ := failedThrough_spec s p e a
  have power : ((s.failed p a).port p).power = (s.port p).power := failed_record Port.power hr a
  have run : ((s.failed p a).port p).run = min 3 ((s.port p).run + 1) := failed_record Port.run hr a
  have reading : ((s.failed p a).port p).reading = if (s.port p).power.railOn then none else (s.port p).reading :=
    failed_record Port.reading hr a
  rw [Nat.min_eq_right (by omega)] at run
  rw [h.power] at reading
  rw [port]
  refine ⟨power.trans h.power, run, failed_record Port.grade hr a, reading, ?_, table.trans (keeps.same rfl), still.trans keeps.still,
    cues.trans (table_failed hr a).2, fun q hq => (port q).trans ((onPort_failed s p a).others q hq)⟩
  rw [State.failed, setLane, port_modPort_self]

/-- A phase that cannot go on without its exchange (R19, R20). -/
theorem faulted (hr : (s.port p).run < 2) (hd : (∃ k rel written, x = .resetWrite ∧ w.phase = .resetHold k rel written) ∨
      (∃ k, x = .calWrite ∧ w.phase = .calibrate k) ∨ (∃ pr l, x = .restoreWrite pr ∧ w.phase = .restore l) ∨
      (∃ t, x = .resumeRead ∧ w.phase = .resume t 3)) (a : Bool) :
    ∃ u : State, exec (.responseLimitExpiry p a) s = .next (finish u) ∧ FaultEntered p .wakeFailed s u ∧
      (u.port p).run = (s.port p).run + 1 ∧ (u.port p).grade = none := by
  obtain ⟨power, run, grade, -, -, table, still, cues, others⟩ := h.counted hr a
  have fails : wakeFailure p x (s.failedThrough p e a) = enterFault p .wakeFailed (s.failedThrough p e a) := by
    unfold wakeFailure
    rw [power]
    dsimp only
    rcases hd with ⟨k, rel, b, rfl, hp⟩ | ⟨k, rfl, hp⟩ | ⟨pr, l, rfl, hp⟩ | ⟨t, rfl, hp⟩ <;> rw [hp]
    rfl
  have entered : FaultEntered p .wakeFailed (s.failedThrough p e a) (enterFault p .wakeFailed (s.failedThrough p e a)) :=
    faultEntered (by rw [power]; rfl) .wakeFailed
  obtain ⟨run', grade', -⟩ := run_enterFault p .wakeFailed (s.failedThrough p e a)
  exact ⟨_, (h.exec_eq a).trans (by rw [fails]), entered.of_before table others still cues, run'.trans run, grade'.trans grade⟩

/-- A phase that goes on without its exchange (R19, R20). -/
theorem goesOn {ph : Phase} {owed : Option WakeEx} (hr : (s.port p).run < 2)
    (hd : (∃ r m, x = .initRead ∧ w.phase = .initWait r m ∧ ph = w.phase ∧ owed = w.owed) ∨
      (∃ t n, x = .resumeRead ∧ w.phase = .resume t n ∧ n < 3 ∧ owed = none ∧
        ph = .resume (some (addSlot s.nowSlot 1 * 10)) (n + 1))) (a : Bool) :
    ∃ u : State, exec (.responseLimitExpiry p a) s = .next (finish u) ∧
      (u.port p).power = .waking { w with phase := ph, owed := owed } ∧ (u.port p).lane = none ∧
      (u.port p).run = (s.port p).run + 1 ∧ (u.port p).grade = none ∧ (u.port p).reading = none ∧
      u.still = s.still ∧ (∀ q, q ≠ p → u.port q = s.port q) := by
  obtain ⟨power, run, grade, reading, lane, -, still, -, others⟩ := h.counted hr a
  have clock : (s.failedThrough p e a).clock = s.clock := congrArg (fun x => x.1) still
  have next : wakeFailure p x (s.failedThrough p e a) =
      (s.failedThrough p e a).modPort p ({ · with power := .waking { w with phase := ph, owed := owed } }) := by
    unfold wakeFailure
    rw [power]
    dsimp only
    rcases hd with ⟨r, m, rfl, hp, rfl, rfl⟩ | ⟨t, n, rfl, hp, hn, rfl, rfl⟩
    · rw [hp]
      refine (modPort_same ?_).symm
      rw [← hp]
      show { (s.failedThrough p e a).port p with power := .waking w } = (s.failedThrough p e a).port p
      rw [← power]
    · rw [hp]
      dsimp only
      rw [resumeNotReady, if_pos hn, setPhase_waking power, State.slotAt, State.nowSlot, clock]
      rfl
  refine ⟨_, h.exec_eq a, ?_⟩
  rw [next, port_modPort_self]
  exact ⟨rfl, lane, run, grade, reading, still, fun q hq => (port_modPort_ne (Ne.symm hq) _ _).trans (others q hq)⟩

end WakeFails

end Fails

end Sys2Proof.Machine

namespace Sys2Proof.Machine

/-! ## The job in flight through an entry to FAULT (R8, R31) -/

section Head

variable {s : State} {p : PortId} {c d : Port} {k : JobKind}

/-- A job of a kind is in flight: it is the head of the queue and has been started. -/
def Port.Flies (k : JobKind) (c : Port) : Prop := ∃ j js, c.queue = j :: js ∧ j.started = true ∧ j.kind = k

namespace Port.Flies

theorem of_prefix (h : c.Flies k) (hq : c.queue <+: d.queue) : d.Flies k := by
  obtain ⟨j, js, hj, hs, hk⟩ := h
  obtain ⟨ts, ht⟩ := hq
  exact ⟨j, js ++ ts, by rw [← ht, hj]; rfl, hs, hk⟩

theorem of_queue (h : c.Flies k) (hq : d.queue = c.queue) : d.Flies k := h.of_prefix (hq ▸ List.prefix_rfl)

theorem serveUpTo (h : c.Flies k) (n : Nat) : (c.serveUpTo n).Flies k := h.of_prefix (Port.Gains.refl c).serveUpTo.queue

theorem removeJobs (h : c.Flies k) (f : Job → Bool) : (c.removeJobs f).Flies k := by
  obtain ⟨j, js, hj, hs, hk⟩ := h
  have kept : (c.without f).Flies k := by
    refine ⟨j, js.filter (fun i => !f i || i.started), ?_, hs, hk⟩
    unfold Port.without
    dsimp only
    rw [hj, List.filter_cons_of_pos (by simp [hs])]
  exact kept.serveUpTo _

theorem cutFlight (h : c.Flies k) (hl : c.laneHasJob = true) (f : Job → Bool) (b : Bool) : (c.cutFlight f b).Flies k := by
  rcases cutFlight_cases f b c with ⟨he, -⟩ | ⟨i, is, hi, hs, -, ⟨-, he⟩ | ⟨hn, -⟩⟩
  · rwa [he]
  · obtain ⟨j, js, hj, -, hk⟩ := h
    obtain ⟨rfl, rfl⟩ := List.cons.inj (hi.symm.trans hj)
    rw [he]
    exact ⟨_, _, rfl, hs, hk⟩
  · rw [hl] at hn
    cases hn

theorem failing (h : c.Flies k) (hl : c.laneHasJob = true) : c.failing.Flies k := by
  obtain ⟨j, js, hj, hs, hk⟩ := h
  have kept : ({ c with queue := c.queue.filter (fun j => j.started || j.isPoll), waitLine := [], markThermal := false
                        markPing := false } : Port).Flies k := by
    refine ⟨j, js.filter (fun j => j.started || j.isPoll), ?_, hs, hk⟩
    dsimp only
    rw [hj, List.filter_cons_of_pos (by simp [hs])]
  have cut := kept.cutFlight hl (fun j => !j.isPoll) false
  exact cut.of_queue rfl

theorem enter (h : c.Flies k) (now : Nat) (new : Power) : (Port.enter now new c).Flies k := by
  have rail : ((({ c with power := new } : Port).railChange now c.power).dropResumeWait).Flies k := by
    refine h.of_queue ?_
    unfold Port.dropResumeWait Port.railChange
    repeat' split
    all_goals rfl
  unfold Port.enter
  dsimp only
  generalize (({ c with power := new } : Port).railChange now c.power).dropResumeWait = d at rail ⊢
  split
  · exact removeJobs (c := { d with markPing := false }) (rail.of_queue rfl) _
  · exact rail

theorem enterFault (h : (s.port p).Flies k) (hl : (s.port p).laneHasJob = true) (cause : FaultCause) :
    ((enterFault p cause s).port p).Flies k := by
  have before : ((beforeFault p s).port p).Flies k := by
    rw [port_beforeFault]
    exact h.failing hl
  have dark : ((goDark p (.fault cause) (beforeFault p s)).port p).Flies k := by
    rw [port_goDark, port_setPower_eq]
    exact (before.enter (beforeFault p s).clock (.fault cause)).of_queue rfl
  rw [enterFault_eq, port_recordLoss, port_modPort_self]
  exact dark.serveUpTo _

end Port.Flies

theorem countFailure_flies {e : Exchange} (hr : 2 ≤ (s.port p).run) (hl : (s.port p).power.isLost = false)
    (he : (s.port p).lane = some e) (hs : e.src = .job) (h : (s.port p).Flies k) : ((countFailure p s).port p).Flies k := by
  have queue : ((s.counted p).port p).queue = (s.port p).queue := counted_record Port.queue p s
  have lane : ((s.counted p).port p).lane = some e := (counted_record Port.lane p s).trans he
  rw [countFailure_last hr hl]
  exact (h.of_queue queue).enterFault (by simp [Port.laneHasJob, lane, hs]) _

theorem failed_flies {e : Exchange} (hr : 2 ≤ (s.port p).run) (hl : (s.port p).power.isLost = false)
    (he : (s.port p).lane = some e) (hs : e.src = .job) (h : (s.port p).Flies k) (a : Bool) : ((s.failed p a).port p).Flies k := by
  have sampled : (s.modPort p ({ · with attention := a })).port p = { s.port p with attention := a } := port_modPort_self ..
  have flies : ((countFailure p (s.modPort p ({ · with attention := a }))).port p).Flies k := by
    refine countFailure_flies (e := e) ?_ ?_ ?_ hs ?_ <;> rw [sampled]
    · exact hr
    · exact hl
    · exact he
    · exact h.of_queue rfl
  rw [State.failed, setLane, port_modPort_self]
  exact flies.of_queue rfl

end Head

/-! ## Jobs whose exchange fails -/

section Jobs

variable {s : State} {p : PortId} {e : Exchange} {j : Job} {js : List Job}

theorem exec_responseLimitExpiry_head (hl : (s.port p).lane = some e) (hr : e.retry = true) (hs : e.src = .job)
    (ha : 2 ≤ s.attemptAge e) (a : Bool) : exec (.responseLimitExpiry p a) s =
      .next (finish (withHead p (fun j => jobFailure p j) (s.failedThrough p e a))) := by
  have hlim : s.limitMayBeReached p = true := by simp [State.limitMayBeReached, hl, ha]
  show execResponseLimitExpiry p a s = _
  simp only [execResponseLimitExpiry, hl, hlim, if_true, attemptFailed, hr, exchangeFailure, hs]
  rfl

/-- A THERMAL_READ that fails below the run of 3 (R30, R31). -/
theorem thermal_failed (h : JobFails p e j js s) (ho : e.op = .read) (hk : j.kind = .thermalRead)
    (hrail : (s.port p).power.railOn = true) (a : Bool) :
    ∃ u : State, exec (.responseLimitExpiry p a) s = .next (finish u) ∧ (u.port p).grade = none ∧ (u.port p).lane = none ∧
      u.table = s.table ∧ (∀ q, q ≠ p → u.port q = s.port q) ∧ u.still = s.still ∧
      (u.port p).run = (s.port p).run + 1 ∧ (u.port p).reading = none ∧ (u.port p).power = (s.port p).power := by
  have ⟨_, _, _, _, hq, _, hr⟩ := h
  obtain ⟨power, grade, run, lane, -, -, table, still, others⟩ := jobFailed_spec hr a
  have ends : exec (.responseLimitExpiry p a) s = .next (finish ((s.jobFailed p a).modPort p Port.serveRoom)) := by
    rw [exec_responseLimitExpiry_job h a, if_neg (by simp [Exchange.throughPart, ho])]
    simp only [jobFailure, hk]
    rw [jobEnd_quiet_failed hq hr (by simp [Job.holdsPause, Job.isHost, Job.isPrep, hk]) (by simp [Job.isPowerMode, hk])
      (by simp [Job.isPoll, hk])]
    rfl
  have reading : ((s.jobFailed p a).port p).reading = none := by
    rw [State.jobFailed, port_modPort_self]
    exact (failed_record Port.reading hr a).trans (if_pos hrail)
  have body : (((s.jobFailed p a).port p).serveRoom).body = ((s.jobFailed p a).port p).body := body_serveRoom _
  refine ⟨_, ends, ?_⟩
  rw [port_modPort_self, field_of_body body Port.grade, field_of_body body Port.lane, field_of_body body Port.run,
    field_of_body body Port.reading, field_of_body body Port.power]
  exact ⟨grade, lane, table, fun q hq => (port_modPort_ne (Ne.symm hq) _ _).trans (others q hq), still, run, reading, power⟩

/-- A THERMAL_READ whose failure is the third of a run (R31). -/
theorem thermal_lost (hl : (s.port p).lane = some e) (hr : e.retry = true) (hs : e.src = .job) (ho : e.op = .read)
    (ha : 2 ≤ s.attemptAge e) (hq : (s.port p).queue = j :: js) (hj : j.started = true) (hk : j.kind = .thermalRead)
    (hrail : (s.port p).power.railOn = true) (hrun : 2 ≤ (s.port p).run) (a : Bool) :
    ∃ u : State, exec (.responseLimitExpiry p a) s = .next (finish u) ∧ (u.port p).grade = none ∧ (u.port p).lane = none ∧
      u.table = s.table ∧ (∀ q, q ≠ p → u.port q = s.port q) ∧ u.still = s.still ∧
      (u.port p).run = 3 ∧ (u.port p).power = .fault .laneLost ∧ (u.port p).reading = some 0 ∧ (u.port p).resv = none ∧
      u.marked p := by
  have alive : (s.port p).power.isLost = false := by
    revert hrail
    cases (s.port p).power <;> simp [Power.railOn, Power.isLost]
  obtain ⟨entered, run, grade, lane⟩ := failed_last hrun alive a
  obtain ⟨power, reading, -, resv, -, -, -, -, -, -, -, marked, table, others, still, -⟩ := entered
  obtain ⟨i, is, hi, his, hik⟩ := failed_flies hrun alive hl hs ⟨j, js, hq, hj, hk⟩ a
  have through : s.failedThrough p e a = s.failed p a := if_neg (by simp [Exchange.throughPart, ho])
  have ends : exec (.responseLimitExpiry p a) s =
      .next (finish (((s.failed p a).modPort p ({ · with queue := is })).modPort p Port.serveRoom)) := by
    rw [exec_responseLimitExpiry_head hl hr hs ha, through, withHead, hi]
    dsimp only
    rw [if_pos his]
    simp only [jobFailure, hik]
    rw [jobEnd_quiet hi (by simp [Job.holdsPause, Job.isHost, Job.isPrep, hik]) (by simp [Job.isPowerMode, hik])
      (by simp [Job.isPoll, hik])]
    rfl
  have body : (({ (s.failed p a).port p with queue := is } : Port).serveRoom).body = ((s.failed p a).port p).body := body_serveRoom _
  have on : OnPort p (s.failed p a) (((s.failed p a).modPort p ({ · with queue := is })).modPort p Port.serveRoom) :=
    ((OnPort.refl p _).modPort _).modPort _ (by simp)
  refine ⟨_, ends, ?_⟩
  rw [port_modPort_self, port_modPort_self, field_of_body body Port.grade, field_of_body body Port.lane, field_of_body body Port.run,
    field_of_body body Port.reading, field_of_body body Port.power, field_of_body body Port.resv]
  exact ⟨grade, lane, table, fun q hq => (on.others q hq).trans (others q hq), still, run, power, reading, resv, on.marks p marked⟩

theorem outer_failed (h : (s.port p).run < 2) (a : Bool) : (s.failed p a).outer = s.outer := by
  have hr : ((s.modPort p ({ · with attention := a })).port p).run < 2 := by rwa [port_modPort_self]
  rw [State.failed, setLane, outer_modPort, countFailure_below hr]
  repeat' split
  · rfl
  · exact outer_setGradeChanged p _
  · exact outer_setGradeChanged p _

/-- A host job that fails is answered TIMED_OUT (R41, R154). -/
theorem host_failed (h : JobFails p e j js s) {t : Nat} {body : List Byte}
    (hk : (∃ n, j.kind = .hostRead t n ∧ body = [0x0C#8, 0x00#8, 0x00#8]) ∨ (∃ n v, j.kind = .hostWrite t n v ∧ body = [0x0C#8]))
    (a : Bool) : ∃ u : State, exec (.responseLimitExpiry p a) s = .next (finish u) ∧
      u.line = s.line.map (fun x : ReplyEntry => if x.ticket = t ∧ x.body = none then { x with body := some body } else x) ∧
      (u.port p).run = (s.port p).run + 1 ∧ (u.port p).grade = none ∧ (u.port p).lane = none ∧ u.still = s.still ∧
      (∀ q, q ≠ p → u.port q = s.port q) := by
  have ⟨_, _, _, _, hq, _, hr⟩ := h
  obtain ⟨ks, hks⟩ := failed_queue hr hq a
  have queue : ((s.failedThrough p e a).port p).queue = j :: ks := by rw [port_failedThrough, hks]
  have holds : j.holdsPause = true := by
    rcases hk with ⟨n, hk, -⟩ | ⟨n, v, hk, -⟩ <;> simp [Job.holdsPause, Job.isHost, hk]
  let v : State := ((giveAnswer t body ((s.failedThrough p e a).modPort p ({ · with queue := ks }))).modPort p Port.serveRoom)
  have ends : exec (.responseLimitExpiry p a) s = .next (finish (pausingEvent p v)) := by
    rw [exec_responseLimitExpiry_job h a]
    show (.next (finish (jobFailure p j (s.failedThrough p e a))) : Result) = _
    rcases hk with ⟨n, hk, rfl⟩ | ⟨n, x, hk, rfl⟩
    all_goals
      simp only [jobFailure, hk]
      rw [jobEnd_holdsPause queue holds]
      rfl
  obtain ⟨-, still, -⟩ := failedThrough_spec s p e a
  have outer := outer_failed hr a
  have line : (s.failedThrough p e a).line = s.line := by
    unfold State.failedThrough
    split
    · exact (line_writeThrough p _ false _).trans (outer_parts outer).2.2.2.2.2.2.1
    · exact (outer_parts outer).2.2.2.2.2.2.1
  have port : (v.port p).body = ((s.failed p a).port p).body := by
    rw [show v.port p = _ from port_modPort_self .., body_serveRoom, port_giveAnswer, port_modPort_self, port_failedThrough]
    rfl
  have core := core_pausingEvent p v
  obtain ⟨-, grade, run, lane, -⟩ := jobFailed_spec hr a
  rw [State.jobFailed, port_modPort_self] at grade run lane
  have others (q : PortId) (hq : q ≠ p) : v.port q = s.port q := by
    rw [show v.port q = _ from port_modPort_ne (Ne.symm hq) .., port_giveAnswer, port_modPort_ne (Ne.symm hq), port_failedThrough]
    exact (onPort_failed s p a).others q hq
  refine ⟨_, ends, ?_, ?_, ?_, ?_, ?_, fun q hq => (((OnPort.refl p v).pausingEvent).others q hq).trans (others q hq)⟩
  · rw [(outer_parts (outer_pausingEvent p v)).2.2.2.2.2.2.1]
    show List.map _ (s.failedThrough p e a).line = _
    rw [line]
  · rw [field_of_core core Port.run, field_of_body port Port.run, run]
  · rw [field_of_core core Port.grade, field_of_body port Port.grade, grade]
  · rw [field_of_core core Port.lane, field_of_body port Port.lane, lane]
  · rw [(outer_parts (outer_pausingEvent p v)).1]
    exact still.trans (keeps_failed s p a).still

end Jobs

end Sys2Proof.Machine

namespace Sys2Proof.Machine

/-! ## A POWER_MODE that fails (R22) -/

section Mode

variable {s : State} {p : PortId} {e : Exchange} {j : Job} {js : List Job} {t : Target} {f : Profile}

/-- Planning changes nothing of a READY camera's record. -/
theorem port_replan_ready (h : (s.port p).power.isReady = true) : (replan p s).port p = s.port p := by
  have one (i : Nat) (u : State) (hu : u.port p = s.port p) : (planOne p i u).port p = s.port p := by
    have set (d : Option Disp) : (setDisp i p d none u).port p = s.port p := hu
    unfold planOne
    split
    · exact hu
    dsimp only
    split
    · exact set _
    split
    · exact set _
    split
    · exact set _
    split
    · exact set _
    rw [hu]
    cases hp : (s.port p).power with
    | ready => exact set _
    | _ => exact absurd h (by simp [hp, Power.isReady])
  have all (l : List Nat) (u : State) (hu : u.port p = s.port p) : (forEach l (planOne p) u).port p = s.port p := by
    induction l generalizing u with
    | nil => exact hu
    | cons i l ih => exact ih _ (one i u hu)
  exact all _ s rfl

/-- A reservation not yet used is given up by a READY camera (R112). -/
theorem resv_undoReservation_ready (h : (s.port p).power.isReady = true) :
    ((undoReservation p s).port p).resv = if (s.port p).startedResv then (s.port p).resv else none := by
  have withdrawn : (withdraw p s).port p = { s.port p with resv := none } := port_modPort_self ..
  have started : (s.port p).startedResv = ((s.port p).resv.isSome && !(s.port p).unstarted) := by
    unfold Port.startedResv Port.unstarted
    cases (s.port p).resv with
    | none => rfl
    | some r => simp
  unfold undoReservation
  split
  next hu =>
    have replanned : (replan p (withdraw p s)).port p = { s.port p with resv := none } :=
      (port_replan_ready (by rw [withdrawn]; exact h)).trans withdrawn
    rw [port_settleCommitment_eq, replanned, started, hu]
    simp
  next hu =>
    rw [started]
    cases hr : (s.port p).resv <;> simp [hu]

/-- What the entry to READY leaves as the change of state does, when no pause is pending. -/
theorem field_readied {α : Type} (g : Port → α) (h : (s.port p).power.pending? = none) (rest : Bool)
    (hb : ∀ c : Port, g c.body = g c := by exact fun _ => rfl)
    (hp : ∀ (c : Port) w, g { c with power := w } = g c := by exact fun _ _ => rfl)
    (ho : ∀ c : Port, g { c with order := none } = g c := by exact fun _ => rfl) :
    g ((enterReady p rest s).port p) = g ((setPower p (.ready none none) s).port p) := by
  have rested : g ((if rest then startRest p (setPower p (.ready none none) s) else setPower p (.ready none none) s).port p) =
      g ((setPower p (.ready none none) s).port p) := by
    split
    · rw [startRest_ready (power_setPower p _ s), port_modPort_self, hp]
    · rfl
  simp only [enterReady, h]
  generalize (if rest then startRest p (setPower p (.ready none none) s) else setPower p (.ready none none) s) = v at rested
  have checked : g ((checkOnReady p v).port p) = g ((setPower p (.ready none none) s).port p) := by
    refine (forEach_field (fun u : State => g (u.port p)) _ (fun c u => ?_) _ v).trans rested
    have entries : (checkEntries p c.form c.profile u).port p = u.port p := by
      unfold checkEntries
      split <;> rfl
    unfold prepareMember
    dsimp only
    split
    · exact congrArg g entries
    · show g ((State.modPort _ p _).port p) = _
      rw [port_modPort_self, field_of_body (body_enqueue _ _) g hb, entries]
  rcases handOver_cases p (checkOnReady p v) with hv | ⟨k, hv⟩
  · rw [hv, checked]
  · rw [hv, port_modPort_self, field_of_body (body_enqueue _ _) g hb, ho]
    exact checked

/-- A READY camera keeps what it has committed (R83). -/
theorem commitment_enterReady (h : (s.port p).power.pending? = none) (rest : Bool) :
    ((enterReady p rest s).port p).commitment = (s.port p).commitment := by
  rw [field_readied Port.commitment h rest, port_setPower_eq]
  have awake : ¬ ((Power.ready none none).awakeState = false ∧ (s.port p).resv = none) := fun idle => Bool.noConfusion idle.1
  rw [if_neg awake]

theorem pending_of_paused (h : (s.port p).power.paused? = some t) : (s.port p).power.pending? = none := by
  revert h
  cases (s.port p).power with
  | ready | pausing | waking | vacant | fault | armed => nofun
  | doze | deep | keepwarm => exact fun _ => rfl

/-- The end of a POWER_MODE job whose exchange failed, from the state in which the job has left the queue. -/
def modeFailed (p : PortId) (t : Target) (s : State) : State :=
  startWaitingResume p ((powerModeFailed p t s).modPort p Port.serveRoom)

theorem outer_modeFailed (p : PortId) (t : Target) (s : State) : (modeFailed p t s).outer = s.outer := by
  rw [modeFailed, outer_startWaitingResume, outer_modPort, outer_powerModeFailed]

theorem onPort_modeFailed (p : PortId) (t : Target) (s : State) : OnPort p s (modeFailed p t s) :=
  (((OnPort.refl p s).powerModeFailed t).modPort _ (by simp)).startWaitingResume

theorem exec_responseLimitExpiry_modeFailed (h : JobFails p e j js s) (he : e.throughPart = false) (hk : j.kind = .powerMode t) (a : Bool) :
    exec (.responseLimitExpiry p a) s =
      .next (finish (modeFailed p t (s.jobFailed p a))) := by
  have ⟨_, _, _, _, hq, hs, hr⟩ := h
  obtain ⟨ks, hks⟩ := failed_queue hr hq a
  rw [exec_responseLimitExpiry_job h a, if_neg (by simp [he])]
  simp only [jobFailure, hk]
  rw [jobEnd_powerMode hks hk hs]
  rfl

theorem startWaitingResume_served {v : State} (h : (v.port p).resumeWait = none) :
    startWaitingResume p (v.modPort p Port.serveRoom) = v.modPort p Port.serveRoom := by
  refine startWaitingResume_none ?_
  rw [port_modPort_self, field_of_body (body_serveRoom _) Port.resumeWait]
  exact h

theorem field_jobFailed {α : Type} (g : Port → α) (h : (s.port p).run < 2) (a : Bool)
    (hb : ∀ c : Port, g c.body = g c := by exact fun _ => rfl)
    (hu : ∀ c : Port, g c.unmarked = g c := by exact fun _ => rfl)
    (hg : ∀ c : Port, g { c with gradeChanged := true } = g c := by exact fun _ => rfl)
    (hl : ∀ c : Port, g { c with lane := none } = g c := by exact fun _ => rfl)
    (ha : ∀ (c : Port) a, g ({ c with attention := a } : Port).failedOnce = g c := by exact fun _ _ => rfl) :
    g ((s.jobFailed p a).port p) = g (s.port p) := by
  have plain (c : Port) : g c.failedOnce = g c := ha c c.attention
  have queue : ({ (s.failed p a).port p with queue := ((s.failed p a).port p).queue.tail } : Port).body = ((s.failed p a).port p).body := rfl
  rw [State.jobFailed, port_modPort_self, field_of_body queue g hb, failed_record g h a hb hu hg hl (fun c b => (ha c b).trans (plain c).symm), plain]

/-- The camera whose POWER_MODE failed holds a reservation: back to READY, and one not yet used is given up (R22). -/
theorem mode_reserved {v : State} (hp : (v.port p).power.paused? = some t) (ht : t ≠ .deep) (hr : (v.port p).resv.isSome = true) :
    ((modeFailed p t v).port p).power = .ready (v.restFrom p) none ∧ ((modeFailed p t v).port p).noteAbandoned = true ∧
      (modeFailed p t v).marked p ∧
      ((modeFailed p t v).port p).resv = (if (v.port p).startedResv then (v.port p).resv else none) := by
  let r : State := addAbandoned p (enterReady p true v)
  have pending := pending_of_paused hp
  have port : r.port p = { (enterReady p true v).port p with
      noteAbandoned := true, camMark := (r.port p).camMark } := port_addAbandoned_eq p _
  have power : (r.port p).power = .ready (v.restFrom p) none := by
    rw [port]
    exact (enterReady_free pending true).trans (by simp)
  have resv : (r.port p).resv = (v.port p).resv := by
    rw [port]
    exact field_of_core (core_enterReady p true v) Port.resv
  have started : (r.port p).startedResv = (v.port p).startedResv := by
    unfold Port.startedResv
    rw [resv]
  have ready : (r.port p).power.isReady = true := by
    rw [power]
    rfl
  have plans : Plans p r (undoReservation p r) := (Plans.refl p r).undoReservation (by rw [power]; rfl)
  have on : OnPort p r ((undoReservation p r).modPort p Port.serveRoom) := ((OnPort.refl p r).undoReservation).modPort _ (by simp)
  have fails : powerModeFailed p t v = undoReservation p r := by
    unfold powerModeFailed
    rw [if_pos (by simp [hp, ht]), if_pos hr]
  have wait : ((undoReservation p r).port p).resumeWait = none := by
    rw [field_of_planless plans.record Port.resumeWait, port]
    exact resumeWait_enterReady pending true
  have body : (((undoReservation p r).port p).serveRoom).body = ((undoReservation p r).port p).body := body_serveRoom _
  rw [modeFailed, fails, startWaitingResume_served wait, port_modPort_self, field_of_body body Port.power, field_of_body body Port.noteAbandoned,
    field_of_body body Port.resv, plans.power, field_of_planless plans.record Port.noteAbandoned, resv_undoReservation_ready ready, started,
    resv]
  refine ⟨power, ?_, on.marks p (marked_addAbandoned p _), rfl⟩
  rw [port]

/-- The camera has no reservation, and the steady budget admits it: back to READY (R22, R83). -/
theorem mode_admitted {v : State} (hp : (v.port p).power.paused? = some t) (ht : t ≠ .deep) (hr : (v.port p).resv = none)
    (hf : (v.port p).profile = some f) (ha : v.committed + f.awake ≤ v.steady) :
    ((modeFailed p t v).port p).power = .ready (v.restFrom p) none ∧ ((modeFailed p t v).port p).noteAbandoned = true ∧
      (modeFailed p t v).marked p ∧
      ((modeFailed p t v).port p).commitment = some f.awake := by
  have port : (commit p v).port p = { v.port p with commitment := some f.awake } := by
    rw [commit, port_modPort_self]
    have current : (v.port p).awakeCurrent = f.awake := by
      unfold Port.awakeCurrent
      rw [hf]
    rw [current]
  have pending : ((commit p v).port p).power.pending? = none := by
    rw [port]
    exact pending_of_paused hp
  obtain ⟨power, wait, -⟩ := modeAbandoned_spec pending
  have restFrom : (commit p v).restFrom p = v.restFrom p := by
    unfold State.restFrom State.stationOf
    rw [port]
    rfl
  have admits : v.admits p 0 = true := by
    unfold State.admits Port.awakeCurrent
    rw [hf]
    exact decide_eq_true ha
  have fails : (powerModeFailed p t v).modPort p Port.serveRoom = modeAbandoned p (commit p v) := by
    unfold powerModeFailed
    rw [if_pos (by simp [hp, ht]), if_neg (by simp [hr]), if_pos admits]
    rfl
  rw [modeFailed, fails, startWaitingResume_none wait]
  refine ⟨power.trans (by rw [restFrom]), note_modeAbandoned p _, marked_modeAbandoned p _, ?_⟩
  rw [field_modeAbandoned p _ Port.commitment (fun _ => rfl) (fun _ _ _ => rfl), commitment_enterReady pending, port]

/-- The steady budget does not admit it: the camera goes to DEEP (R22, R83). -/
theorem mode_refused {v : State} (hp : (v.port p).power.paused? = some t) (ht : t ≠ .deep) (hr : (v.port p).resv = none)
    (hf : (v.port p).profile = some f) (ha : v.steady < v.committed + f.awake) :
    ((modeFailed p t v).port p).power = .deep ∧ ((modeFailed p t v).port p).reading = some 0 ∧ (modeFailed p t v).marked p ∧ ((modeFailed p t v).port p).commitment = none ∧
      (∀ a ∈ (modeFailed p t v).adv, a.port ≠ p) := by
  have face := face_enterDeep p v
  have awake : (v.port p).power.isDeep = false := by
    cases hw : (v.port p).power with
    | deep => exact absurd (Option.some.inj (hp.symm.trans (congrArg Power.paused? hw))) ht
    | _ => rfl
  have refuses : v.admits p 0 = false := by
    unfold State.admits Port.awakeCurrent
    rw [hf]
    exact decide_eq_false (by show ¬ v.committed - 0 + f.awake ≤ v.steady; omega)
  have fails : powerModeFailed p t v = enterDeep p v := by
    unfold powerModeFailed
    rw [if_pos (by simp [hp, ht]), if_neg (by simp [hr]), if_neg (by simp [refuses])]
  have on : OnPort p (enterDeep p v) ((enterDeep p v).modPort p Port.serveRoom) := (OnPort.refl p _).modPort _ (by simp)
  have body : (((enterDeep p v).port p).serveRoom).body = ((enterDeep p v).port p).body := body_serveRoom _
  rw [modeFailed, fails, startWaitingResume_served (field_of_face face Port.resumeWait), port_modPort_self, field_of_body body Port.power,
    field_of_body body Port.reading, field_of_body body Port.commitment]
  refine ⟨field_of_face face Port.power, field_of_face face Port.reading, on.marks p (marked_enterDeep awake),
    (field_of_face face Port.commitment).trans (if_pos hr), enterDeep_adv p v⟩

/-- The camera is in another state than the job's: the failure changes nothing more. -/
theorem mode_elsewhere {v : State} (hp : (v.port p).power.paused? ≠ some t) (hw : (v.port p).resumeWait = none) :
    ((modeFailed p t v).port p).power = (v.port p).power := by
  have fails : powerModeFailed p t v = v := by
    unfold powerModeFailed
    exact if_neg (by simp [hp])
  rw [modeFailed, fails, startWaitingResume_served hw, port_modPort_self]
  exact field_of_body (body_serveRoom _) Port.power

/-- The failure of a POWER_MODE by the state of the camera and the steady budget (R22). -/
theorem mode_failed (h : JobFails p e j js s) (he : e.throughPart = false) (hk : j.kind = .powerMode t) (ht : t ≠ .deep)
    (hf : (s.port p).profile = some f) (hw : (s.port p).resumeWait = none) (a : Bool) :
    ∃ u : State, exec (.responseLimitExpiry p a) s = .next (finish u) ∧ u.still = s.still ∧
      (∀ q, q ≠ p → u.port q = s.port q) ∧
      ((s.port p).power.paused? = some t → (s.port p).resv.isSome = true →
        (u.port p).power = .ready (s.restFrom p) none ∧
        (u.port p).power.isReady = true ∧ (u.port p).noteAbandoned = true ∧ u.marked p ∧
        (u.port p).resv = (if (s.port p).startedResv then (s.port p).resv else none)) ∧
      ((s.port p).power.paused? = some t → (s.port p).resv = none → s.committed + f.awake ≤ s.steady →
        (u.port p).power = .ready (s.restFrom p) none ∧ (u.port p).power.isReady = true ∧
          (u.port p).noteAbandoned = true ∧ u.marked p ∧
        (u.port p).commitment = some f.awake) ∧
      ((s.port p).power.paused? = some t → (s.port p).resv = none → s.steady < s.committed + f.awake →
        (u.port p).power = .deep ∧ (u.port p).reading = some 0 ∧ u.marked p ∧ (u.port p).commitment = none ∧
        (∀ a ∈ u.adv, a.port ≠ p)) ∧
      ((s.port p).power.paused? ≠ some t → (s.port p).power.isPausing = false → (u.port p).power = (s.port p).power) := by
  have ⟨_, _, _, _, _, _, hr⟩ := h
  obtain ⟨power, -, -, -, -, -, -, still, others⟩ := jobFailed_spec hr a
  have resv : ((s.jobFailed p a).port p).resv = (s.port p).resv := field_jobFailed Port.resv hr a
  have started : ((s.jobFailed p a).port p).startedResv = (s.port p).startedResv := field_jobFailed Port.startedResv hr a
  have profile : ((s.jobFailed p a).port p).profile = some f := (field_jobFailed Port.profile hr a).trans hf
  have wait : ((s.jobFailed p a).port p).resumeWait = none := (field_jobFailed Port.resumeWait hr a).trans hw
  have commitment : ((s.jobFailed p a).port p).commitment = (s.port p).commitment := field_jobFailed Port.commitment hr a
  have steady : (s.jobFailed p a).steady = s.steady := congrArg (fun x => x.2.2.1) still
  have committed : (s.jobFailed p a).committed = s.committed := by
    rw [committed_eq, committed_eq]
    refine congrArg List.sum (List.map_congr_left fun q _ => ?_)
    by_cases hq : q = p
    · rw [hq, commitment]
    · rw [others q hq]
  have rest := restFrom_jobFailed hr a
  have still' := (outer_parts (outer_modeFailed p t (s.jobFailed p a))).1
  refine ⟨_, exec_responseLimitExpiry_modeFailed h he hk a, still'.trans still,
    fun q hq => ((onPort_modeFailed p t _).others q hq).trans (others q hq), fun hp hs => ?_, fun hp hs hb => ?_,
    fun hp hs hb => ?_, fun hp _ => ?_⟩
  · obtain ⟨ready, note, marked, left⟩ := mode_reserved (v := s.jobFailed p a) (by rw [power]; exact hp) ht (by rw [resv]; exact hs)
    rw [ready, left, rest, started, resv]
    exact ⟨rfl, rfl, note, marked, rfl⟩
  · obtain ⟨ready, note, marked, left⟩ := mode_admitted (v := s.jobFailed p a) (by rw [power]; exact hp) ht (resv.trans hs) profile
      (by rw [committed, steady]; exact hb)
    rw [ready, rest]
    exact ⟨rfl, rfl, note, marked, left⟩
  · exact mode_refused (by rw [power]; exact hp) ht (resv.trans hs) profile (by rw [committed, steady]; exact hb)
  · rw [mode_elsewhere (by rw [power]; exact hp) wait, power]

end Mode

/-- Settles O23: the exchanges that fail, of a THERMAL_READ, of a wake, of a host job and of a POWER_MODE, and those of a wake
that succeed. -/
theorem failedExchangeCounts : Obligations.FailedExchangeCounts := by
  unfold Obligations.FailedExchangeCounts
  refine ⟨fun p s e j js a hl hr hs ho ha hq hj hk hrail => ?thermal,
    fun p s w e x st d a hw hl hs ha hv ht => ?succeeds, fun p s w e x a hw hl hs hr ha => ?fails,
    fun p s e j js t n v body a hl hr hs ha hq hj hrun hk => ?host,
    fun p s e j js t f a hl hr hs he ha hq hj hk ht hrun hf hw =>
      mode_failed ⟨hl, hs, hr, ha, hq, hj, hrun⟩ he hk ht hf hw a⟩
  case thermal =>
    by_cases hrun : (s.port p).run < 2
    · obtain ⟨u, run, grade, lane, table, others, still, count, reading, power⟩ :=
        thermal_failed ⟨hl, hs, hr, ha, hq, hj, hrun⟩ ho hk hrail a
      exact ⟨u, run, grade, lane, table, others, still, fun _ => ⟨count, reading, power⟩, fun h => absurd hrun (by omega)⟩
    · obtain ⟨u, run, grade, lane, table, others, still, spec⟩ := thermal_lost hl hr hs ho ha hq hj hk hrail (by omega) a
      exact ⟨u, run, grade, lane, table, others, still, fun h => absurd h hrun, fun _ => spec⟩
  case succeeds =>
    have here : WakeSucceeds p w e x st d s := ⟨hw, hl, hs, ha, hv⟩
    refine ⟨fun ph owed hp => here.phase ?_ a hp, fun pr pr' rest hx hp => here.restore (by rw [ht, hx]) hx hp a,
      fun hd hp => here.ready hd hp a, fun ps hd hp => here.paused hd hp a,
      fun t hx hp hd => here.unready (by rw [ht, hx]) hx hp hd a⟩
    rw [ht]
    rcases hp with ⟨_, _, rfl, -⟩ | ⟨_, _, rfl, -⟩ | ⟨_, _, rfl, -⟩ | ⟨_, _, rfl, -⟩ | ⟨_, rfl, -⟩ | ⟨_, _, rfl, -⟩ <;> rfl
  case fails =>
    have here : WakeFails p w e x s := ⟨hw, hl, hs, hr, ha⟩
    exact ⟨fun hrun => here.lost hrun a, fun hrun => ⟨fun hd => here.faulted hrun hd a, fun ph owed hd => here.goesOn hrun hd a⟩⟩
  case host =>
    exact host_failed ⟨hl, hs, hr, ha, hq, hj, hrun⟩
      (hk.elim (fun h => .inl ⟨n, h⟩) (fun h => .inr ⟨n, v, h⟩)) a

end Sys2Proof.Machine
